-- ==== Sys2Proof/Word.lean ====
section
/-! DEFINITION. The word types of the KN16 and the widths of sub-elements (R14, R72). -/

namespace Sys2Proof

/-- A byte of memory. -/
abbrev Byte := BitVec 8

/-- A 64-bit register or lane value (R11). -/
abbrev Word64 := BitVec 64

/-- A mask of the 32 home lanes of a home weave; bit l stands for lane l (R22, R28). -/
abbrev Mask := BitVec 32

/-- A 40-bit slot index, the program counter (R82). -/
abbrev Slot := BitVec 40

/-- A 96-bit instruction word (R70). -/
abbrev Word96 := BitVec 96

/-- The sub-element widths of R14, in the order of the W field. -/
inductive Width where
  | d | w | h | b
  deriving DecidableEq, Repr

/-- The number of bits of a sub-element (R14). -/
def Width.bits : Width → Nat
  | .d => 64
  | .w => 32
  | .h => 16
  | .b => 8

/-- The number of sub-elements of a lane value (R14). -/
def Width.count : Width → Nat
  | .d => 1
  | .w => 2
  | .h => 4
  | .b => 8

/-- The W field of a width (R72). -/
def Width.code : Width → BitVec 2
  | .d => 0
  | .w => 1
  | .h => 2
  | .b => 3

/-- The width of a W field (R72). -/
def Width.ofCode (c : BitVec 2) : Width :=
  if c = 0 then .d else if c = 1 then .w else if c = 2 then .h else .b

end Sys2Proof
end

