-- ==== Sys2Proof/Config.lean ====
section
/-! DEFINITION. The free values: constants without a body, one for each kind of value the manual leaves open. -/

namespace Sys2Proof.Config

/-- A fresh 64-bit value: what an agent outside the module supplies, or a choice the manual leaves open. -/
opaque freeWord : Nat → Word64

/-- The code that a special function proposes for an input, where the manual gives only an error bound (R137): a fixed
function of the opcode, the width of the format and the input code. -/
opaque specialCode : (opcode width input : Nat) → Nat

/-- PENDING, INBOUND and OUTBOUND of a barrier object after the update that breaks it (R226): bits 19 to 0, 51 to 20 and 83
to 52, by the object before the update. -/
opaque brokenCounts : (before : Nat) → BitVec 84

/-- Which of the 32 L2 slices of its base die is the home of a 128-byte line (R4, R182). -/
opaque sliceOfLine : (line : Nat) → BitVec 5

/-- The HDM decoders of the CXL ports map this physical address (R416): how they are programmed is not given. -/
opaque hdmDecodes : (pa : Nat) → Bool

/-- The operator's first key, in key slot 0 of a module as it is delivered (R458). -/
opaque firstKey : BitVec 512

/-- The public half of the module's identity key pair (R458). -/
opaque identityKey : BitVec 512

/-- What the identity key signs bytes with (R462). -/
opaque identitySign : List Byte → BitVec 512

/-- An SM2 signature over bytes verifies with a public key (R457). -/
opaque verifies : (key : BitVec 512) → (message : List Byte) → (signature : List Byte) → Bool

end Sys2Proof.Config
end

