-- ==== Sys2Proof/Machine/Map.lean ====
section
/-! DEFINITION. Finite maps by number, and lists used as sets, the plain data that the sparse parts of the state are held
in. -/

namespace Sys2Proof.Machine

/-- A finite map from numbers, an entry for each key that has been given a value. -/
abbrev Map (α : Type) := List (Nat × α)

/-- The entry of a key. -/
def Map.find {α : Type} : Map α → Nat → Option α
  | [], _ => none
  | (k, v) :: rest, key => if k = key then some v else Map.find rest key

/-- The entry of a key, or `d` where there is none. -/
def Map.at {α : Type} (m : Map α) (d : α) (key : Nat) : α := (Map.find m key).getD d

/-- The map with one entry set; keys stay rising. -/
def Map.put {α : Type} (m : Map α) (key : Nat) (value : α) : Map α :=
  match m with
  | [] => [(key, value)]
  | (k, v) :: rest =>
    if k = key then (key, value) :: rest
    else if key < k then (key, value) :: (k, v) :: rest
    else (k, v) :: Map.put rest key value

/-- The map without an entry for a key. -/
def Map.drop {α : Type} (m : Map α) (key : Nat) : Map α := m.filter fun e => e.1 ≠ key

/-- The map with the entry of a key changed, if there is one. -/
def Map.change {α : Type} (m : Map α) (key : Nat) (g : α → α) : Map α :=
  m.map fun e => if e.1 = key then (e.1, g e.2) else e

/-- The map with every entry changed. -/
def Map.changeAll {α : Type} (m : Map α) (g : Nat → α → α) : Map α := m.map fun e => (e.1, g e.1 e.2)

/-- The keys. -/
def Map.keys {α : Type} (m : Map α) : List Nat := m.map Prod.fst

/-- The values. -/
def Map.values {α : Type} (m : Map α) : List α := m.map Prod.snd

/-- The smallest number at or above `from` that is no key. -/
def Map.freshFrom {α : Type} (m : Map α) : Nat → Nat → Nat
  | 0, start => start
  | fuel + 1, start => if (Map.find m start).isSome then Map.freshFrom m fuel (start + 1) else start

/-- The smallest number that is no key. -/
def Map.fresh {α : Type} (m : Map α) : Nat := Map.freshFrom m m.length 0

/-- A number above every key. -/
def Map.next {α : Type} (m : Map α) : Nat := m.foldl (fun n e => max n (e.1 + 1)) 0

/-- A list used as a set, with one more member. -/
def setAdd (l : List Nat) (n : Nat) : List Nat := if l.contains n then l else l ++ [n]

/-- A list used as a set, without one member. -/
def setDrop (l : List Nat) (n : Nat) : List Nat := l.filter (· ≠ n)

/-- A list used as a set, with further members. -/
def setUnion (l : List Nat) (more : List Nat) : List Nat := more.foldl setAdd l

/-- The numbers `low` to `low + n - 1`. -/
def span (low n : Nat) : List Nat := (List.range n).map (low + ·)

/-- The elements of a list with a key other than one of `keys` removed. -/
def keepKeys {α : Type} (m : Map α) (keys : List Nat) : Map α := m.filter fun e => keys.contains e.1

/-- An element put before the first one whose measure is not less. -/
def insertBy {α : Type} (measure : α → Nat) (x : α) : List α → List α
  | [] => [x]
  | y :: rest => if measure x ≤ measure y then x :: y :: rest else y :: insertBy measure x rest

/-- The elements in rising order of a measure. -/
def sortBy {α : Type} (measure : α → Nat) : List α → List α
  | [] => []
  | x :: rest => insertBy measure x (sortBy measure rest)

/-- The first element with the greatest measure. -/
def greatestBy {α : Type} (measure : α → Nat) : List α → Option α
  | [] => none
  | x :: rest =>
    match greatestBy measure rest with
    | none => some x
    | some y => if measure y ≤ measure x then some x else some y

/-- The first element with the least measure. -/
def leastBy {α : Type} (measure : α → Nat) : List α → Option α
  | [] => none
  | x :: rest =>
    match leastBy measure rest with
    | none => some x
    | some y => if measure x ≤ measure y then some x else some y

/-- The first difference decides. -/
def lexBefore : List Nat → List Nat → Bool
  | [], _ => false
  | _, [] => false
  | a :: as, b :: bs => a < b || (a = b && lexBefore as bs)

end Sys2Proof.Machine
end

