-- ==== Sys2Proof/Machine/Memory.lean ====
section
/-! DEFINITION. Memory: cells in one canonical form, and reading and writing bytes of it.

Physical addresses take the cells below 2^52 (R391). The memories inside the module that are no physical address (chip
scratchpad, core scratchpad, cluster contributions, lane-private slices, operand buffers) take cells above, as
`Sys2Proof.Machine.onChip` lays them out. -/

namespace Sys2Proof.Machine

/-- The cells of memory that differ from zero, in rising order of address. -/
abbrev Memory := List Host.Cell

/-- The byte of an unlisted address. -/
def Memory.rest : Byte := 0

/-- The byte at an address. -/
def Memory.read : Memory → Nat → Byte
  | [], _ => Memory.rest
  | (k, b) :: m, a => if k = a then b else if a < k then Memory.rest else Memory.read m a

/-- The memory with one byte written. -/
def Memory.write : Memory → Nat → Byte → Memory
  | [], a, b => if b = Memory.rest then [] else [(a, b)]
  | (k, v) :: m, a, b =>
    if k = a then (if b = Memory.rest then m else (a, b) :: m)
    else if a < k then (if b = Memory.rest then (k, v) :: m else (a, b) :: (k, v) :: m)
    else (k, v) :: Memory.write m a b

/-- Every listed address is above `low`. -/
def Memory.above (low : Nat) (m : Memory) : Bool := m.all fun c => low < c.1

/-- The canonical form: rising addresses and no entry that an unlisted address reads as. -/
def Memory.wf : Memory → Bool
  | [] => true
  | (k, v) :: m => v != Memory.rest && Memory.above k m && Memory.wf m

/-- The bytes from an address on. -/
def Memory.readBytes (m : Memory) (a n : Nat) : List Byte := (List.range n).map fun k => Memory.read m (a + k)

/-- The memory with bytes written from an address on. -/
def Memory.writeBytes (m : Memory) (a : Nat) : List Byte → Memory
  | [] => m
  | b :: rest => Memory.writeBytes (Memory.write m a b) (a + 1) rest

/-- The memory with the cells `low` to `low + n - 1` zeroed. -/
def Memory.zero (m : Memory) (low n : Nat) : Memory := m.filter fun c => c.1 < low || low + n ≤ c.1

/-- The listed cells of a range, as offsets from its start. -/
def Memory.slice (m : Memory) (low n : Nat) : Memory :=
  (m.filter fun c => low ≤ c.1 && c.1 < low + n).map fun c => (c.1 - low, c.2)

/-- The little-endian number of bytes. -/
def natOfBytes : List Byte → Nat
  | [] => 0
  | b :: rest => b.toNat + 256 * natOfBytes rest

/-- The little-endian bytes of a number. -/
def bytesOfNat : Nat → Nat → List Byte
  | 0, _ => []
  | n + 1, v => BitVec.ofNat 8 v :: bytesOfNat n (v / 256)

/-- The little-endian number held by `n` bytes from an address on. -/
def Memory.readNat (m : Memory) (a n : Nat) : Nat := natOfBytes (Memory.readBytes m a n)

/-- The memory with `n` little-endian bytes of a number written. -/
def Memory.writeNat (m : Memory) (a n v : Nat) : Memory := Memory.writeBytes m a (bytesOfNat n v)

/-- Bits `high` to `low` of a number. -/
def bits (v high low : Nat) : Nat := v / 2 ^ low % 2 ^ (high + 1 - low)

/-- One bit of a number. -/
def bit (v n : Nat) : Bool := v.testBit n

/-- The first cell above the physical addresses (R391). -/
def onChipBase : Nat := 2 ^ 52

/-- The memories inside the module. -/
inductive Region where
  | chip | scratch | cluster | slice | opbuf
  deriving DecidableEq, Repr

/-- The number of a region in the layout of cells. -/
def Region.code : Region → Nat
  | .chip => 0
  | .scratch => 1
  | .cluster => 2
  | .slice => 3
  | .opbuf => 4

/-- The first cell of an owner's memory: a partition's chip scratchpad, a team's scratchpad or cluster contribution, a
thread's slice, a team's operand-buffer range. -/
def onChip (r : Region) (owner : Nat) : Nat := onChipBase + (owner * 8 + r.code) * 2 ^ 36

/-- The region number and the owner of a cell above the physical addresses. -/
def ownerOf (a : Nat) : Option (Nat × Nat) :=
  if a < onChipBase then none else some ((a - onChipBase) / 2 ^ 36 % 8, (a - onChipBase) / 2 ^ 36 / 8)

end Sys2Proof.Machine
end

