-- ==== Sys2Proof/Syntax.lean ====
section
/-! DEFINITION. The instructions of the opcode map (R79) and the events of the opcode table, as syntax. -/

namespace Sys2Proof

/-- An operand of R75. The codes 0xEA to 0xEF are no operand. -/
inductive Operand where
  | v (n : BitVec 7)
  | s (n : BitVec 6)
  | p (n : BitVec 3)
  | c (n : BitVec 3)
  | w (n : BitVec 4)
  | q (n : BitVec 3)
  | imm
  | zero
  | a (n : BitVec 4)
  deriving DecidableEq, Repr

/-- The fields of an instruction word other than OPCODE and the reserved bits (R70, R72). -/
structure Fields where
  /-- GUARD[13], negate -/
  neg : Bool
  /-- GUARD[12:10], the predicate number -/
  guard : BitVec 3
  d : Operand
  a : Operand
  b : Operand
  c : Operand
  /-- MOD W -/
  width : Width
  /-- MOD T -/
  t : BitVec 4
  /-- MOD RM -/
  rm : BitVec 2
  /-- MOD SAT -/
  sat : Bool
  /-- MOD X -/
  x : Bool
  /-- HINTS (R74) -/
  dead : Bool
  stream : Bool
  reuse : Bool
  yieldHint : Bool
  imm : BitVec 32
  deriving DecidableEq, Repr

/-- The register spaces a write without a row of its own can reach: BAR0 of a function (R408) and the scheduler
register block of a partition (R454). -/
inductive RegSpace where
  | bar0 | sched
  deriving DecidableEq, Repr

/-- A peer's access through an inbound window (R417). -/
inductive BusAccess where
  | read (bytes : Nat)
  | write (data : List Byte)
  deriving DecidableEq, Repr

/-- What arrives over Twill from another module (R418, R352), with the end of a settle that its home announces (R402). -/
inductive TwillRequest where
  | read (pa bytes : Nat)
  | write (pa : Nat) (data : List Byte)
  | partialValue (job : Nat) (data : List Byte)
  | unsettle (fn va : Nat)
  deriving DecidableEq, Repr

/-- The answer of another module to a retried access (R418, R451). -/
inductive RemoteAnswer where
  | recovering
  | served
  deriving DecidableEq, Repr

/-- A move of a MIGR page (R400 to R402). `inward` tells whether the page comes to this module. `data` is the page's
content as sent by the home, and `winStart`, `moves` travel with it. -/
structure PageMove where
  inward : Bool
  fn : Nat
  va : Nat
  peer : BitVec 10
  peerFrame : BitVec 26
  winStart : BitVec 32
  settleEnd : BitVec 32
  moves : BitVec 4
  data : List Byte
  deriving DecidableEq, Repr

/-- A codeword (R438): a v or s register or a predicate of a wave; a c, w or q register of a team by its operand code, a q
register also by its pair; a tile row; a codeword of a 128-byte line: of a memory inside the module or of HBM, of a core's L1, of
its instruction caches, of an L2; one of a die's firmware SRAM; one of a core's side log and of its release table. -/
inductive StorageUnit where
  | vreg (weave reg : Nat)
  | sreg (weave reg : Nat)
  | pred (weave reg : Nat)
  | teamReg (team code pair : Nat)
  | tileRow (team tile row : Nat)
  | line (cell word : Nat)
  | l1 (core line word : Nat)
  | code (core key word : Nat)
  | l2 (line word : Nat)
  | firmware (die word : Nat)
  | sideLog (core word : Nat)
  | releases (core word : Nat)
  deriving DecidableEq, Repr

/-- What a patrol read finds in a codeword (R444). -/
inductive PatrolFinding where
  | clean | correctable | uncorrectable
  deriving DecidableEq, Repr

/-- The nonce of a management command (R460), and the public key with which its signature over the command and the nonce
verifies; none where it verifies with none. -/
structure MgmtAuth where
  nonce : BitVec 64
  signer : Option (BitVec 512)
  deriving DecidableEq, Repr

/-- What the READ command of the management interface names (R460). -/
inductive MgmtObject where
  | errorLog (die : Nat)
  | measurement (index : Nat)
  | scrubRecord
  | identityKey
  deriving DecidableEq, Repr

/-- The supply rails of R469. -/
inductive Rail where
  | vcore | vmem | vio | vaux
  deriving DecidableEq, Repr

/-- One constructor for each row of the opcode table. The first 149 are the words of R79 (MOV_SUBELEMENT being the
form of MOV with X = 1, R119); the others are the events of the module, each with what it is about. -/
inductive Instr where
  | iadd (f : Fields)
  | isub (f : Fields)
  | iadds (f : Fields)
  | isubs (f : Fields)
  | imul (f : Fields)
  | imulh (f : Fields)
  | imad (f : Fields)
  | idiv (f : Fields)
  | irem (f : Fields)
  | imin (f : Fields)
  | imax (f : Fields)
  | iabs (f : Fields)
  | ineg (f : Fields)
  | iaddc (f : Fields)
  | lea (f : Fields)
  | idot (f : Fields)
  | andOp (f : Fields)
  | orOp (f : Fields)
  | xorOp (f : Fields)
  | andn (f : Fields)
  | notOp (f : Fields)
  | shl (f : Fields)
  | shr (f : Fields)
  | sar (f : Fields)
  | rot (f : Fields)
  | fshr (f : Fields)
  | popc (f : Fields)
  | clz (f : Fields)
  | ctz (f : Fields)
  | brev (f : Fields)
  | bfx (f : Fields)
  | bfi (f : Fields)
  | prmb (f : Fields)
  | icmp (f : Fields)
  | sel (f : Fields)
  | mov (f : Fields)
  | movSubelement (f : Fields)
  | movi (f : Fields)
  | movs (f : Fields)
  | movv (f : Fields)
  | pset (f : Fields)
  | pmov (f : Fields)
  | cvti (f : Fields)
  | fadd (f : Fields)
  | fsub (f : Fields)
  | fmul (f : Fields)
  | ffma (f : Fields)
  | fmin (f : Fields)
  | fmax (f : Fields)
  | fcmp (f : Fields)
  | fclass (f : Fields)
  | fdot2 (f : Fields)
  | fcvt (f : Fields)
  | frnd (f : Fields)
  | ftoi (f : Fields)
  | itof (f : Fields)
  | frcp (f : Fields)
  | frsq (f : Fields)
  | fsqrt (f : Fields)
  | fexp2 (f : Fields)
  | flog2 (f : Fields)
  | fsin (f : Fields)
  | fcos (f : Fields)
  | ftanh (f : Fields)
  | xmax (f : Fields)
  | xscale (f : Fields)
  | xsplit (f : Fields)
  | qpack (f : Fields)
  | qunpk (f : Fields)
  | qdeq (f : Fields)
  | spsel (f : Fields)
  | spexp (f : Fields)
  | perm (f : Fields)
  | bcast (f : Fields)
  | shfl (f : Fields)
  | vote (f : Fields)
  | reduce (f : Fields)
  | scan (f : Fields)
  | matchOp (f : Fields)
  | bra (f : Fields)
  | brx (f : Fields)
  | call (f : Fields)
  | callx (f : Fields)
  | ret (f : Fields)
  | exit (f : Fields)
  | reform (f : Fields)
  | trap (f : Fields)
  | bpt (f : Fields)
  | nop (f : Fields)
  | conv (f : Fields)
  | sign (f : Fields)
  | pdis (f : Fields)
  | pen (f : Fields)
  | syield (f : Fields)
  | getsys (f : Fields)
  | setsys (f : Fields)
  | trapret (f : Fields)
  | icpref (f : Fields)
  | icpin (f : Fields)
  | icunpin (f : Fields)
  | ckreq (f : Fields)
  | ld (f : Fields)
  | st (f : Fields)
  | ldm (f : Fields)
  | stm (f : Fields)
  | pref (f : Fields)
  | cctl (f : Fields)
  | atom (f : Fields)
  | acas (f : Fields)
  | red (f : Fields)
  | fence (f : Fields)
  | waitv (f : Fields)
  | cpy (f : Fields)
  | cpym (f : Fields)
  | cpyr (f : Fields)
  | wmrd (f : Fields)
  | wmwait (f : Fields)
  | cpyq (f : Fields)
  | cpyc (f : Fields)
  | jobsub (f : Fields)
  | binit (f : Fields)
  | barr (f : Fields)
  | barrx (f : Fields)
  | bwait (f : Fields)
  | btest (f : Fields)
  | cjoin (f : Fields)
  | cleave (f : Fields)
  | cgen (f : Fields)
  | qsend (f : Fields)
  | qrecv (f : Fields)
  | qpeek (f : Fields)
  | spawn (f : Fields)
  | steal (f : Fields)
  | synct (f : Fields)
  | mma (f : Fields)
  | mmas (f : Fields)
  | mmaq (f : Fields)
  | mmam (f : Fields)
  | accz (f : Fields)
  | accsc (f : Fields)
  | accx (f : Fields)
  | accrd (f : Fields)
  | accwr (f : Fields)
  | accst (f : Fields)
  | accld (f : Fields)
  | obres (f : Fields)
  | obrel (f : Fields)
  | obwr (f : Fields)
  | obrd (f : Fields)
  | trapEntry (weave : Nat) (cause : Byte) (pc : Slot) (addr : Word64) (lanes trapped : Mask)
  | preemptWindowLimit (gang : Nat)
  | waitvWake (line : Nat)
  | waitvTimeout (weave lane : Nat)
  | copyLandElement (copy : Nat)
  | copyWalkRetry (copy : Nat)
  | copyComplete (copy : Nat)
  | jobEnd (job : Nat)
  | matrixComplete (op : Nat)
  | binAged (core bin : Nat)
  | binDraw (core bin : Nat)
  | yieldPeriodEnd (weave lane : Nat)
  | watchdog (gang : Nat)
  | sidelogWalkRetry (core page : Nat)
  | sidelogReplay (core page : Nat)
  | pageRequestExpire (core page : Nat)
  | faultRecordWrite (die : Nat)
  | releaseWriteback (core line : Nat)
  | l1CleanExpire (core line : Nat)
  | sliceRead (fn queue : Nat)
  | ctrset (fn queue : Nat)
  | nopSlice (fn queue : Nat)
  | sliceSelect (part : Nat)
  | sliceDispatch (fn queue : Nat)
  | gangPlace (gang : Nat)
  | sublaunchComplete (slice sub : Nat)
  | budgetExhausted (slice : Nat)
  | nodeBudgetReached (node : Nat)
  | periodRenew (node : Nat)
  | rcbFieldWriteback (node : Nat)
  | rcbReread (node : Nat)
  | l2StageFill (slice sub record : Nat)
  | stageReservationExpire (slice : Nat)
  | preemptRequest (gang : Nat)
  | controlSave (gang : Nat)
  | newcomerPlace (gang : Nat)
  | bankSpill (core : Nat)
  | gangResume (gang : Nat)
  | tqInv (fn : Nat)
  | tqScrub (fn : Nat)
  | tqPooladd (fn : Nat)
  | pageMove (move : PageMove)
  | settleEnd (frame : Nat)
  | notify (fn : Nat) (value : Word64)
  | qbindBind (fn queue : Nat) (qcb : Word64)
  | qbindUnbind (fn queue : Nat) (qcb : Word64)
  | qbindRebind (fn queue : Nat) (qcb : Word64)
  | fncfgWrite (fn : Nat) (value : Word64)
  | trootWrite (fn : Nat) (value : Word64)
  | registerWrite (space : RegSpace) (owner offset : Nat) (value : Word64)
  | functionLevelReset (fn : Nat)
  | flrComplete (fn : Nat)
  | msixCoalesceExpire (fn : Nat)
  | inboundAccess (port : Nat) (requester : Nat) (bus : Word64) (access : BusAccess)
  | twillPlaneFail (plane : Nat)
  | remoteRetry (weave : Nat) (answer : RemoteAnswer)
  | remoteCeilingExpire (gang : Nat)
  | checkpointTimer (context : Nat)
  | checkpointRequest (context : Nat)
  | checkpointCut (context : Nat)
  | checkpointStream (context : Nat)
  | checkpointImageComplete (context : Nat)
  | launchRollback (slice : Nat)
  | patrolRead (die : Nat) (unit : StorageUnit) (found : PatrolFinding)
  | timingReplay (core : Nat)
  | iftDue (core : Nat)
  | iftRun (core : Nat) (mismatch : Word64)
  | iftWaitExpire (core : Nat)
  | scmdExtend (part : Nat) (obj arg1 arg2 : Word64)
  | scmdPreempt (part : Nat) (obj arg1 arg2 : Word64)
  | scmdKill (part : Nat) (obj arg1 arg2 : Word64)
  | scmdResume (part : Nat) (obj arg1 arg2 : Word64)
  | scmdCancel (part : Nat) (obj arg1 arg2 : Word64)
  | scmdUnrecoverable (part : Nat) (obj arg1 arg2 : Word64)
  | scmdDiscard (part : Nat) (obj arg1 arg2 : Word64)
  | scmdRestore (part : Nat) (obj arg1 arg2 : Word64)
  | romBoot
  | fwload (part : Nat) (image : Word64)
  | mgmtLeaseReset (auth : MgmtAuth) (part : Nat)
  | scrubRecord (part : Nat)
  | mgmtPartition (auth : MgmtAuth) (masks : List (BitVec 16))
  | mgmtSetfd (auth : MgmtAuth) (power switch : BitVec 16)
  | mgmtKeyslot (auth : MgmtAuth) (slot : Nat) (key : Option (BitVec 512)) (floor : BitVec 32)
  | mgmtCapset (auth : MgmtAuth) (core : Nat) (mask : Word64)
  | mgmtPolicy (auth : MgmtAuth) (part : Nat) (flags : BitVec 32)
  | mgmtRead (object : MgmtObject)
  | migStart (fn : Nat) (bitmap : Word64)
  | migRound (fn : Nat) (bitmap : Word64)
  | migStop (fn : Nat) (bitmap : Word64)
  | migResume (fn : Nat) (bitmap : Word64)
  | migCancel (fn : Nat) (bitmap : Word64)
  | jobWrite (job : Nat)
  | twillRemoteAccess (peer : Nat) (request : TwillRequest)
  | twillPlaneUp (plane : Nat)
  | inFieldTestEnd (core : Nat)
  | thermalThrottle (die : Nat)
  | thermalRecover (die : Nat)
  | powerUp (bootFlash : List Byte)
  | railOutOfRange (rail : Rail)
  deriving DecidableEq, Repr

end Sys2Proof
end

