-- ==== Sys2Proof/Machine/State.lean ====
section
/-! DEFINITION. The state of a module as plain data: every register, table and queue the manual gives it. -/

namespace Sys2Proof.Machine

/-! ### Registers of waves and teams -/

/-- The 32 lane values of a v register; a lane beyond the end of the list is zero. -/
abbrev Lanes := List Word64

/-- A convergence register (R22), with the slot of the set's first signature (R175). -/
structure Conv where
  hweave : BitVec 6 := 0
  gen : BitVec 4 := 0
  signed : Mask := 0
  members : Mask := 0
  slot : Slot := 0
  deriving DecidableEq, Repr

/-- A watermark register (R24). -/
structure Watermark where
  slot : BitVec 6 := 0
  failed : Bool := false
  frozen : Bool := false
  active : Bool := false
  landed : BitVec 32 := 0
  deriving DecidableEq, Repr

/-- A translation as it is cached: the page and what its leaf gives (R323, R392). -/
structure Translation where
  asid : Nat
  page : Nat
  size : Nat
  frame : Nat
  attr : BitVec 2
  canRead : Bool
  canWrite : Bool
  canExec : Bool
  /-- the page's home is the module in bits 51 to 42 of the frame (R392) -/
  remote : Bool := false
  /-- the physical address of the leaf -/
  leaf : Nat := 0
  deriving DecidableEq, Repr

/-- A thread parked by WAITV (R202): the monitored line, the slot of the WAITV, the predicate to write and the clock at
which it times out. -/
structure Wait where
  line : Nat
  pc : Slot
  dest : Operand
  until? : Option Nat
  /-- the clock of the WAITV and the first thread of its issue group, by weave and lane: they tell the group (R163) -/
  parked : Nat
  first : Nat × Nat
  /-- the register that the WAITV marked dead (R40, R192) -/
  marked : Option Nat := none
  deriving DecidableEq, Repr

/-- A compute weave or a shadow wave (R258, R259). -/
structure Weave where
  team : Nat := 0
  weaveId : Nat := 0
  shadow : Bool := false
  /-- the home lanes that hold a thread (R16) -/
  live : Mask := 0
  v : Map Lanes := []
  s : Map Word64 := []
  p : Map Mask := []
  trapCause : Byte := 0
  trapPc : Slot := 0
  trapAddr : Word64 := 0
  trapLanes : Mask := 0
  /-- the level of R172: handler when true -/
  handler : Bool := false
  nest : Bool := false
  /-- the lanes held by trap entry (R170) -/
  held : Mask := 0
  /-- held because the partner wave trapped (R261) -/
  partnerHeld : Bool := false
  /-- the trapped set of an entry that must run again from its step 3 (R333) -/
  entry : Option Mask := none
  /-- registers marked dead (R40) -/
  dead : List Nat := []
  /-- registers written since the last cut (R39, R427) and since the last save (R380) -/
  dirtyV : List Nat := []
  dirtyS : Bool := false
  dirtyP : Bool := false
  savedV : List Nat := []
  poisonV : List Nat := []
  poisonS : List Nat := []
  waits : Map Wait := []
  /-- the ends of the yield periods of its threads (R266) -/
  yielding : Map Nat := []
  /-- the last-page registers of its thread slots (R323) -/
  lastPage : Map Translation := []
  /-- failed side-log entries its threads have not learnt of (R329): cause, address, lanes -/
  failures : List (Byte × Nat × Mask) := []
  /-- waits in BWAIT, SYNCT, CGEN.wait and WMWAIT by slot and lanes: the cell of the barrier object or COUNT, 0 where the wait is
  for no cell, and whether the cell's team has ended (R219, R229, R231, R237, R272, R283) -/
  bwaits : Map (Nat × Bool) := []
  /-- the lanes that wait on an access to another module whose latest answer was RECOVERING: PTIME since when, and the module
  (R418, R451) -/
  recovering : Map (Nat × Nat) := []
  /-- the tokens of jobs that ended while its team was saved: register and value (R214, R377) -/
  late : List (Nat × Word64) := []
  /-- when its lanes last issued, in clocks of the gang's watchdog (R339); 0 where not listed -/
  issued : List (Mask × Nat) := []
  deriving DecidableEq, Repr

/-- An operand-buffer reservation of a team (R253, R254). -/
structure Reservation where
  /-- its offset among the team's reservations, which pre-emption and resume keep -/
  base : Nat := 0
  bytes : Nat := 0
  record : Word64 := 0
  /-- where its bytes stand in the core's buffer, in their order: runs by address and length; none while it stands on no core -/
  place : List (Nat × Nat) := []
  deriving DecidableEq, Repr

/-- The arrays of a core (R378). -/
inductive CoreArray where
  | registers | lanes | scratch | cluster | tiles | opbuf | queues | teamState
  deriving DecidableEq, Repr

/-- A team (R258). -/
structure Team where
  gang : Nat := 0
  sub : Nat := 0
  teamId : Nat := 0
  /-- the index within the gang (R29) -/
  index : Nat := 0
  core : Nat := 0
  conv : Map Conv := []
  wm : Map Watermark := []
  /-- the FIFOs q0 to q7 of each pair: WEAVEID times 8 plus the number -/
  fifos : Map (List Lanes) := []
  /-- accumulator elements: tile times 4096 plus row times 64 plus column -/
  tiles : Map (BitVec 32) := []
  poisonRows : List Nat := []
  dirtyRows : List Nat := []
  savedRows : List Nat := []
  /-- the token that the last completed copy of each watermark register wrote (R218) -/
  tokens : Map Word64 := []
  /-- the countdowns of jobs on barrier objects of its scratchpad while it was saved: offset and units (R223, R377) -/
  owed : List (Nat × Nat) := []
  /-- operand-buffer reservations by handle -/
  reservations : Map Reservation := []
  /-- member of its window's sharing group (R35) -/
  joined : Bool := false
  ended : Bool := false
  /-- it had ended in the image that its context was resumed from, and holds no place (R436) -/
  released : Bool := false
  /-- the parts of its record in the save area that hold a copy, by offset (R380) -/
  inArea : List Nat := []
  /-- the banks of its core that were claimed and zeroed while it was saved: what it had there stands in the save area -/
  gone : List (CoreArray × Nat) := []
  /-- nothing of it stands on a core: all it has stands in the save area -/
  away : Bool := false
  /-- the FIFOs changed since the last save (R380) -/
  savedFifos : List Nat := []
  /-- its control record was saved in its core-bound part only: the rest stands in the team-state store (R376) -/
  stateHeld : Bool := false
  /-- instruction-cache pins by line, at L1I and at L2 (R182) -/
  pinsL1 : List Nat := []
  /-- pinned lines of code, each with the lines of L2 that hold it (R182) -/
  pinsL2 : Map (List Nat) := []
  deriving DecidableEq, Repr, Inhabited

/-- A sharing-group window of 32 in-gang indices (R35). -/
structure Window where
  gen : BitVec 16 := 0
  members : Mask := 0
  deriving DecidableEq, Repr

/-! ### Work on cores -/

/-- The states of a gang (R364). -/
inductive GangState where
  | unplaced | placed | running | parked | preempted | retired
  deriving DecidableEq, Repr

/-- The report that parked a gang (R335). -/
structure Report where
  cause : Byte := 0
  weave : Nat := 0xFFFF
  team : Nat := 0
  pc : Option Slot := none
  addr : Word64 := 0
  lanes : Mask := 0
  /-- the frame store failed, so entry restarts at step 3 (R333) -/
  frame : Bool := false
  deriving DecidableEq, Repr

/-- A pre-emption-disabled window (R176). -/
structure Pdis where
  opened : Nat
  crit : Bool
  deriving DecidableEq, Repr

/-- A place in a bin or on the overflow list (R263). -/
structure Filed where
  weave : Nat
  lane : Nat
  team : Nat
  shadow : Bool
  pc : Slot
  wait : Nat := 0
  deriving DecidableEq, Repr

/-- A bin (R263). -/
structure Bin where
  team : Nat
  shadow : Bool
  pc : Slot
  /-- the weave whose thread stands in each lane's place -/
  places : Map Nat := []
  wait : Nat := 0
  aged : Bool := false
  /-- the selector has taken it for this clock: its number in the order of issue (R265) -/
  picked : Option Nat := none
  deriving DecidableEq, Repr

/-- An issue group outside the bins (R262). -/
structure Group where
  /-- its weaves and, of each, its home lanes -/
  members : List (Nat × Mask)
  pc : Slot
  wait : Nat := 0
  /-- it came up in this clock and was withdrawn: it was not ready (R262) -/
  stalled : Bool := false
  /-- the selector has taken it for this clock: its number in the order of issue (R265) -/
  picked : Option Nat := none
  deriving DecidableEq, Repr

/-- What a side-log entry will do (R327). -/
inductive SideOp where
  | store (bytes : List (Nat × Byte))
  | reduce (va : Nat) (width : Width) (op : BitVec 4) (operand : Word64)
  deriving DecidableEq, Repr

/-- An entry of the side log (R327). -/
structure SideEntry where
  slice : Nat
  asid : Nat
  page : Nat
  team : Nat
  /-- the weaves whose lanes it is from, and those lanes -/
  members : List (Nat × Mask)
  pc : Slot
  addr : Nat
  op : SideOp
  /-- of a releasing store or RED of scope .group or wider (R310) -/
  release : Bool := false
  deriving DecidableEq, Repr

/-- The weave and the lanes that a report about the entry names: those of its first lane. -/
def SideEntry.weave (e : SideEntry) : Nat := (e.members.headD (0, 0)).1

def SideEntry.lanes (e : SideEntry) : Mask := (e.members.headD (0, 0)).2

/-- The entry holds bytes of lanes of a weave. -/
def SideEntry.writtenBy (e : SideEntry) (u : Nat) (m : Mask) : Bool := e.members.any fun x => x.1 = u && x.2 &&& m != 0

/-- Why and whence a gang was saved, and what of its issue state the save keeps (R270, R384). -/
structure Saved where
  groups : List Group := []
  filed : List Filed := []
  parked : Bool := false
  held : Bool := false
  crit : Bool := false
  /-- the clock at which the request took effect -/
  at_ : Nat := 0
  /-- PTIME of the save -/
  time : Nat := 0
  /-- the cores it last stood on -/
  cores : List Nat := []
  /-- its side-log entries, in log order (R192) -/
  side : List SideEntry := []
  /-- the window that was open at the cut whose image it stands for: the clocks it had been open, and CRIT (R384, R426) -/
  window : Option (Nat × Bool) := none
  /-- the bytes of its teams' control records, whose format is internal (R384) -/
  controls : Map (List Byte) := []
  deriving DecidableEq, Repr

/-- A gang (R361 to R365). -/
structure Gang where
  sub : Nat := 0
  gangId : Nat := 0
  state : GangState := .unplaced
  /-- its run of cores -/
  cores : List Nat := []
  windows : Map Window := []
  pdis : Option Pdis := none
  report : Option Report := none
  /-- a pre-emption request that waits for a window or a trap entry (R375) -/
  requested : Bool := false
  /-- the request took effect: its clock, and whether a critical window's close let it (R375, R388) -/
  draining : Option (Nat × Bool) := none
  /-- held at instruction boundaries since BUDGET was reported (R178, R335) -/
  stopped : Bool := false
  saved : Option Saved := none
  /-- the clocks in which it was neither pre-empted nor parked, which its watchdog counts (R339) -/
  lived : Nat := 0
  /-- it was pre-empted by an in-field test and has not resumed (R449) -/
  forTest : Bool := false
  /-- killed by a reset of its function or the scheduler -/
  killed : Bool := false
  deriving DecidableEq, Repr

/-- The header of a kernel image as the front end read it (R97). -/
structure Kernel where
  image : Nat := 0
  codeOff : Nat := 0
  codeSlots : Nat := 1
  entry : Nat := 0
  shadowEntry : Option Nat := none
  uses : Word64 := 0
  teamThreads : Nat := 1
  regs : Nat := 16
  acc : Nat := 0
  gangCores : Nat := 1
  gangMin : Nat := 1
  gangTeams : Nat := 1
  scratch : Nat := 0
  cluster : Nat := 0
  argSize : Nat := 0
  dataOff : Nat := 0
  dataSize : Nat := 0
  deriving DecidableEq, Repr

/-- A working-set record with its base resolved (R369). -/
structure WorkingSet where
  base : Nat
  toScratch : Bool
  prio : Nat
  bytes : Nat
  soff : Nat
  deriving DecidableEq, Repr

/-- A footprint region with its base resolved (R353). -/
structure Footprint where
  base : Nat
  bytes : Nat
  write : Bool
  deriving DecidableEq, Repr

/-- The states of a sub-launch. -/
inductive SubState where
  | waiting | started | complete | neverStarted
  deriving DecidableEq, Repr

/-- A sub-launch of a dispatched bundle (R351). -/
structure Sub where
  slice : Nat := 0
  index : Nat := 0
  waitMask : Nat := 0
  /-- a kernel, or an engine card when none -/
  kernel : Option Kernel := none
  card : List Byte := []
  cardAddr : Nat := 0
  gangs : Nat := 0
  args : Nat := 0
  handler : Option Slot := none
  fbase : Nat := 0
  xzero : Bool := false
  xbase : Nat := 0
  xsize : Nat := 0
  sets : List WorkingSet := []
  footprint : List Footprint := []
  state : SubState := .waiting
  /-- the next GANGID to place, and the gangs retired (R363, R274) -/
  nextGang : Nat := 0
  gangsDone : Nat := 0
  /-- its gangs have been killed, those not yet placed among them (R355) -/
  killed : Bool := false
  /-- the clock in which its last gang retired (R360) -/
  retiredAt : Nat := 0
  job : Option Nat := none
  /-- its L2 records that were refused, by 0, or admitted, by one more than the number of the pages filled (R371) -/
  staging : Map Nat := []
  /-- the frames whose lines its fills hold against replacement -/
  lines : List Nat := []
  deriving DecidableEq, Repr

/-- The states of a slice (R350). -/
inductive SliceState where
  | queued | eligible | dispatched | running | held | preempted | killed | refused | retired
  deriving DecidableEq, Repr

/-- The kinds of a slice (R344). -/
inductive SliceKind where
  | launch | ctrset | nop
  deriving DecidableEq, Repr

/-- A job slice that has been read (R344), with the context it runs as (R28, R356). -/
structure Slice where
  fn : Nat := 0
  queue : Nat := 0
  ringIndex : Nat := 0
  /-- restored into its queue, so that it holds no ring entry (R456) -/
  offRing : Bool := false
  kind : SliceKind := .nop
  state : SliceState := .queued
  waitCtr : Option Nat := none
  sigCtr : Option Nat := none
  cplAddr : Option Nat := none
  ctrValue : BitVec 32 := 0
  /-- quota class and priority of its queue (R341) -/
  qclass : Nat := 0
  prio : Nat := 0
  deadline : Nat := 0
  budget : Nat := 0
  /-- BUDGETLEFT as a read returns it, and the clock at which it was last refreshed (R34) -/
  left : Nat := 0
  leftAt : Nat := 0
  bundle : Nat := 0
  rcb : Nat := 0
  /-- the entry as it was read -/
  entry : List Byte := []
  subs : List Nat := []
  /-- PTIME at which a checkpoint request was registered that is still pending (R183, R424) -/
  ckptAsked : Option Nat := none
  /-- the first failure (R355): status, sub-launch, detail; and its clock -/
  failure : Option (Byte × Nat × Byte) := none
  failedAt : Nat := 0
  /-- the scheduler was told that the budget is spent (R358) -/
  told : Bool := false
  /-- the clock at which staging of a slice that left the lookahead ends (R374) -/
  stagedUntil : Option Nat := none
  /-- the pages its launch snapshot holds and whether its effects are irrevocable (R434) -/
  snapshot : Memory := []
  snapPages : List Nat := []
  snapPoison : List Nat := []
  rollbacks : Nat := 0
  irrevocable : Bool := false
  /-- the virtual pages its context wrote since the last cut (R427) -/
  dirtyPages : List Nat := []
  /-- PTIME that must pass before its first instruction (R30) -/
  notBefore : Nat := 0
  /-- it has been launched, or resumed from an image, since it was read: its context has its registers (R28, R356) -/
  setUp : Bool := false
  /-- its gangs were discarded and wait for a RESTORE (R437) -/
  discarded : Bool := false
  deriving DecidableEq, Repr

/-! ### Cores -/

/-- A line of a core's L1 (R314, R316). -/
structure L1Line where
  /-- its 128 bytes, those present -/
  bytes : List (Option Byte)
  dirty : List Nat
  /-- the dirty bytes are on a UO page -/
  uo : Bool
  /-- the teams that dirtied it -/
  writers : List Nat
  filled : Nat
  /-- the number of the write that made it dirty, in the order of its core's writes (R305) -/
  since : Nat := 0
  deriving DecidableEq, Repr

/-- An instruction line in an L1I (R83): its cells, how many of its bytes were fetched, and the physical ranges they came
from. -/
structure CodeLine where
  cells : Memory
  count : Nat
  parts : List (Nat × Nat)
  deriving DecidableEq, Repr

/-- An entry of the release table: the variable's line, and the recorded lines in the order of their recording (R314). -/
structure Release where
  line : Nat
  lines : List Nat
  deriving DecidableEq, Repr

/-- An outstanding page request of a core (R324). -/
structure PageRequest where
  slice : Nat
  asid : Nat
  page : Nat
  posted : Nat
  deriving DecidableEq, Repr

/-- What a team holds of an array of its core: runs of 256-byte granules, each by its first granule and its length, in the
order of the team's bytes (R378). -/
structure Holding where
  team : Nat
  array : CoreArray
  runs : List (Nat × Nat)
  deriving DecidableEq, Repr

/-- A bank that newcomers have claimed and that has still to be spilled and zeroed (R380): their gangs, whether its spill has
begun, and the clock in which one of them first accessed it. -/
structure Claim where
  array : CoreArray
  bank : Nat
  gangs : List Nat
  begun : Bool := false
  touched : Option Nat := none
  deriving DecidableEq, Repr

/-- A core (R28, R263, R314, R327). -/
structure Core where
  capmask : Word64 := BitVec.allOnes 64
  l1 : Map L1Line := []
  releases : List Release := []
  /-- how many writes its L1 has taken (R305) -/
  writes : Nat := 0
  sideLog : List SideEntry := []
  tlb : List Translation := []
  /-- instruction lines by space and address (R83, R85) -/
  icache : Map CodeLine := []
  /-- lines of the L1 and of the instruction caches whose own codeword was found uncorrectable (R439) -/
  toxicL1 : List Nat := []
  toxicCode : List Nat := []
  bins : Map Bin := []
  overflow : List Filed := []
  /-- the team that led pass 2 of the last clock in which there was one (R265) -/
  leader : Nat := 0
  monitors : List Nat := []
  requests : List PageRequest := []
  /-- what teams hold of its arrays, those of pre-empted gangs among them (R378) -/
  holdings : List Holding := []
  /-- the banks that newcomers have claimed (R380) -/
  claims : List Claim := []
  /-- PTIME of the end of the last in-field test, and since when a test is due (R448) -/
  tested : Nat := 0
  testDue : Option Nat := none
  /-- its timing detectors have had it scheduled for a test (R443) -/
  testAsked : Bool := false
  /-- the gangs that a due test waits for, each with the PTIME at which the wait ends (R450) -/
  testWait : Map Nat := []
  /-- the slices that a test has had cut (R450) -/
  testCuts : List Nat := []
  /-- PTIME at which a running test began -/
  testRuns : Bool := false
  testFrom : Nat := 0
  /-- the clock of the last walk of each page with pending side-log entries (R328) -/
  retried : Map Nat := []
  /-- PTIME of the replays of its timing detectors within the last 1 ms (R443) -/
  replays : List Nat := []
  deriving DecidableEq, Repr

/-! ### Engines -/

/-- A copy in flight, or a failed one that keeps its slot (R206 to R217, R287, R297, R372). Copies are numbered in issue
order. -/
structure Copy where
  core : Nat := 0
  slot : Nat := 0
  team : Nat := 0
  weave : Nat := 0
  slice : Nat := 0
  asid : Nat := 0
  /-- the watermark register's number -/
  wm : Nat := 0
  /-- the scalar register that takes the token -/
  token : Option Nat := none
  /-- the destination space code: 2, 3 or 4 -/
  space : Nat := 2
  doff : Nat := 0
  nbytes : Nat := 0
  /-- the layout record and the coordinates as they were read at issue -/
  record : List Byte := []
  coords : List (BitVec 32) := []
  /-- the teams whose watermark it advances -/
  targets : List Nat := []
  skipped : BitVec 24 := 0
  landed : Nat := 0
  frozen : Bool := false
  /-- the pages it is frozen on, and the clock of its last walk -/
  pages : List Nat := []
  tried : Nat := 0
  /-- the clock of its issue: copies of one clock are ordered by their waves (R291) -/
  issued : Nat := 0
  active : Bool := true
  failed : Bool := false
  barrier : Option Nat := none
  /-- the ranges of a staging copy: source, bytes, .s offset -/
  ranges : List (Nat × Nat × Nat) := []
  pc : Slot := 0
  /-- saved with its gang (R221) -/
  saved : Bool := false
  deriving DecidableEq, Repr

/-- A job of the engines (R222, R223, R352). -/
structure Job where
  fn : Nat := 0
  slice : Nat := 0
  sub : Option Nat := none
  team : Option Nat := none
  weave : Nat := 0
  token : Option Nat := none
  pc : Option Slot := none
  card : List Byte := []
  cardAddr : Nat := 0
  /-- the bytes written -/
  done : Nat := 0
  status : Byte := 0
  /-- it met its last byte or a fault, and has only to end -/
  finished : Bool := false
  ended : Bool := false
  /-- a collective has passed its partial value of the next element on and waits for the final one -/
  passed : Bool := false
  /-- what the other modules of a collective have sent, oldest first -/
  partials : List (List Byte) := []
  deriving DecidableEq, Repr

/-- A matrix operation in flight (R247, R248): the tile's second bank, the registers it holds back, and where its members
return when it is withdrawn. -/
structure MatrixOp where
  team : Nat := 0
  tile : Nat := 0
  pair : Bool := false
  weave : Nat := 0
  /-- the convergence register before the issue, with all members signed -/
  convNumber : Nat := 0
  conv : Conv := {}
  pc : Slot := 0
  members : Mask := 0
  second : Map (BitVec 32) := []
  /-- the poisoned rows of the tile before the issue -/
  secondPoison : List Nat := []
  /-- the register that the issue marked dead (R40, R248) -/
  marked : List Nat := []
  reads : List Nat := []
  reservations : List Nat := []
  ends : Nat := 0
  deriving DecidableEq, Repr

/-! ### Functions, queues, nodes and partitions -/

/-- A bound queue: the privileged half of its QCB and what the device knows of its ring (R341). -/
structure Queue where
  bound : Bool := false
  qcb : Nat := 0
  rcb : Nat := 0
  tenant : Nat := 0
  qclass : Nat := 0
  prio : Nat := 0
  ringBase : Nat := 0
  ringSize : Nat := 16
  inOrder : Bool := false
  head : Nat := 0
  tail : Nat := 0
  /-- the next index to read, ahead of HEAD while slices run (R343) -/
  next : Nat := 0
  /-- the slices read and not passed by HEAD, oldest first -/
  slices : List Nat := []
  /-- waits for a notify after a refused read (R346) -/
  waits : Bool := false
  /-- HEAD has been read since the queue was bound -/
  started : Bool := false
  deriving DecidableEq, Repr

/-- The registers that a context owns (R28): a context is named by the address of its RCB (R455), and its slices share
them. -/
structure Context where
  /-- CTXFLAGS (R32) -/
  trapEn : Bool := true
  noProg : Bool := false
  ckptEn : Bool := false
  /-- FAIRTIMER (R33) -/
  fairTimer : Nat := 1024
  restoreCount : Nat := 0
  /-- CLOCKS and NOINDEP of SAVECOST (R36) -/
  saveCost : Nat := 0
  noIndep : Bool := false
  deriving DecidableEq, Repr

/-- An RCB node as the device read it (R356), with the registers of the context of that RCB. -/
structure Node where
  ctx : Context := {}
  fn : Nat := 0
  addr : Nat := 0
  fields : List Byte := []
  readable : Bool := false
  fault : Byte := 0
  used : Nat := 0
  memUsed : Nat := 0
  ringTail : Nat := 0
  /-- the fields whose failed write has been reported; 0x1000 stands for a read (R356, R442) -/
  told : List Nat := []
  /-- the clock of the last renewal of its period, and whether its budget has been reported in the period (R358) -/
  renewedAt : Nat := 0
  spent : Bool := false
  /-- PTIME of the last read, and the clock of the last write of the H fields -/
  reRead : Nat := 0
  wrote : Nat := 0
  deriving DecidableEq, Repr

/-- A fault report record waiting for its ring (R325, R326). -/
abbrev Record := List Byte

/-- A partition (R6, R340). -/
structure Part where
  dies : List Nat := []
  root : Nat := 0
  /-- registers of R454 and R370 that are plain words, by offset -/
  regs : Map Word64 := []
  /-- the operator's lease policy (R460) -/
  policy : BitVec 32 := 0
  /-- L2 bytes reserved for staging (R371) -/
  staged : Nat := 0
  /-- its last lease reset found a region that failed: it stays halted (R461) -/
  halted : Bool := false
  /-- PTIME of the halt of a lease reset whose record has not been emitted (R461, R462) -/
  resetFrom : Option Nat := none
  /-- it has been put to use since its last lease reset began (R460) -/
  used : Bool := false
  deriving DecidableEq, Repr

/-- A die (R326, R447, R470). -/
structure Die where
  pending : List (Nat × Record) := []
  /-- the error log by record number, the next record's number, and how many were overwritten (R447) -/
  log : Map Record := []
  logNext : Nat := 0
  /-- the codeword that a record is about (R447) -/
  logUnits : Map StorageUnit := []
  logOver : Nat := 0
  throttled : Bool := false
  alive : Bool := true
  /-- the firmware that its cores run, its body and its entry; none while they are held in reset or halted (R457, R459) -/
  firmware : Option (List Byte × Nat) := none
  /-- lease-reset and not yet leased (R460) -/
  fresh : Bool := false
  deriving DecidableEq, Repr

/-- A frame-table entry (R395). -/
structure Frame where
  ownRcb : Nat := 0
  ownFn : Nat := 0
  /-- the virtual address at which it was claimed or moved, which R403, R427 and R464 need -/
  va : Nat := 0
  winStart : BitVec 32 := 0
  settleEnd : BitVec 32 := 0
  /-- PTIME in µs, unreduced, at which its page's settle ends (R402) -/
  settleAt : Nat := 0
  migv : Bool := false
  pteAddr : Nat := 0
  tenant : BitVec 16 := 0
  frameState : BitVec 2 := 0
  sgen : BitVec 22 := 0
  fgen : BitVec 22 := 0
  deriving DecidableEq, Repr

/-- The dirty tracking of a function's pages (R463, R464). -/
structure Migration where
  base : Nat := 0
  pages : Nat := 0
  /-- the pages written since the last round -/
  dirty : List Nat := []
  rounds : Nat := 0
  bitmap : Nat := 0
  /-- PTIME at which a ROUND that runs takes effect -/
  due : Option Nat := none
  /-- a STOP runs, or has ended -/
  stopping : Bool := false
  stopped : Bool := false
  deriving DecidableEq, Repr

/-- A function (R390, R406 to R417). -/
structure Fn where
  tenant : BitVec 16 := 0
  part : Nat := 0
  queues : Nat := 128
  counters : Nat := 512
  troot : Word64 := 0
  /-- registers of R408 that are plain words, by offset -/
  regs : Map Word64 := []
  inReset : Bool := false
  resetFrom : Nat := 0
  drops : Nat := 0
  pool : List Nat := []
  /-- its SCRUB has freed its frames and scrubs them (R398) -/
  scrubbing : Bool := false
  /-- MSI-X vectors with a message owed and the clock of the last one sent (R407) -/
  owed : List Nat := []
  sentAt : Map Nat := []
  /-- the vectors raised, oldest first -/
  raised : List Nat := []
  /-- MSI-X is masked (R414) -/
  masked : Bool := false
  /-- remote pages whose home has said that they do not move, and whether an access has been performed there since (R400) -/
  unmoved : Map Bool := []
  mig : Option Migration := none
  deriving DecidableEq, Repr

/-! ### Checkpoints (R422 to R433) -/

/-- The checkpoint target descriptor as it was read (R422). -/
structure Target where
  addr : Nat := 0
  base : Nat := 0
  size : Nat := 0
  coLocated : Bool := false
  every : Nat := 16
  interval : Option Nat := none
  seq : Nat := 0
  deriving DecidableEq, Repr

/-- The unit that a record of an image holds (R427): none, for what the cut captures whole; a v register of a wave, a tile row
of a team, a line of an on-chip memory, or a page with the frame that its leaf named at the cut. -/
inductive HeldUnit where
  | none_
  | vreg (wave n : Nat)
  | row (team key : Nat)
  | line (ln : Nat)
  | page (va frame : Nat)
  deriving DecidableEq, Repr

/-- A record of an image (R432). -/
structure ImageRecord where
  bytes : List Byte
  /-- the offsets within the record of poisoned 128-byte units -/
  toxic : List Nat := []
  unit : HeldUnit := .none_
  /-- the unit has been written since the cut, and was copied before (R427, R430) -/
  copied : Bool := false
  deriving DecidableEq, Repr

/-- An image that is being streamed (R430, R431). -/
structure Stream where
  target : Target := {}
  seq : Nat := 0
  baseSeq : Nat := 0
  full : Bool := true
  cutAt : Nat := 0
  start : Nat := 0
  length : Nat := 0
  written : Nat := 0
  left : List ImageRecord := []
  failed : Bool := false
  deriving DecidableEq, Repr

/-- The checkpoints of a context (R424, R430). -/
structure Ckpt where
  fn : Nat := 0
  rcb : Nat := 0
  /-- a decided request: its target and its cut time -/
  decided : Option (Target × Nat) := none
  stream : Option Stream := none
  /-- PTIME at which the last image ended -/
  ended : Nat := 0
  /-- the next image is full -/
  full : Bool := true
  /-- the number of the next image, and where it may start -/
  next : Nat := 0
  at_ : Nat := 65536
  lastBase : Option Nat := none
  /-- PTIME of the last expiry of the timer, and its period as it was then -/
  timed : Option Nat := none
  interval : Option Nat := none
  /-- the units written since the sub-launches started: v registers as weave times 256 plus number, tile rows as team
  times 4096 plus row, lines, pages -/
  everV : List Nat := []
  everRows : List Nat := []
  everLines : List Nat := []
  everPages : List Nat := []
  deriving DecidableEq, Repr

/-- What a control record says of a team beyond the sections of R384 that the manual lays out: its internal format is
not given, so the module keeps what a record it wrote stands for beside the record's bytes (log entries 46 and 123). -/
structure TeamImage where
  team : Team := {}
  weaves : List (Nat × Weave) := []
  groups : List Group := []
  filed : List Filed := []
  copies : List Copy := []
  side : List SideEntry := []
  jobs : List Job := []
  /-- of its gang: GANGID, its windows, and the report that has parked it -/
  gangId : Nat := 0
  windows : Map Window := []
  parked : Option Report := none
  /-- of its gang: the open window, by the clocks it has been open and CRIT, and whether it was pre-empted at the close of a
  critical one (R384, R388) -/
  window : Option (Nat × Bool) := none
  crit : Bool := false
  /-- the team has been placed; one that is not has no record of its own yet -/
  placed : Bool := true
  /-- the engine sub-launches of its bundle that have completed -/
  engines : List Nat := []
  /-- the registers of its context -/
  ctx : Context := {}
  deriving DecidableEq, Repr, Inhabited

/-! ### The root of trust -/

/-- The root of trust (R457 to R462). -/
structure Root where
  /-- the root of trust is powered -/
  up : Bool := false
  flash : List Byte := []
  /-- a reset that the mask ROM has not yet run for, and whether its last run released the firmware cores (R457) -/
  booting : Bool := false
  booted : Bool := false
  /-- a rail has left its range: everything but the root of trust stands still (R471) -/
  halted : Bool := false
  /-- PTIME of the halt of a lease reset of the whole module whose record has not been emitted (R461) -/
  resetFrom : Option Nat := none
  /-- key slots that are filled: key and version floor -/
  slots : Map (BitVec 512 × BitVec 32) := []
  /-- the nonce of the last command accepted -/
  nonce : BitVec 64 := 0
  /-- measurement registers -/
  measured : Map (List Byte) := []
  power : BitVec 16 := 0
  switch : BitVec 16 := 0
  leaseCtr : Nat := 0
  scrubbed : List Byte := []
  deriving DecidableEq, Repr

/-! ### The module -/

/-- The machine state. -/
structure State where
  /-- CLOCK (R28) -/
  clock : Nat := 0
  /-- PTIME at clock 0 (R30) -/
  ptimeBase : Nat := 0
  /-- MODULE of DIEID (R31) -/
  module_ : Nat := 0
  /-- events and inputs that come about next, in order -/
  agenda : List Instr := []
  /-- commands and inputs that wait for room for their reports (R326) -/
  waiting : List Instr := []
  /-- whose turn it is when several could go on: 0 an event that is due, 1 an engine, 2 an issue group -/
  turn : Nat := 0
  /-- the selectors have filled the pipelines for this clock (R265) -/
  chosen : Bool := false
  /-- a group drawn from a bin, which issues in this clock (R264) -/
  drawn : Option Group := none
  /-- how many free values have been taken -/
  freeCtr : Nat := 0
  /-- the issue group whose instruction is being executed; it is in no list meanwhile -/
  issuing : Option Group := none
  mem : Memory := []
  /-- poisoned 128-byte lines, by cell number div 128 (R439) -/
  poison : List Nat := []
  /-- lines of the on-chip memories written since the last cut and since the last save (R427, R380) -/
  dirtyLines : List Nat := []
  savedLines : List Nat := []
  groups : List Group := []
  weaves : Map Weave := []
  teams : Map Team := []
  gangs : Map Gang := []
  subs : Map Sub := []
  slices : Map Slice := []
  cores : Map Core := []
  dies : Map Die := []
  parts : Map Part := []
  fns : Map Fn := []
  queues : Map Queue := []
  /-- dependence counters that differ from zero (R347) -/
  counters : Map (BitVec 32) := []
  nodes : Map Node := []
  /-- frame-table entries that differ from their state after a lease reset (R395) -/
  frames : Map Frame := []
  copies : Map Copy := []
  jobs : Map Job := []
  mats : Map MatrixOp := []
  /-- outbound windows by port times 16 plus number, and inbound windows by number: both words (R416, R417) -/
  outWin : Map (Word64 × Word64) := []
  inWin : Map (Word64 × Word64) := []
  /-- posted writes that left through a port, oldest first: port, bus address and bytes (R416) -/
  posted : List (Nat × Nat × List Byte) := []
  /-- writes sent to other modules over Twill, oldest first (R418) -/
  sent : List (Nat × List Byte) := []
  /-- pages that left for another module, oldest first: the module, and the page as it comes there (R401) -/
  moved : List (Nat × PageMove) := []
  /-- answers to requests from outside, oldest first; none is a refusal (R417, R418, R460) -/
  answers : List (Option (List Byte)) := []
  /-- Twill planes that are down (R418) -/
  planesDown : List Nat := []
  /-- checkpoints by the key of the context's node -/
  ckpts : Map Ckpt := []
  /-- ranges of checkpoint targets that hold poisoned units: address and bytes (R428) -/
  toxic : List (Nat × Nat) := []
  /-- control records that this module wrote, and what they stand for -/
  controls : List (List Byte × TeamImage) := []
  root : Root := {}
  /-- the retirements of this clock: function and place of the completion record (R415) -/
  overNow : List (Nat × Nat) := []
  deriving DecidableEq, Repr

/-- Why the module stops. -/
inductive Fault where
  /-- raised by a meaning that is run while no issue group is issuing; `step` never does so. Safe: a stop. -/
  | noIssueGroup
  deriving DecidableEq, Repr

/-- Why a meaning gives no answer. -/
inductive Refusal where
  /-- raised by an arm of `exec` that has no meaning. Safe: a stop. -/
  | notModelled (mnemonic : String)
  deriving DecidableEq, Repr

/-- The module as it is delivered, before the first bring-up of R471: key slot 0 holds the operator's first key, every
other register and memory the reset value that the manual gives, or zero. -/
def State.reset : State := { root := { slots := [(0, Config.firstKey, 0)] } }

end Sys2Proof.Machine
end

