-- ==== Sys2Proof/Machine/Home.lean ====
section
/-! DEFINITION. The places of accesses: the home L2, the cores' L1 lines with their release tables, and the memories inside
the module (R304 to R316). -/

namespace Sys2Proof.Machine

/-! ### Small accessors -/

def State.core (s : State) (c : Nat) : Core := Map.at s.cores {} c
def State.setCore (s : State) (c : Nat) (k : Core) : State := { s with cores := Map.put s.cores c k }
def State.weave (s : State) (u : Nat) : Weave := Map.at s.weaves {} u
def State.team (s : State) (t : Nat) : Team := Map.at s.teams {} t
def State.gang (s : State) (g : Nat) : Gang := Map.at s.gangs {} g
def State.sub (s : State) (n : Nat) : Sub := Map.at s.subs {} n
def State.slice (s : State) (n : Nat) : Slice := Map.at s.slices {} n
def State.fn (s : State) (n : Nat) : Fn := Map.at s.fns {} n
def State.part (s : State) (n : Nat) : Part := Map.at s.parts {} n
def State.die (s : State) (n : Nat) : Die := Map.at s.dies {} n

def State.changeCore (s : State) (c : Nat) (g : Core → Core) : State := s.setCore c (g (s.core c))
def State.changeWeave (s : State) (u : Nat) (g : Weave → Weave) : State := { s with weaves := Map.change s.weaves u g }
def State.changeTeam (s : State) (t : Nat) (g : Team → Team) : State := { s with teams := Map.change s.teams t g }
def State.changeGang (s : State) (n : Nat) (g : Gang → Gang) : State := { s with gangs := Map.change s.gangs n g }
def State.changeSub (s : State) (n : Nat) (g : Sub → Sub) : State := { s with subs := Map.change s.subs n g }
def State.changeSlice (s : State) (n : Nat) (g : Slice → Slice) : State := { s with slices := Map.change s.slices n g }
def State.changeFn (s : State) (n : Nat) (g : Fn → Fn) : State := { s with fns := Map.put s.fns n (g (s.fn n)) }
def State.changePart (s : State) (n : Nat) (g : Part → Part) : State := { s with parts := Map.put s.parts n (g (s.part n)) }
def State.changeDie (s : State) (n : Nat) (g : Die → Die) : State := { s with dies := Map.put s.dies n (g (s.die n)) }

/-- PTIME in ns: 47 main clocks take 50 ns. -/
def State.ptime (s : State) : Nat := s.ptimeBase + s.clock * 50 / 47

/-- The die of a core number; cores are numbered die times 160 plus block times 16 plus core. -/
def dieOfCore (c : Nat) : Nat := c / 160

/-- The partition of a die (R340). -/
def State.partOfDie (s : State) (d : Nat) : Nat :=
  ((s.parts.find? fun p => p.2.dies.contains d).map Prod.fst).getD 0

/-- The module answers more than its management interface (R457, R471). -/
def State.awake (s : State) : Bool := s.root.up && s.root.booted && !s.root.halted

/-- Nothing halts a partition (R461, R471). -/
def State.partRuns (s : State) (p : Nat) : Bool :=
  !(s.part p).halted && (s.part p).resetFrom.isNone && s.root.resetFrom.isNone

/-- A migration is stopping the function, or has stopped it (R465). -/
def Fn.stopping (f : Fn) : Bool := (f.mig.map fun m => m.stopping) == some true

/-- A free 64-bit value, and the state that has taken it. -/
def State.free (s : State) : Word64 × State := (Config.freeWord s.freeCtr, { s with freeCtr := s.freeCtr + 1 })

/-! ### Lines -/

/-- The number of a 128-byte line. -/
def lineOf (a : Nat) : Nat := a / 128

/-- The lines that `n` bytes from `a` on touch. -/
def linesOf (a n : Nat) : List Nat := if n = 0 then [] else span (lineOf a) (lineOf (a + n - 1) + 1 - lineOf a)

/-- The monitor of a line at a core (R203). -/
def monitorKey (core line : Nat) : Nat := line * 4096 + core

/-- A write to `n` bytes from `a` on is observed by the monitors of the cores in `seen` (R203). -/
def State.observe (s : State) (seen : Nat → Bool) (a n : Nat) : State :=
  let lines := linesOf a n
  let keys := (s.cores.filter fun c => seen c.1).flatMap fun c =>
    c.2.monitors.filter fun k => k % 4096 = c.1 && lines.contains (k / 4096)
  if keys.isEmpty then s else { s with agenda := s.agenda ++ keys.map Instr.waitvWake }

/-- Bytes written at their home, seen by the monitors of the cores in `seen`. -/
def State.putBytes (s : State) (seen : Nat → Bool) (a : Nat) (bytes : List Byte) : State :=
  ({ s with mem := Memory.writeBytes s.mem a bytes }).observe seen a bytes.length

/-- A line poisoned. -/
def State.poisoned (s : State) (a n : Nat) : Bool := (linesOf a n).any s.poison.contains

/-- The first poisoned byte of a range, as the first byte of the range in its first poisoned line. -/
def State.firstPoison (s : State) (a n : Nat) : Option Nat :=
  ((linesOf a n).find? s.poison.contains).map fun ln => max a (ln * 128)

/-- The first poisoned byte of a range as a core meets it: in a line poisoned at its home, or in its own L1 (R439). -/
def State.poisonAtCore (s : State) (c a n : Nat) : Option Nat :=
  ((linesOf a n).find? fun ln =>
    s.poison.contains ln || (s.core c).toxicL1.contains ln && (Map.find (s.core c).l1 ln).isSome).map fun ln => max a (ln * 128)

/-- An engine's write of whole lines clears their poison (R441). -/
def State.clearPoison (s : State) (a n : Nat) : State :=
  { s with poison := s.poison.filter fun ln => !(decide (a ≤ ln * 128) && decide (ln * 128 + 128 ≤ a + n)) }

/-- Lines of the memories inside the module marked written (R427, R380). -/
def State.markLines (s : State) (a n : Nat) : State :=
  { s with dirtyLines := setUnion s.dirtyLines (linesOf a n), savedLines := setUnion s.savedLines (linesOf a n) }

/-- Bytes written to a memory inside the module: the memory is their only place (R308). -/
def State.putOnChip (s : State) (a : Nat) (bytes : List Byte) : State :=
  (s.putBytes (fun _ => true) a bytes).markLines a bytes.length

/-- A range of a memory inside the module zeroed; its lines are then unwritten (R277, R256, R380). A line that lies in the range
only in part, and loses what it held there, is written. -/
def State.zeroOnChip (s : State) (a n : Nat) : State :=
  let inside := fun ln => decide (a ≤ ln * 128) && decide (ln * 128 + 128 ≤ a + n)
  let mem := Memory.zero s.mem a n
  let changed := (linesOf a n).filter fun ln => !inside ln && Memory.readBytes s.mem (ln * 128) 128 != Memory.readBytes mem (ln * 128) 128
  { s with
    mem := mem
    poison := s.poison.filter fun ln => !inside ln
    dirtyLines := setUnion (s.dirtyLines.filter fun ln => !inside ln) changed
    savedLines := setUnion (s.savedLines.filter fun ln => !inside ln) changed }

/-! ### L1 lines -/

/-- The dirty bytes of a line put at its home, with its poison (R441); the line stays, clean. -/
def State.putLine (s : State) (c ln : Nat) : State :=
  match Map.find (s.core c).l1 ln with
  | none => s
  | some l =>
    if l.dirty.isEmpty then s
    else
      let mem := ((List.range 128).filter l.dirty.contains).foldl (fun m k => match l.bytes.getD k none with
        | some b => Memory.write m (ln * 128 + k) b
        | none => m) s.mem
      let poison := if (s.core c).toxicL1.contains ln then setAdd s.poison ln else s.poison
      (({ s with mem, poison }).observe (· ≠ c) (ln * 128) 128).changeCore c fun k =>
        { k with l1 := Map.put k.l1 ln { l with dirty := [], writers := [] } }

/-- The line holds dirty bytes in a core's L1. -/
def State.dirtyIn (s : State) (c ln : Nat) : Bool := ((Map.find (s.core c).l1 ln).map fun l => !l.dirty.isEmpty) == some true

/-- The release-table entry of a variable's line is free. -/
def State.dropRelease (s : State) (c ln : Nat) : State :=
  s.changeCore c fun k => { k with releases := k.releases.filter fun r => r.line ≠ ln }

/-- What `homeTouch` does, over at most `n` owners that wait for one another. An owner's entry is taken out first. -/
def State.touchFor : Nat → State → Option Nat → Nat → State
  | 0, s, _, _ => s
  | n + 1, s, who, ln =>
    s.cores.foldl
      (fun s c =>
        if some c.1 = who then s
        else
          match (s.core c.1).releases.find? (·.line = ln) with
          | some e =>
            (e.lines ++ [e.line]).foldl (fun s l => if s.dirtyIn c.1 l then (touchFor n s (some c.1) l).putLine c.1 l else s)
              (s.dropRelease c.1 ln)
          | none => s) s

/-- An access of an agent other than core `who` reaches the home of a line: its owner writes back first (R314). -/
def State.homeTouch (s : State) (who : Option Nat) (ln : Nat) : State :=
  s.touchFor ((s.cores.map fun c => c.2.releases.length).sum + 1) who ln

/-- The dirty bytes of a line written to its home, which they reach as an access of their core. -/
def State.writeLine (s : State) (c ln : Nat) : State :=
  if s.dirtyIn c ln then (s.homeTouch (some c) ln).putLine c ln else s

/-- A release-table entry written back: its recorded lines, then the variable's line; the entry is freed (R314). -/
def State.flushRelease (s : State) (c : Nat) (e : Release) : State :=
  (e.lines ++ [e.line]).foldl (fun s ln => s.writeLine c ln) (s.dropRelease c e.line)

/-- The entries older than the first that meets a condition, and that one. -/
def olderThan (rs : List Release) (which : Release → Bool) : List Release × Option Release :=
  (rs.takeWhile fun r => !which r, rs.find? which)

/-- A line written back; an owned or a recorded one behind what was recorded before it (R314). -/
def State.writeBack (s : State) (c ln : Nat) : State :=
  let rs := (s.core c).releases
  match olderThan rs (·.line = ln), olderThan rs (·.lines.contains ln) with
  | (older, some e), _ => (older ++ [e]).foldl (fun s r => s.flushRelease c r) s
  | _, (older, some e) =>
    let s := older.foldl (fun s r => s.flushRelease c r) s
    ((e.lines.takeWhile fun l => l ≠ ln) ++ [ln]).foldl (fun s l => s.writeLine c l) s
  | _, _ => s.writeLine c ln

/-- The lines of a range touched at their homes. -/
def State.homeTouchRange (s : State) (who : Option Nat) (a n : Nat) : State :=
  (linesOf a n).foldl (fun s ln => s.homeTouch who ln) s

/-- A line removed from a core's L1, its dirty bytes written back. -/
def State.evict (s : State) (c ln : Nat) : State :=
  (s.writeBack c ln).changeCore c fun k => { k with l1 := Map.drop k.l1 ln, toxicL1 := setDrop k.toxicL1 ln }

/-- Bytes read at their home. -/
def State.homeRead (s : State) (who : Option Nat) (a n : Nat) : List Byte × State :=
  let s := s.homeTouchRange who a n
  (Memory.readBytes s.mem a n, s)

/-- Bytes written at their home by an agent other than a thread, and by a thread of core `who`: that core's own L1 copy
goes first, so that its threads keep seeing one order (R305). -/
def State.homeWrite (s : State) (who : Option Nat) (a : Nat) (bytes : List Byte) : State :=
  let s := s.homeTouchRange who a bytes.length
  let s := match who with
    | none => s
    | some c => (linesOf a bytes.length).foldl (fun s ln => s.evict c ln) s
  s.putBytes (fun _ => true) a bytes

/-- The bytes of a line that are present. -/
def L1Line.get (l : L1Line) (off n : Nat) : Option (List Byte) :=
  ((List.range n).map fun k => l.bytes.getD (off + k) none).mapM id

/-- A clean line stays in an L1 at most this many clocks after its fill (R316). -/
def cleanClocks : Nat := 65536

/-- A line as a load at a clock may find it: clean bytes are over once their time in the L1 is. -/
def L1Line.at_ (l : L1Line) (now : Nat) : L1Line :=
  if now < l.filled + cleanClocks then l
  else { l with bytes := (List.range 128).map fun i => if l.dirty.contains i then l.bytes.getD i none else none }

/-- A line brought into the L1 of a core: the bytes that are not dirty there are read at the home (R316). -/
def State.fill (s : State) (c ln : Nat) (uo : Bool) : State :=
  let s := s.homeTouch (some c) ln
  let now := s.clock
  let home := Memory.readBytes s.mem (ln * 128) 128
  s.changeCore c fun k =>
    match Map.find k.l1 ln with
    | none =>
      { k with
        l1 := Map.put k.l1 ln { bytes := home.map some, dirty := [], uo, writers := [], filled := now }
        toxicL1 := setDrop k.toxicL1 ln }
    | some l =>
      let bytes := (List.range 128).map fun i => if l.dirty.contains i then l.bytes.getD i none else some (home.getD i 0)
      { k with l1 := Map.put k.l1 ln { l with bytes := bytes, filled := now } }

/-- Bytes within one line read through the L1 of a core. -/
def State.l1Read (s : State) (c a n : Nat) (uo : Bool) : List Byte × State :=
  let ln := lineOf a
  let found := (Map.find (s.core c).l1 ln).bind fun l => (l.at_ s.clock).get (a % 128) n
  match found with
  | some bs => (bs, s)
  | none =>
    let s := s.fill c ln uo
    ((List.range n).map fun k =>
      ((Map.find (s.core c).l1 ln).bind fun l => l.bytes.getD (a % 128 + k) none).getD (Memory.read s.mem (a + k)), s)

/-- Bytes within one line written in the L1 of a core, dirty. -/
def State.l1Write (s : State) (c a : Nat) (bytes : List Byte) (uo : Bool) (team : Nat) : State :=
  let ln := lineOf a
  let s := if (Map.find (s.core c).l1 ln).isSome then s else s.fill c ln uo
  let off := a % 128
  let s := s.changeCore c fun k =>
    { k with
      writes := k.writes + 1
      l1 := Map.change k.l1 ln fun l =>
        { l with
          since := if l.dirty.isEmpty then k.writes else l.since
          bytes := (List.range 128).map fun i =>
            if off ≤ i ∧ i < off + bytes.length then some (bytes.getD (i - off) 0) else l.bytes.getD i none
          dirty := setUnion l.dirty (span off bytes.length)
          uo := uo
          writers := setAdd l.writers team } }
  s.observe (· = c) a bytes.length

/-- The clean bytes of the RC lines of a core discarded, and those of UO lines when `uoToo` (R315, R313). -/
def State.discardClean (s : State) (c : Nat) (uoToo : Bool) : State :=
  let kept := fun l : L1Line => l.uo && !uoToo
  let strip := fun l : L1Line =>
    (List.range 128).map fun i => if l.dirty.contains i then l.bytes.getD i none else none
  s.changeCore c fun k =>
    { k with
      l1 := (k.l1.filter fun e => kept e.2 || !e.2.dirty.isEmpty).map fun e =>
        if kept e.2 then e else (e.1, { e.2 with bytes := strip e.2 }) }

/-- The dirty lines of a core's L1 that meet a condition, in the order in which they became dirty (R305). -/
def Core.dirtyWhere (k : Core) (which : L1Line → Bool) : List Nat :=
  (sortBy (fun e => e.2.since) (k.l1.filter fun e => which e.2 && !e.2.dirty.isEmpty)).map Prod.fst

/-- Every dirty line of a core that meets `which` written back, in the order of the writes (R305). -/
def State.writeBackWhere (s : State) (c : Nat) (which : L1Line → Bool) : State :=
  ((s.core c).dirtyWhere which).foldl (fun s ln => s.writeBack c ln) s

/-- The RC lines that are dirty in a core's L1. -/
def Core.dirtyRc (k : Core) : List Nat := k.dirtyWhere fun l => !l.uo

/-- A lazy release of a variable in the L1 (R314): the home marks the line as owned, another owner giving it up, and the entry
is recorded, a full table giving up its oldest first. -/
def State.recordRelease (s : State) (c ln : Nat) : State :=
  let s := s.homeTouch (some c) ln
  let recorded := (s.core c).dirtyRc.filter (· ≠ ln)
  match (s.core c).releases.find? (·.line = ln) with
  | some _ =>
    s.changeCore c fun k =>
      { k with releases := k.releases.map fun r =>
          if r.line = ln then { r with lines := setUnion r.lines recorded } else r }
  | none =>
    let s := if (s.core c).releases.length < 16 then s
      else match (s.core c).releases with
        | [] => s
        | e :: _ => s.flushRelease c e
    s.changeCore c fun k => { k with releases := k.releases ++ [⟨ln, recorded⟩] }

/-- Every RC line dirty in a core's L1 written back: an eager release (R314). -/
def State.releaseEagerly (s : State) (c : Nat) : State :=
  (s.core c).dirtyRc.foldl (fun s ln => s.writeBack c ln) s

end Sys2Proof.Machine
end

