-- ==== Sys2Proof/Machine/Registers.lean ====
section
/-! DEFINITION. The registers of a partition that its scheduler writes (R370, R446, R454), and the error log (R447). -/

namespace Sys2Proof.Machine

/-! ### Registers of R454 -/

def regStageCtl : Nat := 0x0000
def regErrCtl : Nat := 0x0008
def regSnapPool : Nat := 0x0010
def regRootRcb : Nat := 0x0018
def regQcap : Nat := 0x0020

/-- The reset value of a register by offset (R370, R446, R454). -/
def partReset (off : Nat) : Word64 :=
  if off = regStageCtl then BitVec.ofNat 64 (4 * 2 ^ 40 + 8 * 2 ^ 32 + 200000)
  else if off = regErrCtl then BitVec.ofNat 64 (2000 * 2 ^ 32 + 600 * 2 ^ 12 + 30 * 2 + 1)
  else if off = regSnapPool then BitVec.ofNat 64 (64 * 2 ^ 30)
  else 0

def Part.reg (p : Part) (off : Nat) : Word64 := Map.at p.regs (partReset off) off

def Part.setReg (p : Part) (off : Nat) (x : Word64) : Part := { p with regs := Map.put p.regs off x }

/-- LOOK, SHARE and HORIZON (R370). -/
def Part.look (p : Part) : Nat := bits (p.reg regStageCtl).toNat 47 40
def Part.share (p : Part) : Nat := bits (p.reg regStageCtl).toNat 37 32

/-- RRCEIL in ns, WAITMAX in ns, INTERVAL in ns, IFTEN (R446). -/
def Part.ceiling (p : Part) : Nat := bits (p.reg regErrCtl).toNat 47 32 * 1000000
def Part.waitMax (p : Part) : Nat := bits (p.reg regErrCtl).toNat 21 12 * 1000000000
def Part.interval (p : Part) : Nat := bits (p.reg regErrCtl).toNat 11 1 * 60000000000
def Part.testing (p : Part) : Bool := bit (p.reg regErrCtl).toNat 0

/-- The cap of a quota class; 0 is no cap (R359). -/
def Part.cap (p : Part) (cls : Nat) : Nat := bits (p.reg (regQcap + cls / 4 * 8)).toNat (16 * (cls % 4) + 15) (16 * (cls % 4))

/-- Main clocks of a number of ns: 47 clocks take 50 ns. -/
def clocksOfNs (ns : Nat) : Nat := ns * 47 / 50

/-! ### The error log (R447) -/

/-- KIND of a record. -/
def logCorrected : Nat := 1
def logPoisoned : Nat := 2
def logTiming : Nat := 3
def logFenced : Nat := 4
def logRemotePark : Nat := 5

/-- What a log record says. -/
structure LogFields where
  kind : Nat
  store : Nat := 0xFF
  core : Nat := 0xFF
  addr : Nat := 0
  detail : Nat := 0
  /-- the codeword; none for KIND 3 to 5 -/
  unit : Option StorageUnit := none
  deriving DecidableEq, Repr

def LogFields.bytes (r : LogFields) (die count time : Nat) : Record :=
  bytesOfNat 1 r.kind ++ bytesOfNat 1 r.store ++ bytesOfNat 1 r.core ++ bytesOfNat 1 die ++ bytesOfNat 4 count ++
    bytesOfNat 8 r.addr ++ bytesOfNat 8 r.detail ++ bytesOfNat 8 time

/-- The number of a core within its die, as a log record gives it. -/
def logCore (c : Nat) : Nat := c % 160 / 16 * 16 + c % 16

/-- A record of one codeword's repeated correction within 1 s: the record to raise. -/
def Die.repeats (d : Die) (r : LogFields) (time : Nat) : Option Nat :=
  if r.kind ≠ logCorrected then none
  else
    (d.log.find? fun e =>
      e.2.getD 0 0 == BitVec.ofNat 8 logCorrected && r.unit.isSome && Map.find d.logUnits e.1 == r.unit &&
        time ≤ natOfBytes ((e.2.drop 24).take 8) + 1000000000).map Prod.fst

/-- An event logged: in a record of its own, the oldest giving way, or in the record of the same codeword. -/
def State.logError (s : State) (die : Nat) (r : LogFields) : State :=
  let now := s.ptime
  s.changeDie die fun d =>
    match d.repeats r now with
    | some k => { d with log := Map.change d.log k fun e => r.bytes die (natOfBytes ((e.drop 4).take 4) + 1) now }
    | none =>
      { d with
        log := Map.put d.log d.logNext (r.bytes die 1 now)
        logUnits := match r.unit with
          | some u => Map.put d.logUnits d.logNext u
          | none => Map.drop d.logUnits d.logNext
        logNext := (d.logNext + 1) % 256
        logOver := if (Map.find d.log d.logNext).isSome then d.logOver + 1 else d.logOver }

end Sys2Proof.Machine
end

