-- ==== Sys2Proof/Machine/Nodes.lean ====
section
/-! DEFINITION. RCB nodes as the device holds them, their inheritance (R356, R357), and the fault report records (R325,
R326). -/

namespace Sys2Proof.Machine

/-- The key of the node at an address in the tree of a partition: a context is named by the address of its RCB (R455). -/
def nodeKey (part addr : Nat) : Nat := part * 2 ^ 64 + addr

def nodePart (k : Nat) : Nat := k / 2 ^ 64

def State.node (s : State) (k : Nat) : Node := Map.at s.nodes {} k
def State.changeNode (s : State) (k : Nat) (g : Node → Node) : State := { s with nodes := Map.put s.nodes k (g (s.node k)) }

/-- A little-endian field of the node. -/
def Node.num (n : Node) (off size : Nat) : Nat := natOfBytes ((n.fields.drop off).take size)

/-- The override bit of a field (R356). -/
def Node.own (n : Node) (k : Nat) : Bool := (n.num 0x0C 4).testBit k

/-- The keys from a node to the root, at most `fuel` of them. -/
def State.chain (s : State) : Nat → Nat → List Nat
  | 0, _ => []
  | fuel + 1, k =>
    let n := s.node k
    if n.num 0 8 = 0 then [k] else k :: s.chain fuel (nodeKey (nodePart k) (n.num 0 8))

/-- How many nodes of a chain are followed. The manual bounds the way from SRCB to the queue's node (R345) and not the way to the
root; a longer chain, or one that runs in a circle, has no root (log entry 125). -/
def chainFuel : Nat := 65536

/-- The partition of a slice. -/
def State.partOfSlice (s : State) (n : Nat) : Nat := (s.fn (s.slice n).fn).part

/-- The nodes from a slice's RCB to the root. -/
def State.sliceChain (s : State) (n : Nat) : List Nat := s.chain chainFuel (nodeKey (s.partOfSlice n) (s.slice n).rcb)

/-- The key of the node that a slice's context is named by. -/
def State.contextKey (s : State) (n : Nat) : Nat := nodeKey (s.partOfSlice n) (s.slice n).rcb

/-- The registers of a slice's context (R28). -/
def State.ctx (s : State) (n : Nat) : Context := (s.node (s.contextKey n)).ctx

def State.changeCtx (s : State) (n : Nat) (g : Context → Context) : State :=
  s.changeNode (s.contextKey n) fun x => { x with ctx := g x.ctx }

/-- The value of a field in effect at the first node of a chain: the field of the nearest node that overrides it. -/
def State.effective (s : State) (chain : List Nat) (overrideBit off size : Nat) : Nat :=
  match chain with
  | [] => 0
  | k :: rest => if (s.node k).own overrideBit then (s.node k).num off size else s.effective rest overrideBit off size

/-- The least value of a field over the nodes of a chain that override it (PRIOCEIL and MEMQUOTA, R357). -/
def State.leastOnChain (s : State) (chain : List Nat) (overrideBit off size : Nat) : Nat :=
  match chain with
  | [] => 2 ^ 64 - 1
  | k :: rest =>
    let above := s.leastOnChain rest overrideBit off size
    if (s.node k).own overrideBit then min ((s.node k).num off size) above else above

/-- Each node of a chain with the chain from it on. -/
def chainTails : List Nat → List (List Nat)
  | [] => []
  | k :: rest => (k :: rest) :: chainTails rest

/-! ### Fault report records -/

/-- The cause codes of R38. -/
def causeIllegalOpcode : Byte := 0x01
def causeIllegalModifier : Byte := 0x02
def causeReservedBits : Byte := 0x03
def causeIllegalOperand : Byte := 0x04
def causePrivilege : Byte := 0x05
def causeFenced : Byte := 0x06
def causeMisaligned : Byte := 0x07
def causeScratchBounds : Byte := 0x08
def causeNotMember : Byte := 0x09
def causePageFault : Byte := 0x0A
def causeAccessViolation : Byte := 0x0B
def causeCopyFailed : Byte := 0x0C
def causeMulticast : Byte := 0x0D
def causeReservation : Byte := 0x0E
def causeAccTile : Byte := 0x0F
def causeQueueWindow : Byte := 0x10
def causeBreakpoint : Byte := 0x11
def causeTrapInsn : Byte := 0x12
def causeBudget : Byte := 0x13
def causeWatchdog : Byte := 0x14
def causePoison : Byte := 0x15
def causeRemote : Byte := 0x16
def causePreemptWindow : Byte := 0x17
def causeStackBounds : Byte := 0x18

/-- What a record says (R325). -/
structure RecordFields where
  kind : Nat
  cause : Byte
  flags : Nat := 0
  weave : Nat := 0xFFFF
  core : Nat := 0
  context : Nat := 0
  team : Nat := 0
  lanes : Nat := 0
  addr : Nat := 0
  pc : Nat := 0xFFFFFFFFFFFFFFFF
  queue : Nat := 0xFFFFFFFF
  ring : Nat := 0
  gang : Nat := 0xFFFFFFFF
  deriving DecidableEq, Repr

/-- The 64 bytes of a record (R325). -/
def RecordFields.bytes (r : RecordFields) (time : Nat) : Record :=
  bytesOfNat 1 r.kind ++ [r.cause] ++ bytesOfNat 2 r.flags ++ bytesOfNat 2 r.weave ++ bytesOfNat 1 (dieOfCore r.core) ++
    bytesOfNat 1 (r.core % 160) ++ bytesOfNat 8 r.context ++ bytesOfNat 4 r.team ++ bytesOfNat 4 r.lanes ++
    bytesOfNat 8 r.addr ++ bytesOfNat 8 r.pc ++ bytesOfNat 8 time ++ bytesOfNat 4 r.queue ++ bytesOfNat 4 r.ring ++
    bytesOfNat 4 r.gang ++ bytesOfNat 4 0

/-- The bits of FLAGS (R325). -/
def flagWrite : Nat := 1
def flagCopy : Nat := 2
def flagFetch : Nat := 4
def flagFrame : Nat := 8
def flagNested : Nat := 16
def flagYield : Nat := 32

/-- The fault domain of a slice's job: the FDOMAIN in effect at its RCB (R357). -/
def State.faultDomain (s : State) (n : Nat) : Nat := s.effective (s.sliceChain n) 10 0x0A 2

/-- The parts of a record that name a slice. CONTEXT names its RCB, and with it the fault domain (R357, R435). -/
def State.forSlice (s : State) (n : Nat) (r : RecordFields) : RecordFields :=
  let l := s.slice n
  { r with context := l.rcb, queue := l.fn * 65536 + l.queue, ring := l.ringIndex }

/-- A record made on a core, in the order of the core's records (R326). It waits with its die for room in the ring of the
partition. -/
def State.post (s : State) (r : RecordFields) : State :=
  let d := dieOfCore r.core
  let p := s.partOfDie d
  s.changeDie d fun die => { die with pending := die.pending ++ [(p, r.bytes s.ptime)] }

/-- A die holds up to 256 records that wait; what must report beyond them waits itself (R326). -/
def State.reportsFit (s : State) : Bool := s.dies.all fun d => d.2.pending.length ≤ 256

end Sys2Proof.Machine
end

