-- ==== Sys2Proof/Machine/Translate.lean ====
section
/-! DEFINITION. Address translation: the walk (R391 to R393), the frame table (R395) with its quota (R359), the cached
translations of a core (R323) and page requests (R324). -/

namespace Sys2Proof.Machine

/-! ### The physical address map -/

/-- The bytes of HBM: 96 GiB for each of the 16 dies. -/
def hbmBytes : Nat := 16 * 96 * 2 ^ 30

/-- The first byte of the frame table, which no leaf can map (R395): 32 bytes for each 64 KiB frame. -/
def frameTableBase : Nat := hbmBytes - hbmBytes / 65536 * 32

/-- Where a physical address lies (R391, R416). -/
inductive PaKind where
  | hbm
  | frameTable
  | pcie (port : Nat)
  | cxl (port : Nat)
  | none_
  deriving DecidableEq, Repr

/-- The place of a physical address. An address of a CXL region that no HDM decoder of its port maps lies nowhere (log entry 121). -/
def paKind (pa : Nat) : PaKind :=
  if pa < frameTableBase then .hbm
  else if pa < hbmBytes then .frameTable
  else
    let top := bits pa 51 44
    if 0xF0 ≤ top ∧ top < 0xF4 then .pcie (top - 0xF0)
    else if 0xF4 ≤ top ∧ top < 0xF8 ∧ Config.hdmDecodes pa then .cxl (top - 0xF4)
    else .none_

/-! ### The walk -/

/-- How a walk ends before the frame table is asked. -/
inductive WalkEnd where
  | leaf (t : Translation)
  /-- V = 0; ATTR is known where the entry met is a leaf -/
  | missing (attr : Option (BitVec 2))
  | refused
  | poison (pa : Nat)
  deriving DecidableEq, Repr

/-- One level of a walk: the lowest VA bit of its index, the index width, whether a leaf may stand there, and the
alignment of the next table (R391). -/
structure Level where
  shift : Nat
  width : Nat
  leafOk : Bool
  leafMust : Bool
  nextAlign : Nat
  deriving DecidableEq, Repr

def levels : List Level :=
  [⟨48, 8, false, false, 4096⟩, ⟨39, 9, false, false, 4096⟩, ⟨30, 9, true, false, 4096⟩, ⟨21, 9, true, false, 256⟩,
    ⟨16, 5, true, true, 256⟩]

/-- A leaf entry is well formed (R392, R393, R416). -/
def leafOk (e : Nat) (lv : Level) : Bool :=
  let pa := bits e 51 16 * 65536
  !bit e 63 && bits e 55 52 == 0 && bits e 15 12 == 0 && bits e 9 8 == 0 && bits e 6 4 == 0 && bits e 11 10 != 3 &&
    lv.leafOk && pa % 2 ^ lv.shift == 0 && (!bit e 57 || bit e 56) &&
    (bit e 57 ||
      match paKind pa with
      | .pcie _ => bits e 11 10 == 0
      | _ => true)

/-- A pointer entry is well formed (R392, R393). -/
def pointerOk (e : Nat) (lv : Level) : Bool :=
  bits e 63 52 == 0 && bits e 7 1 == 0 && !lv.leafMust && bits e 51 8 * 256 % lv.nextAlign == 0

/-- The walk from a table on. Entries are read at their home L2, where a lazily released line is first written back. -/
def State.walkFrom (s : State) (asid va : Nat) : List Level → Nat → WalkEnd × State
  | [], _ => (.refused, s)
  | lv :: rest, table =>
    let ea := table + 8 * bits va (lv.shift + lv.width - 1) lv.shift
    let s := s.homeTouchRange none ea 8
    if s.poisoned ea 8 then (.poison ea, s)
    else
      let e := Memory.readNat s.mem ea 8
      if !bit e 0 then
        (.missing (if lv.leafMust || (lv.leafOk && bit e 7) then some (BitVec.ofNat 2 (bits e 11 10)) else none), s)
      else if bit e 7 then
        if leafOk e lv then
          let size := 2 ^ lv.shift
          (.leaf
            { asid := asid, page := va / size * size, size := size, frame := bits e 51 16 * 65536
              attr := BitVec.ofNat 2 (bits e 11 10), canRead := bit e 1, canWrite := bit e 2, canExec := bit e 3
              remote := bit e 57, leaf := ea }, s)
        else (.refused, s)
      else if pointerOk e lv then s.walkFrom asid va rest (bits e 51 8 * 256)
      else (.refused, s)

/-- A walk of a function's space (R390, R391). -/
def State.walk (s : State) (asid va : Nat) : WalkEnd × State :=
  let troot := (s.fn asid).troot.toNat
  if !bit troot 0 then (.refused, s) else s.walkFrom asid (va % 2 ^ 56) levels (bits troot 51 11 * 2048)

/-! ### The frame table -/

def State.frame (s : State) (k : Nat) : Frame := Map.at s.frames {} k

/-- The frame table refuses a frame to a tenant (R395, rows 1 to 3). -/
def Frame.refuses (f : Frame) (tenant : BitVec 16) : Bool :=
  f.frameState == 1 || f.frameState == 2 || (f.tenant != tenant && f.tenant != 0)

/-- The die whose stacks hold a frame. -/
def dieOfFrame (k : Nat) : Nat := k * 65536 / (96 * 2 ^ 30)

/-- A frame lies in the HBM of the partition that a function belongs to: a partition owns its HBM channels (R6, R340). -/
def State.ownsFrame (s : State) (fn k : Nat) : Bool := (s.part (s.fn fn).part).dies.contains (dieOfFrame k)

/-- The 32 bytes of a frame's entry, as software reads it through the physical function (R395). -/
def Frame.entry (f : Frame) : List Byte :=
  bytesOfNat 32
    (f.fgen.toNat * 2 ^ 2 + f.sgen.toNat * 2 ^ 24 + f.frameState.toNat * 2 ^ 46 + f.tenant.toNat * 2 ^ 48 +
      f.pteAddr / 8 * 2 ^ 67 + (if f.migv then 2 ^ 127 else 0) + f.settleEnd.toNat * 2 ^ 128 + f.winStart.toNat * 2 ^ 160 +
      f.ownRcb % 2 ^ 64 * 2 ^ 192)

/-- Bytes of the frame table, as software reads them through the physical function (R395, log entry 84). -/
def State.tableBytes (s : State) (pa n : Nat) : List Byte :=
  (span pa n).map fun a => ((s.frame ((a - frameTableBase) / 32)).entry).getD ((a - frameTableBase) % 32) 0

/-- The frames of HBM that a leaf covers. -/
def Translation.frames (t : Translation) : List Nat := span (t.frame / 65536) (t.size / 65536)

/-- The nodes of a chain under which a claim is not made: one whose read failed, or one whose quota it would exceed. -/
def State.claimBarrier (s : State) (chain : List Nat) (bytes : Nat) : Option (Nat × Byte) :=
  (chainTails chain).findSome? fun tail =>
    match tail with
    | [] => none
    | k :: _ =>
      let n := s.node k
      if !n.readable then some (n.addr, n.fault)
      else if s.leastOnChain tail 1 0x20 8 < n.memUsed + bytes then some (0, 0x0B)
      else none

/-- The claim of unowned frames by a walking space, counted on the chain of the walking context (R395, R359). -/
def State.claim (s : State) (tenant : BitVec 16) (fn rcb : Nat) (chain : List Nat) (t : Translation) (frames : List Nat) : State :=
  let s := frames.foldl
    (fun s k =>
      { s with frames := Map.put s.frames k { s.frame k with tenant := tenant, frameState := 0, ownRcb := rcb, ownFn := fn, va := t.page + (k * 65536 - t.frame) } })
    s
  let s := chain.foldl (fun s k => s.changeNode k fun n => { n with memUsed := n.memUsed + 65536 * frames.length }) s
  { s with agenda := s.agenda ++ chain.map Instr.rcbFieldWriteback }

/-- The frame table notes the MIGR leaf that maps a frame (R395, R400). -/
def State.noteLeaf (s : State) (fn : Nat) (t : Translation) : State :=
  let k := t.frame / 65536
  if t.size = 65536 && bit (Memory.readNat s.mem t.leaf 8) 56 then
    { s with frames := Map.put s.frames k { s.frame k with migv := true, pteAddr := t.leaf, ownFn := fn, va := t.page } }
  else s

/-- Who walks: a slice's context, or hardware on behalf of a function alone. -/
structure Walker where
  asid : Nat
  slice : Option Nat
  core : Nat
  /-- it uses the caches and the side log of its core; a job of a bundle has none (R304) -/
  cached : Bool := true
  deriving DecidableEq, Repr

/-- The leaf checked against the frame table (R395). A claim that a quota stops is reported, and refuses the leaf (R359). -/
def State.checkFrames (s : State) (w : Walker) (t : Translation) (va : Nat) : Bool × State :=
  if t.remote then (true, s)
  else
    match paKind t.frame with
    | .pcie _ | .cxl _ => (true, s)
    | .frameTable | .none_ => (false, s)
    | .hbm =>
      if frameTableBase < t.frame + t.size then (false, s)
      else
        let tenant := (s.fn w.asid).tenant
        if !s.ownsFrame w.asid (t.frame / 65536) || t.frames.any fun k => (s.frame k).refuses tenant then (false, s)
        else
          let fresh := t.frames.filter fun k => (s.frame k).tenant == 0
          if fresh.isEmpty || tenant == 0 then (true, s.noteLeaf w.asid t)
          else
            let chain := (w.slice.map s.sliceChain).getD []
            match s.claimBarrier chain (65536 * fresh.length) with
            | some (addr, cause) =>
              let r : RecordFields := { kind := 2, cause := cause, core := w.core, addr := if addr = 0 then va else addr }
              (false, s.post ((w.slice.map fun n => s.forSlice n r).getD r))
            | none => (true, (s.claim tenant w.asid ((w.slice.map fun n => (s.slice n).rcb).getD 0) chain t fresh).noteLeaf w.asid t)

/-- What an access finds (R393, R395). -/
inductive Found where
  | page (t : Translation)
  | missing (attr : Option (BitVec 2))
  | refused
  | poison (pa : Nat)
  deriving DecidableEq, Repr

/-- A fresh walk with the frame check. -/
def State.walkChecked (s : State) (w : Walker) (va : Nat) : Found × State :=
  match s.walk w.asid va with
  | (.missing a, s) => (.missing a, s)
  | (.refused, s) => (.refused, s)
  | (.poison pa, s) => (.poison pa, s)
  | (.leaf t, s) =>
    match s.checkFrames w t va with
    | (true, s) => (.page t, s)
    | (false, s) => (.refused, s)

/-- The physical address of a virtual one in its page. -/
def Translation.pa (t : Translation) (va : Nat) : Nat := t.frame + va % t.size

def Translation.covers (t : Translation) (asid va : Nat) : Bool := t.asid == asid && t.page == va / t.size * t.size

/-! ### Cached translations and page requests -/

/-- The 64 KiB page of an address. -/
def pageOf (va : Nat) : Nat := va % 2 ^ 56 / 65536 * 65536

/-- A walk of a page succeeded on a core: its requests are over (R324). -/
def State.walked (s : State) (c : Nat) (asid va : Nat) (t : Translation) : State :=
  s.changeCore c fun k =>
    { k with tlb := k.tlb ++ [t], requests := k.requests.filter fun r => !(r.asid == asid && r.page == pageOf va) }

/-- The translation an access of a core uses: a cached one, or that of a fresh walk (R323). -/
def State.lookup (s : State) (w : Walker) (va : Nat) : Found × State :=
  let va := va % 2 ^ 56
  if !w.cached then s.walkChecked w va
  else
  match (s.core w.core).tlb.find? fun t => t.covers w.asid va with
  | some t => (.page t, s)
  | none =>
    match s.walkChecked w va with
    | (.page t, s) => (.page t, s.walked w.core w.asid va t)
    | other => other

/-- A page request is outstanding for 1 ms (R324). -/
def requestNs : Nat := 1000000

/-- A translation as a core finds it without a claim: what changes no architectural state may use nothing else (R195, R395). -/
def State.peek (s : State) (w : Walker) (va : Nat) : Option Translation × State :=
  let va := va % 2 ^ 56
  match (s.core w.core).tlb.find? fun t => t.covers w.asid va with
  | some t => (some t, s)
  | none =>
    match s.walk w.asid va with
    | (.leaf t, s) =>
      let tenant := (s.fn w.asid).tenant
      let owned := paKind t.frame != .hbm || t.frames.all fun k => (s.frame k).tenant == tenant && !(s.frame k).refuses tenant
      if t.remote || owned then
        match s.checkFrames w t va with
        | (true, s) => (some t, s.walked w.core w.asid va t)
        | (false, s) => (none, s)
      else (none, s)
    | (_, s) => (none, s)

/-- A page request posted, unless one of the context for the page is outstanding on the core (R324). -/
def State.requestPage (s : State) (w : Walker) (r : RecordFields) : State :=
  let page := pageOf r.addr
  let slice := w.slice.getD 0
  if (s.core w.core).requests.any fun q => s.contextKey q.slice == s.contextKey slice && q.asid == w.asid && q.page == page then s
  else
    let r := (w.slice.map fun n => s.forSlice n r).getD r
    (s.post { r with kind := 1, cause := 0x0A, core := w.core }).changeCore w.core fun k =>
      { k with requests := k.requests ++ [⟨slice, w.asid, page, s.ptime⟩] }

end Sys2Proof.Machine
end

