-- ==== Sys2Proof/Machine/Landing.lean ====
section
/-! DEFINITION. Where a team stands, how the on-chip spaces map to cells, and the comparison of accesses with landing
copies (R275 to R298). -/

namespace Sys2Proof.Machine

/-- The wave of a team: WEAVEID, and 64 more for the shadow wave (R171). -/
def weaveUid (team weaveId : Nat) (shadow : Bool) : Nat := team * 128 + weaveId + (if shadow then 64 else 0)

def teamOfWeave (u : Nat) : Nat := u / 128

/-- The partner wave (R261). -/
def partnerOf (u : Nat) : Nat := if u % 128 < 64 then u + 64 else u - 64

/-- The surroundings of a team. -/
structure Site where
  team : Nat
  core : Nat
  gang : Nat
  sub : Nat
  slice : Nat
  asid : Nat
  part : Nat
  kernel : Kernel
  deriving DecidableEq, Repr

/-- The walker of a team's accesses. -/
def Site.walker (e : Site) : Walker := { asid := e.asid, slice := some e.slice, core := e.core }

def State.site (s : State) (t : Nat) : Site :=
  let m := s.team t
  let u := s.sub m.sub
  { team := t, core := m.core, gang := m.gang, sub := m.sub, slice := u.slice, asid := (s.slice u.slice).fn
    part := (s.fn (s.slice u.slice).fn).part, kernel := u.kernel.getD {} }

/-- The thread slots charged per core at the minimum of cores (R276). -/
def Kernel.minSlots (k : Kernel) : Nat :=
  k.gangTeams / k.gangMin * k.teamThreads * (if k.shadowEntry.isSome then 2 else 1)

/-- The size of a lane-private slice (R276). -/
def Kernel.sliceBytes (k : Kernel) : Nat := min 8192 (2 ^ Nat.log2 (524288 / max 1 k.minSlots))

/-- The home weaves of a team (R258). -/
def Kernel.weaves (k : Kernel) : Nat := (k.teamThreads + 31) / 32

/-- The space codes of R186. -/
def spaceG : Nat := 0
def spaceL : Nat := 1
def spaceS : Nat := 2
def spaceC : Nat := 3
def spaceX : Nat := 4

/-- The bytes of a space that a team may name (R278, R279, R281, R284). -/
def State.spaceBytes (s : State) (e : Site) (space : Nat) : Nat :=
  if space = spaceL then e.kernel.sliceBytes
  else if space = spaceS then e.kernel.scratch
  else if space = spaceC then 32 * e.kernel.cluster
  else if space = spaceX then (s.sub e.sub).xsize
  else 2 ^ 64

/-- The sharing-group window of a team (R35). -/
def State.window (s : State) (e : Site) : Window := Map.at (s.gang e.gang).windows {} ((s.team e.team).index / 32)

/-- The team of a gang with an in-gang index. -/
def State.teamAt (s : State) (gang index : Nat) : Option Nat :=
  (s.teams.find? fun t => t.2.gang = gang && t.2.index = index && !t.2.ended).map Prod.fst

/-- The gang stands saved (R270, R364). -/
def State.isSavedGang (s : State) (g : Nat) : Bool := (s.gang g).saved.isSome

/-- The contribution that an offset of the cluster window names, if its team is a member and so is this one (R281). -/
def State.contribution (s : State) (e : Site) (a : Nat) : Option Nat :=
  let k := a / max 1 e.kernel.cluster
  if (s.team e.team).joined && (s.window e).members.getLsbD k then
    s.teamAt e.gang ((s.team e.team).index / 32 * 32 + k)
  else none

/-- The cell of an on-chip offset that has passed its checks. -/
def State.cellOf (s : State) (e : Site) (weave lane space a : Nat) : Nat :=
  if space = spaceL then onChip .slice (weave * 32 + lane) + a
  else if space = spaceS then onChip .scratch e.team + a
  else if space = spaceC then onChip .cluster ((s.contribution e a).getD 0) + a % max 1 e.kernel.cluster
  else onChip .chip e.part + (s.sub e.sub).xbase + a

/-! ### Copies against accesses -/

/-- A byte of a staging copy that has not landed (R372). -/
def rangesUnlanded (landed x : Nat) : Nat → List (Nat × Nat × Nat) → Bool
  | _, [] => false
  | before, (_, bytes, soff) :: rest =>
    (soff ≤ x && x < soff + bytes && landed ≤ before + (x - soff)) || rangesUnlanded landed x (before + bytes) rest

/-- A byte in a copy's box beyond its watermark (R287, R372). -/
def Copy.unlanded (c : Copy) (x : Nat) : Bool :=
  if c.ranges.isEmpty then c.doff + c.landed ≤ x && x < c.doff + c.nbytes else rangesUnlanded c.landed x 0 c.ranges

/-- The copy is compared with the accesses of a team to a space (R288). -/
def Copy.inView (c : Copy) (team space : Nat) : Bool :=
  c.space = space && (if space = spaceS then c.targets.contains team else c.team = team)

/-- The access must wait: a byte it touches lies in the box of an active copy and has not landed (R289). -/
def State.holds (s : State) (team space a n : Nat) : Bool :=
  s.copies.any fun c => c.2.active && c.2.inView team space && (span a n).any c.2.unlanded

/-- The first byte of an access that lies beyond the frozen point of a failed copy (R297). -/
def State.failedByte (s : State) (team space a n : Nat) : Option Nat :=
  (span a n).find? fun x => s.copies.any fun c => !c.2.active && c.2.failed && c.2.inView team space && c.2.unlanded x

end Sys2Proof.Machine
end

