-- ==== Sys2Proof/Machine/Banks.lean ====
section
/-! DEFINITION. The arrays of a core, the parts of teams that stand in their banks, and the accesses of a newcomer that wait for
a claimed bank (R378, R380, R381). -/

namespace Sys2Proof.Machine

/-! ### Arrays (R378) -/

/-- The banks of 16 KiB of each array. -/
def CoreArray.banks : CoreArray → Nat
  | .registers | .lanes | .scratch => 32
  | .cluster | .tiles | .queues => 16
  | .opbuf => 4
  | .teamState => 64

/-- The arrays in their order. -/
def CoreArray.all : List CoreArray := [.registers, .lanes, .scratch, .cluster, .tiles, .opbuf, .queues, .teamState]

def CoreArray.number (a : CoreArray) : Nat := CoreArray.all.idxOf a

/-- `sh` of R384. -/
def Kernel.sh (k : Kernel) : Nat := if k.shadowEntry.isSome then 2 else 1

/-- The register-file bytes of a team. -/
def Kernel.registerBytes (k : Kernel) : Nat := k.weaves * (256 * k.regs + if k.shadowEntry.isSome then 4096 else 0)

/-- The hardware thread slots of a team (R275). -/
def Kernel.slots (k : Kernel) : Nat := k.teamThreads * k.sh

/-- What a team holds of an array, in bytes; its reservations are made by OBRES. What it takes of the team-state store is
not given: 512 bytes for each wave, which fills the store with the most waves that a core can hold (log entry 76). -/
def Kernel.holds (k : Kernel) : CoreArray → Nat
  | .registers => k.registerBytes
  | .lanes => k.slots * k.sliceBytes
  | .scratch => k.scratch
  | .cluster => k.cluster
  | .tiles => 16384 * k.acc
  | .opbuf => 0
  | .queues => 8192 * k.weaves * (k.sh - 1)
  | .teamState => 512 * k.weaves * k.sh

/-! ### Parts of a team's state (R380) -/

/-- A part of a team's state. A FIFO of a shadow pair is one part, and so is what the team-state store holds of a control
record. -/
inductive Piece where
  | vreg (weave reg : Nat)
  | row (key : Nat)
  | line (ln : Nat)
  | fifo (number : Nat)
  | control
  deriving DecidableEq, Repr

/-- The array a part stands in, and its place in what its team holds there. -/
def Piece.place (k : Kernel) : Piece → CoreArray × Nat
  | .vreg u n =>
    (.registers, if u % 128 < 64 then 256 * (u % 128 * k.regs + n) else 256 * (k.weaves * k.regs + (u % 128 - 64) * 16 + n))
  | .row key => (.tiles, 256 * key)
  | .line ln =>
    let off := (ln * 128 - onChipBase) % 2 ^ 36
    match ownerOf (ln * 128) with
    | some (1, _) => (.scratch, off)
    | some (2, _) => (.cluster, off)
    | some (3, o) =>
      let u := o / 32 % 128
      (.lanes, ((if u < 64 then 0 else k.teamThreads) + u % 64 * 32 + o % 32) * k.sliceBytes + off)
    | _ => (.opbuf, off)
  | .fifo n => (.queues, 1024 * n)
  | .control => (.teamState, 0)

/-- The granule, or the byte of a buffer, at a place of what a team holds. -/
def granuleAt : List (Nat × Nat) → Nat → Option Nat
  | [], _ => none
  | (first, n) :: rest, i => if i < n then some (first + i) else granuleAt rest (i - n)

/-- The bank of its team's core that a part stands in. -/
def State.bankOf (s : State) (t : Nat) (p : Piece) : Option (CoreArray × Nat) :=
  let (array, off) := p.place (s.site t).kernel
  if array = .opbuf then
    ((s.team t).reservations.find? fun r => decide (r.2.base < off + 128) && decide (off < r.2.base + r.2.bytes)).bind fun r =>
      (granuleAt r.2.place (off - r.2.base)).map fun a => (array, a / 16384)
  else
    ((s.core (s.team t).core).holdings.find? fun h => h.team = t && h.array = array).bind fun h =>
      (granuleAt h.runs (off / 256)).map fun n => (array, n / 64)

/-! ### The record of a team in the save area (R384) -/

def Kernel.ctl (k : Kernel) : Nat := 32768 + 1024 * k.weaves * k.sh
def Kernel.secP (k : Kernel) : Nat := k.ctl + 512 * k.weaves * k.sh
def Kernel.secV (k : Kernel) : Nat := k.secP + 32 * k.weaves * k.sh
def Kernel.secL (k : Kernel) : Nat := k.secV + 256 * k.weaves * (k.regs + 16 * (k.sh - 1))
def Kernel.secScratch (k : Kernel) : Nat := k.secL + 32 * k.weaves * k.sh * k.sliceBytes
def Kernel.secCluster (k : Kernel) : Nat := k.secScratch + k.scratch
def Kernel.secAcc (k : Kernel) : Nat := k.secCluster + k.cluster
def Kernel.secOpbuf (k : Kernel) : Nat := k.secAcc + 16384 * k.acc
def Kernel.secQueue (k : Kernel) : Nat := k.secOpbuf + 65536
def Kernel.tsz (k : Kernel) : Nat := (k.secQueue + 8192 * k.weaves * (k.sh - 1) + 4095) / 4096 * 4096

/-- The index of a wave in its team's record: compute waves, then shadow waves. -/
def waveIndex (k : Kernel) (u : Nat) : Nat := if u % 128 < 64 then u % 128 else k.weaves + u % 128 - 64

/-- The wave of a team with an index. -/
def waveAt (k : Kernel) (t i : Nat) : Nat := if i < k.weaves then weaveUid t i false else weaveUid t (i - k.weaves) true

/-- The offset of a part within its team's record. -/
def partOffset (k : Kernel) (p : Piece) : Nat :=
  let (array, off) := p.place k
  match p, array with
  | .line ln, .lanes =>
    let o := (ln * 128 - onChipBase) / 2 ^ 36 / 8
    k.secL + (waveIndex k (o / 32) * 32 + o % 32) * k.sliceBytes + (ln * 128 - onChipBase) % 2 ^ 36
  | _, .registers => k.secV + off
  | _, .lanes => k.secL + off
  | _, .scratch => k.secScratch + off
  | _, .cluster => k.secCluster + off
  | _, .tiles => k.secAcc + off
  | _, .opbuf => k.secOpbuf + off
  | _, .queues => k.secQueue + off
  | _, .teamState => off

def State.offsetOf (s : State) (t : Nat) (p : Piece) : Nat := partOffset (s.site t).kernel p

def Piece.bytes (k : Kernel) : Piece → Nat
  | .vreg _ _ => 256
  | .row _ => 256
  | .line _ => 128
  | .fifo _ => 1024
  | .control => k.ctl

/-! ### Claims (R380) -/

/-- The gang stands on its cores. -/
def Gang.stands (g : Gang) : Bool := g.state == .placed || g.state == .running || g.state == .parked

/-- The banks that `n` bytes of an array from a place on touch. -/
def banksOf (base n : Nat) : List Nat := if n = 0 then [] else span (base / 16384) ((base + n - 1) / 16384 + 1 - base / 16384)

/-- The banks of a run of granules. -/
def runBanks (r : Nat × Nat) : List Nat := banksOf (256 * r.1) (256 * r.2)

/-- The banks of the operand buffer that a reservation stands in. -/
def Reservation.banks (r : Reservation) : List Nat := r.place.flatMap fun x => banksOf x.1 x.2

/-- A saved team still has state in a bank of the core it stood on. -/
def State.leftIn (s : State) (c : Nat) (a : CoreArray) (bank : Nat) (t : Nat × Team) : Bool :=
  t.2.core = c && !t.2.ended && !t.2.away && s.isSavedGang t.2.gang && !t.2.gone.contains (a, bank) &&
    if a = .opbuf then t.2.reservations.any fun r => r.2.banks.contains bank
    else (s.core c).holdings.any fun h => h.team = t.1 && h.array = a && h.runs.any fun r => (runBanks r).contains bank

/-- The saved teams that still have state in a bank. -/
def State.residents (s : State) (c : Nat) (a : CoreArray) (bank : Nat) : List Nat := (s.teams.filter (s.leftIn c a bank)).map Prod.fst

/-- A newcomer's claims on banks that hold resident state of other gangs, or that another has claimed already. -/
def State.claimBanks (s : State) (c g : Nat) (a : CoreArray) (banks : List Nat) : State :=
  banks.foldl
    (fun (s : State) bank =>
      let claims := (s.core c).claims
      if claims.any fun k => k.array = a && k.bank = bank then
        s.changeCore c fun x =>
          { x with claims := x.claims.map fun k => if k.array = a && k.bank = bank then { k with gangs := setAdd k.gangs g } else k }
      else if (s.residents c a bank).all fun t => (s.team t).gang = g then s
      else s.changeCore c fun x => { x with claims := x.claims ++ [⟨a, bank, [g], false, none⟩] }) s

/-- The newcomer has left its cores: claims of its whose spill has not begun are dropped (R380, R389). -/
def Core.dropClaims (k : Core) (g : Nat) : Core :=
  { k with claims := (k.claims.map fun x : Claim => { x with gangs := x.gangs.filter (· ≠ g) }).filter fun x =>
      x.begun || !x.gangs.isEmpty }

/-! ### Waiting for a claimed bank (R381) -/

/-- A claim of a newcomer on a bank. -/
def Claim.isOn (k : Claim) (gang : Nat) (x : CoreArray × Nat) : Bool := k.array = x.1 && k.bank = x.2 && k.gangs.contains gang

/-- A part of a newcomer's state stands in a bank that has still to be spilled and zeroed. -/
def State.claimHolds (s : State) (t : Nat) (p : Piece) : Bool :=
  match (s.core (s.team t).core).claims with
  | [] => false
  | claims => ((s.bankOf t p).map fun x => claims.any fun k => k.isOn (s.team t).gang x).getD false

/-- The team whose memory a cell belongs to. -/
def teamOfCell (a : Nat) : Option Nat :=
  match ownerOf a with
  | none => none
  | some (r, o) => if r = Region.chip.code then none else if r = Region.slice.code then some (o / 4096) else some o

/-- A byte of a range of cells stands in such a bank. -/
def State.cellsClaimed (s : State) (a n : Nat) : Bool :=
  (linesOf a n).any fun ln => ((teamOfCell (ln * 128)).map fun t => s.claimHolds t (.line ln)).getD false

/-- A row of a tile of a team stands in such a bank. -/
def State.tileClaimed (s : State) (t tile : Nat) : Bool := (List.range 64).any fun r => s.claimHolds t (.row (tile * 64 + r))

/-! ### What placement gives a team (R405) -/

/-- What is left of a run of granules beside another. -/
def cutRun (held x : Nat × Nat) : List (Nat × Nat) :=
  let low := max x.1 (held.1 + held.2)
  [(x.1, min (x.1 + x.2) held.1 - x.1), (low, x.1 + x.2 - low)].filter fun r => r.2 ≠ 0

/-- The first `n` granules of runs. -/
def takeRuns : Nat → List (Nat × Nat) → List (Nat × Nat)
  | _, [] => []
  | n, (first, k) :: rest => if n = 0 then [] else if n ≤ k then [(first, n)] else (first, k) :: takeRuns (n - k) rest

/-- The granules of 256 bytes that a run of bytes touches, by the first and their number. -/
def granulesOf (r : Nat × Nat) : Nat × Nat := (r.1 / 256, (r.1 + r.2 + 255) / 256 - r.1 / 256)

/-- The teams of standing gangs on a core. -/
def State.standingTeams (s : State) (c : Nat) : List (Nat × Team) :=
  s.teams.filter fun t => t.2.core = c && !t.2.ended && (s.gang t.2.gang).stands

/-- The granules of a core's operand buffer that teams of standing gangs hold, but those of one gang. -/
def State.opbufHeld (s : State) (c g : Nat) : List (Nat × Nat) :=
  ((s.standingTeams c).filter fun t => t.2.gang ≠ g).flatMap fun t => t.2.reservations.flatMap fun r => r.2.place.map granulesOf

/-- The runs of an array of a core that no team of a standing gang holds, nor a team of the gang itself, in the order in which
placement takes them: those of banks without resident state of other pre-empted gangs, then the others (R405). -/
def State.freeRuns (s : State) (c g : Nat) (a : CoreArray) : List (Nat × Nat) :=
  let keeps := fun t => (s.team t).gang = g || (s.gang (s.team t).gang).stands
  let held := if a = .opbuf then s.opbufHeld c g else
    ((s.core c).holdings.filter fun h => h.array = a && keeps h.team).flatMap fun h => h.runs
  let free := fun bank => held.foldl (fun (xs : List (Nat × Nat)) h => xs.flatMap (cutRun h)) [(64 * bank, 64)]
  let resident := fun bank => (s.residents c a bank).any fun t => (s.team t).gang ≠ g
  let banks := List.range a.banks
  (banks.filter fun b => !resident b).flatMap free ++ (banks.filter resident).flatMap free

/-- What a team is given of an array: the banks that placement takes, in increasing order (R405). -/
def State.runsFor (s : State) (c g n : Nat) (a : CoreArray) : List (Nat × Nat) := sortBy Prod.fst (takeRuns n (s.freeRuns c g a))

/-- A team given what it holds of an array, with the claims that this makes. -/
def State.holdArray (s : State) (c g t : Nat) (k : Kernel) (a : CoreArray) : State :=
  let n := (k.holds a + 255) / 256
  if n = 0 then s
  else
    let runs := s.runsFor c g n a
    (s.claimBanks c g a (runs.flatMap runBanks)).changeCore c fun x => { x with holdings := x.holdings ++ [⟨t, a, runs⟩] }

/-- A team placed on a core is given what it holds of each array. -/
def State.hold (s : State) (c g t : Nat) (k : Kernel) : State :=
  CoreArray.all.foldl (fun (s : State) a => s.holdArray c g t k a) s

/-- The holdings of a team dropped, those of one array or all. -/
def Core.release (k : Core) (t : Nat) (which : CoreArray → Bool) : Core :=
  { k with holdings := k.holdings.filter fun h => !(h.team = t && which h.array) }

/-! ### The operand buffer (R253) -/

/-- The bytes of a core's operand buffer. -/
def opbufBytes : Nat := 65536

/-- The lowest place for a size beside ranges that are taken. -/
def lowestFit (taken : List (Nat × Nat)) (size : Nat) : Option Nat :=
  let fits := fun b => decide (b + size ≤ opbufBytes) && taken.all fun r => decide (b + size ≤ r.1) || decide (r.1 + r.2 ≤ b)
  leastBy id ((0 :: taken.map fun r => r.1 + r.2).filter fits)

/-- The ranges of a core's operand buffer that a team cannot have: its own reservations, and the granules of 256 bytes that other
teams hold, whose holdings begin on their boundaries (R378). -/
def State.opbufTaken (s : State) (c t : Nat) : List (Nat × Nat) :=
  (s.standingTeams c).flatMap fun x => x.2.reservations.flatMap fun r =>
    if x.1 = t then r.2.place else (r.2.place.map granulesOf).map fun y => (256 * y.1, 256 * y.2)

/-- The banks of a core's operand buffer with resident state of pre-empted gangs, as ranges. -/
def State.opbufResident (s : State) (c : Nat) : List (Nat × Nat) :=
  ((List.range CoreArray.opbuf.banks).filter fun b => !(s.residents c .opbuf b).isEmpty).map fun b => (16384 * b, 16384)

/-- Where OBRES takes a range: the lowest place that is free, off the banks with resident state of pre-empted gangs where there
is one (R256, R405). -/
def State.opbufPlace (s : State) (c t size : Nat) : Option Nat :=
  match lowestFit (s.opbufTaken c t ++ s.opbufResident c) size with
  | some a => some a
  | none => lowestFit (s.opbufTaken c t) size

/-- The offset that a new reservation takes among its team's: the place it has in the buffer where that is free among them. -/
def Team.offsetFor (m : Team) (at_ size : Nat) : Option Nat :=
  let mine := m.reservations.map fun r => (r.2.base, r.2.bytes)
  if mine.all fun r => decide (at_ + size ≤ r.1) || decide (r.1 + r.2 ≤ at_) then some at_ else lowestFit mine size

/-- The granules that a team's reservations need when they are placed one after another. -/
def Team.granules (m : Team) : Nat := ((m.reservations.map fun r => r.2.bytes).sum + 255) / 256

/-- The granules that teams of standing gangs hold of a core's operand buffer. -/
def State.opbufGranules (s : State) (c : Nat) : Nat :=
  (((s.standingTeams c).flatMap fun t => t.2.reservations.flatMap fun r => (r.2.place.map granulesOf).flatMap fun x =>
    span x.1 x.2).eraseDups).length

/-- Bytes `from_` to `from_ + n` of what stands on granules in their order, as runs of 64 bytes. -/
def onGranules (gs : List Nat) (from_ n : Nat) : List (Nat × Nat) :=
  (List.range (n / 64)).map fun i => (256 * gs.getD ((from_ + 64 * i) / 256) 0 + (from_ + 64 * i) % 256, 64)

/-- A team's reservations placed one after another on granules. -/
def Team.placeOn (m : Team) (gs : List Nat) : Team :=
  { m with
    reservations := (m.reservations.foldl
      (fun (r : Map Reservation × Nat) (x : Nat × Reservation) =>
        (r.1 ++ [(x.1, { x.2 with place := onGranules gs r.2 x.2.bytes })], r.2 + x.2.bytes)) ([], 0)).1 }

end Sys2Proof.Machine
end

