-- ==== Sys2Proof/Machine/Numbers.lean ====
section
/-! DEFINITION. Numbers: sub-elements (R14, R102), number formats and rounding, that is the values of codes (R46 to R50), exact
sums and products (R60, R65) and the one rounding of an exact value (R53 to R58), and the operations of atomics (R198). -/

namespace Sys2Proof.Machine

/-! ### Sub-elements -/

/-- `elem`: sub-element k of width W (R14). -/
def elem (x : Word64) (w k : Nat) : Nat := (x.toNat >>> (k * w)) % 2 ^ w

/-- `setelem`. -/
def setElem (x : Word64) (w k y : Nat) : Word64 :=
  let mask := (2 ^ w - 1) <<< (k * w)
  BitVec.ofNat 64 ((x.toNat &&& (2 ^ 64 - 1 - mask)) ||| ((y % 2 ^ w) <<< (k * w)))

/-- The value with sub-elements `g 0`, `g 1` and so on, `n` of them. -/
def packElems (w : Nat) (g : Nat → Nat) : Nat → Word64
  | 0 => 0
  | n + 1 => setElem (packElems w g n) w n (g n)

/-- `sext` of a W-bit number. -/
def signed (w x : Nat) : Int := if x < 2 ^ (w - 1) then x else (x : Int) - 2 ^ w

/-- `wrap`. -/
def wrapInt (w : Nat) (x : Int) : Nat := (x % 2 ^ w).toNat

/-- `sats`. -/
def satSigned (w : Nat) (x : Int) : Nat := wrapInt w (max (-2 ^ (w - 1)) (min (2 ^ (w - 1) - 1) x))

/-- `satu`. -/
def satUnsigned (w : Nat) (x : Int) : Nat := wrapInt w (max 0 (min (2 ^ w - 1) x))

/-- The result step of R102: the exact value clamped or wrapped. -/
def fit (w : Nat) (unsigned sat : Bool) (x : Int) : Nat :=
  if sat then (if unsigned then satUnsigned w x else satSigned w x) else wrapInt w x

/-- The exact value lies outside the range of R102. -/
def outOfRange (w : Nat) (unsigned : Bool) (x : Int) : Bool :=
  if unsigned then x < 0 || (2 ^ w : Int) ≤ x else x < -2 ^ (w - 1) || (2 ^ (w - 1) : Int) ≤ x

/-- A W-bit element read as a number (R102). -/
def number (unsigned : Bool) (w e : Nat) : Int := if unsigned then e else signed w e

/-- A sub-element read as R102 reads it. -/
def readElem (unsigned : Bool) (w : Nat) (x : Word64) (k : Nat) : Int := number unsigned w (elem x w k)

/-- The immediate spread over sub-elements of width W: its low min(W, 32) bits, sign-extended to W, in each (R102). -/
def spreadImm (imm : BitVec 32) (w : Nat) : Word64 :=
  let low := min w 32
  packElems w (fun _ => wrapInt w (signed low (imm.toNat % 2 ^ low))) (64 / w)

/-! ### Exact values -/

/-- An exact value: `fin neg m e` is m × 2^e with a sign, signed zeros included. -/
inductive Fp where
  | nan
  | inf (neg : Bool)
  | fin (neg : Bool) (m : Nat) (e : Int)
  deriving DecidableEq, Repr

def Fp.zero (neg : Bool) : Fp := .fin neg 0 0

/-- m × 2^e as a multiple of 2^lo, for lo at most e. -/
def scaled (m : Nat) (e lo : Int) : Nat := m * 2 ^ (e - lo).toNat

def Fp.neg : Fp → Fp
  | .nan => .nan
  | .inf n => .inf !n
  | .fin n m e => .fin (!n) m e

def Fp.isNan : Fp → Bool
  | .nan => true
  | _ => false

def Fp.isZero : Fp → Bool
  | .fin _ 0 _ => true
  | _ => false

def Fp.sign : Fp → Bool
  | .nan => false
  | .inf n => n
  | .fin n _ _ => n

/-- floor(log2 |x|) of a nonzero finite value. -/
def Fp.log2 : Fp → Int
  | .fin _ m e => Nat.log2 m + e
  | _ => 0

/-- The product; 0 × ∞ is a NaN (R129). -/
def Fp.mul : Fp → Fp → Fp
  | .nan, _ | _, .nan => .nan
  | .inf a, .inf b => .inf (a != b)
  | .inf a, .fin b m _ => if m = 0 then .nan else .inf (a != b)
  | .fin a m _, .inf b => if m = 0 then .nan else .inf (a != b)
  | .fin a m e, .fin b k j => .fin (a != b) (m * k) (e + j)

/-- The value times 2^n. -/
def Fp.shift (x : Fp) (n : Int) : Fp :=
  match x with
  | .fin s m e => .fin s m (e + n)
  | _ => x

/-- The value as an integer multiple of 2^lo. -/
def Fp.asInt (lo : Int) : Fp → Int
  | .fin n m e => if n then -(scaled m e lo : Int) else scaled m e lo
  | _ => 0

/-- The least exponent of the nonzero finite terms. -/
def leastExp : List Fp → Int
  | [] => 0
  | .fin _ m e :: rest =>
    if m = 0 then leastExp rest else if rest.all fun x => x.isZero then e else min e (leastExp rest)
  | _ :: rest => leastExp rest

/-- The exact sum of terms, with the sign of a zero result for rounding mode `rm` (R60, R65). -/
def sumExact (rm : Nat) (terms : List Fp) : Fp :=
  if terms.any Fp.isNan then .nan
  else
    let up := terms.contains (.inf false)
    let down := terms.contains (.inf true)
    if up && down then .nan
    else if up then .inf false
    else if down then .inf true
    else
      let finite := terms.map fun x =>
        match x with
        | .fin n 0 _ => Fp.fin n 0 0
        | _ => x
      let lo := leastExp finite
      let total : Int := (finite.map fun x => if x.isZero then 0 else x.asInt lo).sum
      if total = 0 then
        if finite.all fun x => x.isZero && !x.sign then .zero false
        else if finite.all fun x => x.isZero && x.sign then .zero true
        else .zero (rm == 3)
      else .fin (total < 0) total.natAbs lo

/-- The order of values, −0 below +0 (R130). -/
def Fp.lt (a b : Fp) : Bool :=
  match a, b with
  | .nan, _ | _, .nan => false
  | .inf n, .inf k => n && !k
  | .inf n, .fin _ _ _ => n
  | .fin _ _ _, .inf k => !k
  | .fin n m e, .fin k j i =>
    let lo := min e i
    let x := Fp.asInt lo (.fin n m e)
    let y := Fp.asInt lo (.fin k j i)
    x < y || (x = y && m = 0 && n && !k)

/-- Equality of values, −0 and +0 being equal (R131). -/
def Fp.same (a b : Fp) : Bool :=
  match a, b with
  | .nan, _ | _, .nan => false
  | .fin n m e, .fin k j i => (m = 0 && j = 0) || Fp.asInt (min e i) (.fin n m e) = Fp.asInt (min e i) (.fin k j i)
  | _, _ => a == b

/-! ### Floating formats (R46, R47) -/

/-- How a format uses its greatest exponent field. -/
inductive Top where
  | ieee | e4m3 | finite
  deriving DecidableEq, Repr

/-- A floating format: exponent and mantissa widths, bias, the use of the top exponent, and the unused low bits of its
container. -/
structure FloatFmt where
  ebits : Nat
  mbits : Nat
  bias : Int
  top : Top
  pad : Nat
  deriving DecidableEq, Repr

def f64Fmt : FloatFmt := ⟨11, 52, 1023, .ieee, 0⟩
def f32Fmt : FloatFmt := ⟨8, 23, 127, .ieee, 0⟩
def b16Fmt : FloatFmt := ⟨8, 7, 127, .ieee, 0⟩
def h16Fmt : FloatFmt := ⟨5, 10, 15, .ieee, 0⟩

/-- The floating format of a code 0 to 9 (R46). -/
def floatFmt (code : Nat) : FloatFmt :=
  match code with
  | 0 => f64Fmt
  | 1 => f32Fmt
  | 2 => ⟨8, 10, 127, .ieee, 13⟩
  | 3 => b16Fmt
  | 4 => h16Fmt
  | 5 => ⟨5, 2, 15, .ieee, 0⟩
  | 6 => ⟨4, 3, 7, .e4m3, 0⟩
  | 7 => ⟨3, 2, 3, .finite, 0⟩
  | 8 => ⟨2, 3, 1, .finite, 0⟩
  | _ => ⟨2, 1, 1, .finite, 0⟩

/-- The exponent of the least significant bit of subnormals. -/
def FloatFmt.lowExp (t : FloatFmt) : Int := 1 - t.bias - t.mbits

/-- The least exponent of a normal value. -/
def FloatFmt.minExp (t : FloatFmt) : Int := 1 - t.bias

/-- The value of a code (R47, R48); bits above the code are ignored. -/
def FloatFmt.value (t : FloatFmt) (raw : Nat) : Fp :=
  let code := raw >>> t.pad
  let man := code % 2 ^ t.mbits
  let expo := (code >>> t.mbits) % 2 ^ t.ebits
  let neg := (code >>> (t.mbits + t.ebits)) % 2 = 1
  let ones := 2 ^ t.ebits - 1
  if t.top = .ieee ∧ expo = ones then (if man = 0 then .inf neg else .nan)
  else if t.top = .e4m3 ∧ expo = ones ∧ man = 2 ^ t.mbits - 1 then .nan
  else if expo = 0 then .fin neg man t.lowExp
  else .fin neg (man + 2 ^ t.mbits) (expo - t.bias - t.mbits)

/-- The code with a sign, an exponent field and a mantissa. -/
def FloatFmt.code (t : FloatFmt) (neg : Bool) (expo man : Nat) : Nat :=
  (((if neg then 2 ^ t.ebits else 0) + expo) * 2 ^ t.mbits + man) * 2 ^ t.pad

/-- The largest finite magnitude with a sign. -/
def FloatFmt.maxCode (t : FloatFmt) (neg : Bool) : Nat :=
  let ones := 2 ^ t.ebits - 1
  match t.top with
  | .ieee => t.code neg (ones - 1) (2 ^ t.mbits - 1)
  | .e4m3 => t.code neg ones (2 ^ t.mbits - 2)
  | .finite => t.code neg ones (2 ^ t.mbits - 1)

/-- The canonical quiet NaN; +0 in a format without one (R57, R58). -/
def FloatFmt.qnan (t : FloatFmt) : Nat :=
  let ones := 2 ^ t.ebits - 1
  match t.top with
  | .ieee => t.code false ones (2 ^ (t.mbits - 1))
  | .e4m3 => t.code false ones (2 ^ t.mbits - 1)
  | .finite => 0

def FloatFmt.infCode (t : FloatFmt) (neg : Bool) : Nat := t.code neg (2 ^ t.ebits - 1) 0

/-- The rounding of a magnitude m / 2^sh to an integer in mode `rm` (R53). -/
def roundShift (rm : Nat) (neg : Bool) (m sh : Nat) : Nat :=
  let q := m / 2 ^ sh
  let r := m % 2 ^ sh
  let up :=
    if r = 0 then false
    else if rm = 0 then 2 ^ sh < 2 * r || (2 * r = 2 ^ sh && q % 2 = 1)
    else if rm = 1 then false
    else if rm = 2 then !neg
    else neg
  if up then q + 1 else q

/-- The rounded magnitude of a nonzero value as an integer and the exponent of its unit (R54, first step). -/
def FloatFmt.rounded (t : FloatFmt) (rm : Nat) (neg : Bool) (m : Nat) (e : Int) : Nat × Int :=
  let unit := max (Nat.log2 m + e - t.mbits) t.lowExp
  if unit ≤ e then (scaled m e unit, unit) else (roundShift rm neg m (unit - e).toNat, unit)

/-- The result of an overflow (R54, second step). -/
def FloatFmt.overflow (t : FloatFmt) (rm : Nat) (sat neg : Bool) : Nat :=
  if sat then t.maxCode neg
  else
    match t.top with
    | .e4m3 => t.qnan
    | .finite => t.maxCode neg
    | .ieee => if rm = 0 ∨ (rm = 2 ∧ !neg) ∨ (rm = 3 ∧ neg) then t.infCode neg else t.maxCode neg

/-- `round_to` (R54, R57, R58). -/
def FloatFmt.round (t : FloatFmt) (rm : Nat) (sat : Bool) (x : Fp) : Nat :=
  match x with
  | .nan => t.qnan
  | .inf n =>
    match t.top with
    | .ieee => t.infCode n
    | .e4m3 => if sat then t.maxCode n else t.qnan
    | .finite => t.maxCode n
  | .fin n m e =>
    if m = 0 then t.code n 0 0
    else
      let (q, unit) := t.rounded rm n m e
      if q < 2 ^ t.mbits then t.code n 0 q
      else
        let (q, unit) := if q = 2 ^ (t.mbits + 1) then (2 ^ t.mbits, unit + 1) else (q, unit)
        let expo := (unit + t.mbits + t.bias).toNat
        let c := t.code n expo (q - 2 ^ t.mbits)
        if expo ≥ 2 ^ t.ebits ∨ t.maxCode n < c then t.overflow rm sat n else c

/-! ### Integers and half steps -/

/-- The integer nearest to a finite value in mode `rm`. -/
def roundInt (rm : Nat) (x : Fp) : Int :=
  match x with
  | .fin n m e =>
    let k : Nat := if 0 ≤ e then scaled m e 0 else roundShift rm n m (-e).toNat
    if n then -(k : Int) else k
  | _ => 0

/-- A non-integer value converted into an integer format (R56, R57). -/
def toInteger (w : Nat) (unsigned : Bool) (rm : Nat) (x : Fp) : Nat :=
  match x with
  | .nan => 0
  | .inf n =>
    if unsigned then (if n then 0 else 2 ^ w - 1) else wrapInt w (if n then -2 ^ (w - 1) else 2 ^ (w - 1) - 1)
  | x => fit w unsigned true (roundInt rm x)

/-- The value n + 1/2 of a half-step code of w bits (R50). -/
def halfStep (w raw : Nat) : Fp :=
  let t := 2 * signed w (raw % 2 ^ w) + 1
  .fin (t < 0) t.natAbs (-1)

/-- floor and ceiling of x − 1/2. -/
def lessHalf (up : Bool) (x : Fp) : Int :=
  roundInt (if up then 2 else 3) (sumExact 0 [x, .fin true 1 (-1)])

/-- Conversion into a half-step format of w bits (R55, R57). -/
def toHalfStep (w rm : Nat) (x : Fp) : Nat :=
  let top : Int := 2 ^ (w - 1) - 1
  let n : Int :=
    match x with
    | .nan => 0
    | .inf neg => if neg then -top - 1 else top
    | .fin neg m e =>
      if rm = 2 then lessHalf true x
      else if rm = 3 then lessHalf false x
      else
        let mag : Int := if rm = 0 then roundInt 1 (.fin false m e) else max 0 (lessHalf false (.fin false m e))
        if neg then -mag - 1 else mag
  wrapInt w (max (-top - 1) (min top n))

/-! ### Element encodings by code (R46) -/

/-- The integer formats: width and signedness of codes 10 to 13. -/
def intFmt (code : Nat) : Nat × Bool :=
  match code with
  | 10 => (8, false)
  | 11 => (8, true)
  | 12 => (4, false)
  | _ => (4, true)

def isIntCode (code : Nat) : Bool := 10 ≤ code && code ≤ 13

def intValue (code raw : Nat) : Int :=
  let (w, u) := intFmt code
  if u then (raw % 2 ^ w : Nat) else signed w (raw % 2 ^ w)

/-- An integer as an exact value. -/
def ofInt (x : Int) : Fp := .fin (x < 0) x.natAbs 0

/-- The exact value of an element code (R47 to R50). -/
def valueOf (code raw : Nat) : Fp :=
  if code ≤ 9 then (floatFmt code).value raw
  else if isIntCode code then ofInt (intValue code raw)
  else halfStep (if code = 14 then 4 else 2) raw

/-- An exact non-integer value converted into an element encoding (R54 to R57). -/
def convert (code rm : Nat) (sat : Bool) (x : Fp) : Nat :=
  if code ≤ 9 then (floatFmt code).round rm sat x
  else if isIntCode code then toInteger (intFmt code).1 (intFmt code).2 rm x
  else toHalfStep (if code = 14 then 4 else 2) rm x

/-- FMIN and FMAX on codes (R130). -/
def pickCode (t : FloatFmt) (greater : Bool) (a b : Nat) : Nat :=
  let x := t.value a
  let y := t.value b
  match x.isNan, y.isNan with
  | true, true => t.qnan
  | true, false => b
  | false, true => a
  | false, false => if greater then (if x.lt y then b else a) else if y.lt x then b else a

/-- The rounded sum of two codes (R129). -/
def addCodes (t : FloatFmt) (rm : Nat) (sat : Bool) (a b : Nat) : Nat := t.round rm sat (sumExact rm [t.value a, t.value b])

/-! ### Atomics (R198) -/

/-- The floating format of an atomic (R198). -/
def atomFmt (width : Width) : FloatFmt :=
  match width with
  | .d => f64Fmt
  | .w => f32Fmt
  | _ => h16Fmt

/-- The new value of an atomic from the old one and the operand (R198). -/
def atomValue (t : Nat) (width : Width) (o b : Nat) : Nat :=
  let w := width.bits
  match t with
  | 0 => (o + b) % 2 ^ w
  | 1 => if signed w b < signed w o then b else o
  | 2 => if signed w o < signed w b then b else o
  | 3 => min o b
  | 4 => max o b
  | 5 => o &&& b
  | 6 => o ||| b
  | 7 => o ^^^ b
  | 8 => b
  | 9 => addCodes (atomFmt width) 0 false o b
  | 10 => pickCode (atomFmt width) false o b
  | _ => pickCode (atomFmt width) true o b

end Sys2Proof.Machine
end

