-- ==== Sys2Proof/Machine/Replay.lean ====
section
/-! DEFINITION. What a page allows and what a write to it leaves behind (R189, R400, R416, R427, R434), and the side log's replay,
which follows every walk that succeeds (R317, R328, R329). -/

namespace Sys2Proof.Machine

/-! ### Pages -/

/-- What an access needs of its page. -/
inductive Need where
  | read | write | update | watch
  deriving DecidableEq, Repr

def Need.reads : Need → Bool
  | .write => false
  | _ => true

def Need.writes : Need → Bool
  | .write => true
  | .update => true
  | _ => false

/-- Bytes of the page lie in a memory of this module or its CXL devices. -/
def Translation.stored (t : Translation) (pa : Nat) : Bool :=
  !t.remote &&
    match paKind pa with
    | .hbm | .cxl _ => true
    | _ => false

/-- The peer window that holds a physical address is open (R416). -/
def State.windowOpen (s : State) (port pa n : Nat) : Bool :=
  let off := bits pa 43 0
  let w := (Map.at s.outWin (0, 0) (port * 16 + off / 2 ^ 40)).2.toNat
  off / 2 ^ 40 < 16 && bit w 0 && off % 2 ^ 40 + n ≤ bits w 39 16 * 65536

/-- The page permits the access (R189, R416). -/
def State.permits (s : State) (t : Translation) (need : Need) (pa n : Nat) : Bool :=
  (t.canRead || !need.reads) && (t.canWrite || !need.writes) &&
    (t.remote ||
      match paKind pa with
      | .pcie port => (need == .read || need == .write) && s.windowOpen port pa n
      | .none_ | .frameTable => false
      | _ => true)

/-- The frames of a function's pool that can take a page: they lie in the HBM of its partition, and neither another tenant nor a
scrub holds them (R6, R395, R399). -/
def State.poolFrames (s : State) (fn : Nat) : List Nat :=
  (s.fn fn).pool.filter fun k => s.ownsFrame fn k && !(s.frame k).refuses (s.fn fn).tenant

/-- An access to a page of another module that moves the page here first (R400): it stalls until the page has come. -/
def State.movesFor (s : State) (fn : Nat) (t : Translation) : Bool :=
  t.remote && t.size == 65536 && !(s.poolFrames fn).isEmpty && (Map.find (s.fn fn).unmoved t.page).isNone &&
    !bit (Memory.readNat s.mem t.leaf 8) 58

/-- An access has been performed at a home that keeps the page: the next one asks anew (R400). -/
def State.answered (s : State) (fn : Nat) (t : Translation) : State :=
  if t.remote && (Map.find (s.fn fn).unmoved t.page).isSome then
    s.changeFn fn fun f => { f with unmoved := Map.put f.unmoved t.page true }
  else s

/-- Free values as bytes, eight to each: what the manual leaves open. -/
def State.freeBytes (s : State) : Nat → List Byte × State
  | 0 => ([], s)
  | n + 1 =>
    let (x, s) := s.free
    let (bs, s) := s.freeBytes n
    (bytesOfNat 8 x.toNat ++ bs, s)

/-- Bytes that come from outside the module: a fresh free value for each read (R416, R418). -/
def State.outsideRead (s : State) (n : Nat) : List Byte × State :=
  let (bs, s) := s.freeBytes ((n + 7) / 8)
  (bs.take n, s)

/-- A page of a function written, while its pages are tracked (R464). -/
def State.track (s : State) (fn page : Nat) : State :=
  match (s.fn fn).mig with
  | some m => s.changeFn fn fun f => { f with mig := some { m with dirty := setAdd m.dirty page } }
  | none => s

/-- The bytes of a partition's snapshot pool that the launches of its contexts hold (R434). -/
def State.poolUsed (s : State) (part : Nat) : Nat :=
  ((s.slices.filter fun x => (s.fn x.2.fn).part = part).map fun x => x.2.snapPages.length).sum * 65536

/-- The first write to a page of a launch's write regions copies it into a frame of the snapshot pool; where the pool has none,
the launch becomes irrevocable (R434). -/
def State.snapPage (s : State) (n page frame : Nat) : State :=
  let l := s.slice n
  let inRegions := l.subs.any fun n =>
    (s.sub n).footprint.any fun r => r.write && r.base < page + 65536 && page < r.base + r.bytes
  if !inRegions || l.irrevocable || l.snapPages.contains frame then s
  else
    let part := (s.fn l.fn).part
    let inFrame := fun a => frame ≤ a && a < frame + 65536
    s.changeSlice n fun l =>
      if ((s.part part).reg regSnapPool).toNat < s.poolUsed part + 65536 then { l with irrevocable := true }
      else
        { l with
          snapPages := l.snapPages ++ [frame]
          snapPoison := l.snapPoison ++ s.poison.filter fun ln => inFrame (ln * 128)
          snapshot := l.snapshot ++ s.mem.filter fun c => inFrame c.1 }

/-- The launches of the function that owns a frame copy it before a write of anyone else (R434): the frame table names the page
that it holds (R395; log entry 124). -/
def State.snapFrame (s : State) (frame : Nat) : State :=
  let f := s.frame (frame / 65536)
  ((s.slices.filter fun l =>
    l.2.fn = f.ownFn && (l.2.state == .dispatched || l.2.state == .running || l.2.state == .held || l.2.state == .preempted)).map
      Prod.fst).foldl (fun (s : State) n => s.snapPage n f.va frame) s

/-- A context's write that is performed: its page is dirty for the next cut (R427), and a page of a launch's write regions is
copied before its first write (R434). -/
def State.noteDirty (s : State) (slice : Nat) (t : Translation) (va : Nat) : State :=
  let page := pageOf va
  let frame := t.pa va / 65536 * 65536
  if t.remote || paKind (t.pa va) != .hbm then s.changeSlice slice fun l => { l with irrevocable := true }
  else ((s.snapPage slice page frame).snapFrame frame).changeSlice slice fun l => { l with dirtyPages := setAdd l.dirtyPages page }

/-- A write of a context to a page, which is issued and performed at once: its function's pages may be tracked (R464). -/
def State.noteWrite (s : State) (slice : Nat) (t : Translation) (va : Nat) : State :=
  (s.track (s.slice slice).fn (pageOf va)).noteDirty slice t va

/-- The port and the bus address of a physical address of the peer region: word 0 of its window, and the offset in it (R416). -/
def State.busAddress (s : State) (pa : Nat) : Nat × Nat :=
  let port := bits pa 45 44
  (port, (Map.at s.outWin (0, 0) (port * 16 + bits pa 43 40)).1.toNat + pa % 2 ^ 40)

/-- Bytes sent out of the module by a store: over Twill to another module (R400), where the monitors of this one observe it
(log entry 120), or a posted write (R416). -/
def State.sendOut (s : State) (t : Translation) (va : Nat) (bytes : List Byte) : State :=
  if t.remote then ({ s with sent := s.sent ++ [(t.pa va, bytes)] }).observe (fun _ => true) (t.pa va) bytes.length
  else
    let (port, bus) := s.busAddress (t.pa va)
    { s with posted := s.posted ++ [(port, bus, bytes)] }

/-! ### Replay -/

/-- An entry fails: it is removed, reported, and kept for the writing threads to learn of (R329). -/
def State.failEntry (s : State) (c : Nat) (e : SideEntry) (cause : Byte) : State :=
  let g := (s.team e.team).gang
  let r : RecordFields :=
    { kind := 3, cause := cause, flags := flagWrite, weave := e.weave % 64, core := c, team := (s.team e.team).teamId
      lanes := e.lanes.toNat, addr := e.addr, pc := e.pc.toNat, gang := (s.gang g).gangId }
  let s := (s.post (s.forSlice e.slice r)).changeCore c fun k => { k with sideLog := k.sideLog.erase e }
  let s := s.changeGang g fun k => { k with saved := k.saved.map fun x => { x with side := x.side.erase e } }
  e.members.foldl
    (fun (s : State) x => s.changeWeave x.1 fun w => { w with failures := w.failures ++ [(cause, e.addr, x.2)] }) s

/-- The bytes an entry touches. -/
def SideEntry.range (e : SideEntry) : List Nat :=
  match e.op with
  | .store bytes => bytes.map Prod.fst
  | .reduce va width _ _ => span va (width.bits / 8)

/-- An entry performed at the home L2, a releasing one behind every RC line that is dirty in the L1 (R310, R314). Its page was
tracked when it was issued (R464). -/
def State.performEntry (s : State) (c : Nat) (t : Translation) (e : SideEntry) : State :=
  let s := s.changeCore c fun k => { k with sideLog := k.sideLog.erase e }
  let s := if e.release then s.releaseEagerly c else s
  let put := fun (s : State) (va : Nat) (bs : List Byte) =>
    let s := s.noteDirty e.slice t va
    if t.stored (t.pa va) then s.homeWrite (some c) (t.pa va) bs else s.sendOut t va bs
  match e.op with
  | .store bytes => bytes.foldl (fun (s : State) (b : Nat × Byte) => put s b.1 [b.2]) s
  | .reduce va width op operand =>
    let n := width.bits / 8
    let s := (linesOf (t.pa va) n).foldl (fun (s : State) ln => if (Map.find (s.core c).l1 ln).isSome then s.evict c ln else s) s
    let (old, s) := if t.stored (t.pa va) then s.homeRead (some c) (t.pa va) n else s.outsideRead n
    put s va (bytesOfNat n (atomValue op.toNat width (natOfBytes old) operand.toNat))

/-- What a walk of its page comes to for an entry: performed, failed, or left where it stands: a page that has to move here
first, or a failure whose report finds no room (R326). -/
def State.replayEntry (s : State) (c : Nat) (e : SideEntry) (x : Found) : Option State :=
  let fails := fun (cause : Byte) =>
    let t := s.failEntry c e cause
    if t.reportsFit then some t else none
  match x with
  | .missing _ => none
  | .refused => fails causeAccessViolation
  | .poison _ => fails causePoison
  | .page t =>
    let need : Need := match e.op with
      | .store _ => .write
      | .reduce _ _ _ _ => .update
    if !s.permits t need (t.pa e.addr) 1 then fails causeAccessViolation
    else if s.movesFor e.asid t then none
    else if t.stored (t.pa e.addr) && e.range.any fun va => s.poisoned (t.pa va) 1 then fails causePoison
    else some ((s.answered e.asid t).performEntry c t e)

/-- The entries of one page in log order; one that must stay holds the later ones. -/
def State.replayEntries (s : State) (c : Nat) (x : Found) : List SideEntry → State
  | [] => s
  | e :: rest =>
    match s.replayEntry c e x with
    | some s => s.replayEntries c x rest
    | none => s

/-- The pending entries of a page of a space. -/
def Core.pendingOn (k : Core) (asid page : Nat) : List SideEntry := k.sideLog.filter fun e => e.asid = asid && e.page = page

/-- The pages of a space with pending entries that a walk of an address tells about. -/
def Core.pendingPages (k : Core) (asid va : Nat) (x : Found) : List Nat :=
  (((k.sideLog.filter fun e => e.asid = asid).map fun e => e.page).eraseDups).filter fun p =>
    match x with
    | .page t => t.covers asid p
    | _ => p = pageOf va

/-- Replay follows a walk of a page at once (R328). -/
def State.replayAfter (s : State) (c asid va : Nat) (x : Found) : State :=
  ((s.core c).pendingPages asid va x).foldl (fun s p => s.replayEntries c x ((s.core c).pendingOn asid p)) s

/-- A translation looked up for an access of a core, behind the replay of what the core has logged for the page (R317). -/
def State.reach (s : State) (w : Walker) (va : Nat) : Found × State :=
  let (x, s) := s.lookup w va
  (x, if w.cached then s.replayAfter w.core w.asid (va % 2 ^ 56) x else s)

/-- Stores of a space to a page still stand in the side log of a walker's core: a later access waits for them (R328). -/
def State.logged (s : State) (w : Walker) (va : Nat) : Bool :=
  w.cached && !((s.core w.core).pendingOn w.asid (pageOf va)).isEmpty

end Sys2Proof.Machine
end

