-- ==== Sys2Proof/Machine/Access.lean ====
section
/-! DEFINITION. One access after another: the order of checks of R189, missing translations (R190), and reading and
writing one element at its place (R193, R304 to R317, R416). -/

namespace Sys2Proof.Machine

/-! ### Lanes -/

/-- The lanes of a mask, lowest first. -/
def lanesOf (m : Mask) : List Nat := (List.range 32).filter fun l => m.getLsbD l

/-- The mask of one lane. -/
def laneBit (l : Nat) : Mask := BitVec.twoPow 32 l

/-- The mask of the lanes of a list. -/
def maskOf (lanes : List Nat) : Mask := lanes.foldl (fun m l => m ||| laneBit l) 0

/-! ### Trap requests -/

/-- A trap raised in one weave. -/
structure TrapReq where
  weave : Nat
  cause : Byte
  addr : Word64
  lanes : Mask
  deriving DecidableEq, Repr

/-- A failing place of an access: the weave, the lane that decides which is lowest, the lanes that fail with it, and the
address reported. -/
structure Failure where
  weave : Nat
  lane : Nat
  lanes : Mask
  addr : Nat
  deriving DecidableEq, Repr

/-- The failing accesses of one check as traps: each weave reports its failing lanes and the first failing byte of the
lowest of them (R189). Of an address beyond 64 bits TRAPADDR holds the low ones (log entry 79). -/
def trapsOf (cause : Byte) (fails : List Failure) : List TrapReq :=
  ((fails.map (·.weave)).eraseDups).map fun u =>
    let mine := fails.filter fun x => x.weave = u
    let low := leastBy (·.lane) mine
    { weave := u, cause := cause, addr := BitVec.ofNat 64 ((low.map (·.addr)).getD 0)
      lanes := mine.foldl (fun m x => m ||| x.lanes) 0 }

/-! ### Accesses -/

/-- One element that an instruction names. -/
structure Access where
  weave : Nat
  lane : Nat
  /-- the lanes it reports: its own, or the weave's active lanes in the scalar form -/
  lanes : Mask
  addr : Nat
  bytes : Nat
  deriving DecidableEq, Repr

/-- Where a checked access is performed. -/
inductive Place where
  | cell (a : Nat)
  | page (t : Translation) (va : Nat)
  /-- a store to a missing RC or UO page, which the side log takes (R190) -/
  | logged (va : Nat)
  deriving DecidableEq, Repr

/-- The outcome of the checks of R189. -/
inductive Checked where
  | pass (s : State) (places : List (Access × Place))
  | trap (s : State) (reqs : List TrapReq)
  | stall

/-- What check 4 says of one access. -/
inductive Global where
  | ok (p : Place)
  | missing
  | violation
  | poison (pa : Nat)
  | wait
  deriving DecidableEq, Repr

/-- The last-page register of a thread slot takes a translation (R323). -/
def State.notePage (s : State) (u l : Nat) (t : Translation) : State :=
  s.changeWeave u fun w => { w with lastPage := Map.put w.lastPage l t }

/-- A translation that no last-page register gives. -/
def State.translateAnew (s : State) (e : Site) (u l va : Nat) : Found × State :=
  match s.reach e.walker va with
  | (.page t, s) => (.page t, s.notePage u l t)
  | other => other

/-- The translation of a .g access of a thread (R323): its own last one where that covers the address, else the core's. -/
def State.translate (s : State) (e : Site) (u l va : Nat) : Found × State :=
  match Map.find (s.weave u).lastPage l with
  | some t =>
    if t.covers e.asid va then (.page t, s.replayAfter e.core e.asid va (.page t)) else s.translateAnew e u l va
  | none => s.translateAnew e u l va

/-- The module whose page a leaf maps: bits 51 to 42 of the frame (R392). -/
def Translation.module (t : Translation) : Nat := bits t.frame 51 42

/-- The lane waits on a module in recovery, and the page is that module's (R418, R451). -/
def Weave.awaits (w : Weave) (l : Nat) (t : Translation) : Bool :=
  t.remote && (Map.find w.recovering l).map Prod.snd == some t.module

/-- Check 4 of R189 for one access. -/
def State.checkGlobal (s : State) (e : Site) (need : Need) (loggable : Bool) (x : Access) : Global × State :=
  let va := x.addr % 2 ^ 56
  match s.translate e x.weave x.lane va with
  | (.poison pa, s) => (.poison pa, s)
  | (.refused, s) => (.violation, s)
  | (.missing attr, s) =>
    if s.logged e.walker va then (.wait, s)
    else if loggable && need.writes && (attr == some 1 || attr == some 2) then (.ok (.logged va), s)
    else (.missing, s)
  | (.page t, s) =>
    if !s.permits t need (t.pa va) x.bytes then (.violation, s)
    else if s.movesFor e.asid t || (s.weave x.weave).awaits x.lane t || s.logged e.walker va then (.wait, s)
    else (.ok (.page t va), s.answered e.asid t)

/-- Check 4 for each access in turn. -/
def State.checkGlobals (s : State) (e : Site) (need : Need) (loggable : Bool) : List Access → List (Access × Global) × State
  | [] => ([], s)
  | x :: rest =>
    let (r, s) := s.checkGlobal e need loggable x
    let (rs, s) := s.checkGlobals e need loggable rest
    ((x, r) :: rs, s)

/-- One page request for each distinct missing page (R324). -/
def State.requestPages (s : State) (e : Site) (need : Need) (pc : Slot) (missing : List Access) : State :=
  (((missing.map fun x => pageOf x.addr).eraseDups)).foldl
    (fun s page =>
      let mine := missing.filter fun x => pageOf x.addr == page
      match mine with
      | [] => s
      | x :: _ =>
        s.requestPage e.walker
          { kind := 1, cause := 0x0A, flags := if need.writes then flagWrite else 0, weave := (s.weave x.weave).weaveId
            team := (s.team e.team).teamId
            lanes := ((mine.filter fun y => y.weave == x.weave).foldl (fun m y => m ||| y.lanes) (0 : Mask)).toNat
            addr := x.addr % 2 ^ 56, pc := pc.toNat, gang := (s.gang e.gang).gangId })
    s

/-- The first byte of an access outside an allocation. -/
def Access.outside (x : Access) (limit : Nat) : Option Failure :=
  if x.addr + x.bytes ≤ limit then none else some ⟨x.weave, x.lane, x.lanes, max x.addr limit⟩

def failuresOf (accs : List Access) (bad : Access → Option Nat) : List Failure :=
  accs.filterMap fun x => (bad x).map fun a => ⟨x.weave, x.lane, x.lanes, a⟩

/-- The poisoned bytes that the accesses would consume (R440): all for reads, lines written into for stores. -/
def State.poisonOf (s : State) (core : Nat) (places : List (Access × Place)) : List Failure :=
  places.filterMap fun (x, p) =>
    match p with
    | .cell a => (s.firstPoison a x.bytes).map fun b => ⟨x.weave, x.lane, x.lanes, x.addr + (b - a)⟩
    | .page t va =>
      if t.remote then none
      else (s.poisonAtCore core (t.pa va) x.bytes).map fun b => ⟨x.weave, x.lane, x.lanes, va + (b - t.pa va)⟩
    | .logged _ => none

/-- Checks 1 to 3 of R189. -/
def State.checkOffsets (s : State) (e : Site) (space align : Nat) (accs : List Access) : List TrapReq :=
  let crooked := failuresOf accs fun x => if x.addr % align = 0 then none else some x.addr
  if !crooked.isEmpty then trapsOf causeMisaligned crooked
  else
    let limit := s.spaceBytes e space
    let out := if space = spaceG then [] else accs.filterMap fun x => x.outside limit
    if !out.isEmpty then trapsOf (if space = spaceL then causeStackBounds else causeScratchBounds) out
    else if space = spaceC then
      trapsOf causeNotMember (failuresOf accs fun x => if (s.contribution e x.addr).isSome then none else some x.addr)
    else []

/-- The comparison of accesses to a space with landing copies (R191, R289, R297): whether they must wait, and what of them
lies beyond the frozen point of a failed copy. -/
def State.compared (s : State) (e : Site) (space : Nat) (reads : Bool) (accs : List Access) : Bool × List Failure :=
  if space = spaceL then (false, [])
  else
    (accs.any fun x => s.holds e.team space x.addr x.bytes,
      if reads then failuresOf accs fun x => s.failedByte e.team space x.addr x.bytes else [])

/-- The checks of R189 over the accesses of one instruction, then, where they are of the kinds that R289 lists, the comparison
with landing copies (R191), then poison (R440). No rule orders a poisoned table entry that one lane's walk meets against the
failed check of another lane; POISON_CONSUMED is taken first (log entry 73). An access that waits with pages missing that the
side log would take has asked for them: it is withdrawn, with no trap (R324). -/
def State.checkListed (s : State) (listed : Bool) (e : Site) (space align : Nat) (need : Need) (loggable : Bool) (pc : Slot)
    (accs : List Access) : Checked :=
  match s.checkOffsets e space align accs with
  | q :: qs => .trap s (q :: qs)
  | [] =>
    if space = spaceG then
      let (rs, s) := s.checkGlobals e need loggable accs
      let missing := (rs.filter fun r => r.2 == .missing).map Prod.fst
      let logged := (rs.filter fun r =>
        match r.2 with
        | .ok (.logged _) => true
        | _ => false).map Prod.fst
      let s := s.requestPages e need pc (missing ++ logged)
      let toxic := rs.filterMap fun r =>
        match r.2 with
        | .poison pa => some ⟨r.1.weave, r.1.lane, r.1.lanes, pa⟩
        | _ => none
      let violating := (rs.filter fun r => r.2 == .violation).map Prod.fst
      if !toxic.isEmpty then .trap s (trapsOf causePoison toxic)
      else if !violating.isEmpty then .trap s (trapsOf causeAccessViolation (failuresOf violating fun x => some (x.addr % 2 ^ 56)))
      else if !missing.isEmpty then .trap s (trapsOf causePageFault (failuresOf missing fun x => some (x.addr % 2 ^ 56)))
      else if rs.any fun r => r.2 == .wait then (if logged.isEmpty then .stall else .trap s [])
      else
        let places := rs.filterMap fun r =>
          match r.2 with
          | .ok p => some (r.1, p)
          | _ => none
        match trapsOf causePoison (s.poisonOf e.core places) with
        | [] => .pass s places
        | q :: qs => .trap s (q :: qs)
    else
      let places := accs.map fun x => (x, Place.cell (s.cellOf e x.weave x.lane space x.addr))
      match if listed then s.compared e space (need.reads && !loggable) accs else (false, []) with
      | (true, _) => .stall
      | (false, x :: xs) => .trap s (trapsOf causeCopyFailed (x :: xs))
      | (false, []) =>
        if accs.any fun x => s.cellsClaimed (s.cellOf e x.weave x.lane space x.addr) x.bytes then .stall
        else match trapsOf causePoison (s.poisonOf e.core places) with
        | [] => .pass s places
        | q :: qs => .trap s (q :: qs)

/-- The checks of an instruction of R191. -/
def State.checkAccesses (s : State) (e : Site) (space align : Nat) (need : Need) (loggable : Bool) (pc : Slot)
    (accs : List Access) : Checked := s.checkListed true e space align need loggable pc accs

/-! ### Scope -/

/-- The scope an operation has on a space: no wider than the agents that reach it (R185, R278 to R284). -/
def scopeOn (space scope : Nat) : Nat :=
  if space = spaceL then 6 else if space = spaceS then max scope 4 else if space = spaceC then max scope 3
  else if space = spaceX then max scope 1 else scope

/-- The scope reaches beyond one core's team (codes .sys, .part, .die and .group, R185). -/
def wideScope (scope : Nat) : Bool := scope ≤ 3

/-! ### One element -/

/-- The ordering attribute codes of R392. -/
def attrSo : BitVec 2 := 0
def attrUo : BitVec 2 := 2

/-- How an element is read or written. -/
structure How where
  stream : Bool := false
  acquire : Bool := false
  release : Bool := false
  scope : Nat := 0
  deriving DecidableEq, Repr

/-- The bytes of an element of a page, read by a thread of core `c` (R304, R307, R315, R316). -/
def State.loadPage (s : State) (c : Nat) (t : Translation) (va n : Nat) (h : How) : List Byte × State :=
  let pa := t.pa va
  if t.remote then s.outsideRead n
  else
    match paKind pa with
    | .hbm =>
      let present := Map.find (s.core c).l1 (lineOf pa)
      let dirty := (present.map fun l => !l.dirty.isEmpty).getD false
      if t.attr == attrSo then
        let s := if present.isSome then s.evict c (lineOf pa) else s
        s.homeRead (some c) pa n
      else if h.acquire && wideScope h.scope && !dirty then
        let s := if present.isSome then s.evict c (lineOf pa) else s
        s.homeRead (some c) pa n
      else if h.stream && present.isNone then s.homeRead (some c) pa n
      else s.l1Read c pa n (t.attr == attrUo)
    | .cxl _ => s.homeRead (some c) pa n
    | _ => s.outsideRead n

/-- What an acquire does once its variable is read (R315). -/
def State.acquired (s : State) (c : Nat) (h : How) : State :=
  if h.acquire && wideScope h.scope then s.discardClean c false else s

/-- The bytes of an element written to a page by a thread of a team (R304, R307, R314). -/
def State.storePage (s : State) (e : Site) (t : Translation) (va : Nat) (bytes : List Byte) (h : How) : State :=
  let c := e.core
  let pa := t.pa va
  let s := s.noteWrite e.slice t va
  let so := t.attr == attrSo
  let present := (Map.find (s.core c).l1 (lineOf pa)).isSome
  let inL1 := !t.remote && paKind pa == .hbm && !so && (present || !h.stream)
  let releases := (h.release && wideScope h.scope) || so
  let lazy := releases && inL1 && t.attr != attrUo
  let s := if releases && !lazy then s.releaseEagerly c else s
  let s := if lazy then s.recordRelease c (lineOf pa) else s
  if inL1 then s.l1Write c pa bytes (t.attr == attrUo) e.team
  else if t.remote then s.sendOut t va bytes
  else
    match paKind pa with
    | .pcie _ => s.sendOut t va bytes
    | _ => s.homeWrite (some c) pa bytes

/-- The bytes of an element at its place. -/
def State.readPlace (s : State) (e : Site) (x : Access) (p : Place) (h : How) : List Byte × State :=
  match p with
  | .cell a => (Memory.readBytes s.mem a x.bytes, s)
  | .page t va => s.loadPage e.core t va x.bytes h
  | .logged _ => (List.replicate x.bytes 0, s)

/-- The bytes of an element written at its place; a logged element has no place yet. -/
def State.writePlace (s : State) (e : Site) (p : Place) (bytes : List Byte) (h : How) : State :=
  match p with
  | .cell a =>
    let s := if h.release && wideScope h.scope then s.releaseEagerly e.core else s
    s.putOnChip a bytes
  | .page t va => s.storePage e t va bytes h
  | .logged _ => s

end Sys2Proof.Machine
end

