-- ==== Sys2Proof/Machine/Ops.lean ====
section
/-! DEFINITION. The shared operations of the meanings: registers, issue groups, the outcome of an instruction, taking a trap
and returning from one. -/

namespace Sys2Proof.Machine

/-! ### Registers (R16 to R19, R39, R42) -/

/-- The value of a lane of a v register, whoever holds it. -/
def Weave.lane (w : Weave) (n l : Nat) : Word64 := (Map.at w.v [] n).getD l 0

/-- `vread`: zero in a vacant lane (R16). -/
def Weave.vread (w : Weave) (n l : Nat) : Word64 := if w.live.getLsbD l then w.lane n l else 0

/-- The lanes of a register after a write to the lanes of `m`; vacant lanes become zero (R39). -/
def Weave.merged (w : Weave) (n : Nat) (m : Mask) (val : Nat → Word64) : Lanes :=
  (List.range 32).map fun l => if m.getLsbD l then val l else w.vread n l

/-- `vwrite`: a write to the lanes of `m`. The register is dirty and no longer dead, and a full write ends its poison (R39,
R40, R441). -/
def Weave.vwrite (w : Weave) (n : Nat) (m : Mask) (val : Nat → Word64) : Weave :=
  let m := m &&& w.live
  if m = 0 then w
  else
    { w with
      v := Map.put w.v n (w.merged n m val)
      dirtyV := setAdd w.dirtyV n
      savedV := setAdd w.savedV n
      dead := setDrop w.dead n
      poisonV := if m = w.live then setDrop w.poisonV n else w.poisonV }

/-- `sread`. -/
def Weave.sread (w : Weave) (n : Nat) : Word64 := Map.at w.s 0 n

/-- `swrite`. -/
def Weave.swrite (w : Weave) (n : Nat) (x : Word64) : Weave :=
  { w with s := Map.put w.s n x, dirtyS := true, poisonS := setDrop w.poisonS n }

/-- The mask of a predicate over the home lanes; p7 reads 1 (R17). -/
def Weave.pred (w : Weave) (n : Nat) : Mask := if n = 7 then BitVec.allOnes 32 else Map.at w.p 0 n

/-- `pread`: zero in a vacant lane (R16). -/
def Weave.pread (w : Weave) (n l : Nat) : Bool := w.live.getLsbD l && (w.pred n).getLsbD l

/-- `pwrite` to the lanes of `m`; writes to p7 are discarded (R17). -/
def Weave.pwrite (w : Weave) (n : Nat) (m : Mask) (val : Nat → Bool) : Weave :=
  if n = 7 then w
  else
    { w with
      p := Map.put w.p n ((w.pred n &&& ~~~(m &&& w.live)) ||| (m &&& w.live &&& maskOf ((List.range 32).filter val)))
      dirtyP := true }

/-- The lanes whose guard holds (R17, R42). -/
def Weave.guarded (w : Weave) (f : Fields) : Mask := if f.neg then ~~~(w.pred f.guard.toNat) else w.pred f.guard.toNat

/-- `amask`: the active lanes among the weave's lanes in the issue group (R42). -/
def Weave.active (w : Weave) (f : Fields) (m : Mask) : Mask := m &&& w.live &&& w.guarded f

/-- `opnd` (R42): a lane's value of an operand. -/
def Weave.opnd (w : Weave) (f : Fields) (o : Operand) (l : Nat) : Word64 :=
  match o with
  | .v n => w.vread n.toNat l
  | .s n => w.sread n.toNat
  | .p n => if w.pread n.toNat l then 1 else 0
  | .imm => f.imm.signExtend 64
  | _ => 0

/-- A write to a destination of the v or p class in the lanes of `m`, or to an s register once; ZERO discards (R76). -/
def Weave.dest (w : Weave) (o : Operand) (m : Mask) (val : Nat → Word64) (once : Word64) : Weave :=
  match o with
  | .v n => w.vwrite n.toNat m val
  | .s n => if m = 0 then w else w.swrite n.toNat once
  | .p n => w.pwrite n.toNat m fun l => (val l).getLsbD 0
  | _ => w

/-- A write to the run of `n` registers that D begins; ZERO discards (R76, R194, R251). -/
def Weave.destBlock (w : Weave) (o : Operand) (n : Nat) (m : Mask) (val : Nat → Nat → Word64) : Weave :=
  match o with
  | .v b => (List.range n).foldl (fun w j => w.vwrite (b.toNat + j) m (val j)) w
  | _ => w

/-- A result common to the weave, written to every active lane or once (R204). -/
def Weave.give (w : Weave) (o : Operand) (m : Mask) (x : Word64) : Weave := w.dest o m (fun _ => x) x

/-! ### Issue groups -/

/-- The lanes of a weave that stand in a group. -/
def Group.lanes (g : Group) (u : Nat) : Mask := Map.at g.members 0 u

/-- The weaves of a group. -/
def Group.weaves (g : Group) : List Nat := g.members.map Prod.fst

/-- The team of a group; its weaves all belong to one (R263). -/
def Group.team (g : Group) : Nat := (g.weaves.map teamOfWeave).headD 0

/-- The group at another slot. -/
def Group.at_ (g : Group) (pc : Slot) : Group := { members := g.members, pc := pc }

/-- The group at the next slot (R163). -/
def Group.next (g : Group) : List Group := [g.at_ (g.pc + 1)]

/-- Every weave of a group changed, knowing its lanes in the group. -/
def State.eachWeave (s : State) (g : Group) (change : Nat → Mask → Weave → Weave) : State :=
  { s with weaves := s.weaves.map fun e =>
      (e.1, match Map.find g.members e.1 with
            | some m => change e.1 m e.2
            | none => e.2) }

/-- The active lanes of a weave of a group. -/
def State.active (s : State) (g : Group) (f : Fields) (u : Nat) : Mask := (s.weave u).active f (g.lanes u)

/-- The weaves of a group that have an active lane, lowest WEAVEID first (R19). -/
def State.represented (s : State) (g : Group) (f : Fields) : List Nat :=
  g.weaves.filter fun u => s.active g f u != 0

/-- The group has an active thread. -/
def State.anyActive (s : State) (g : Group) (f : Fields) : Bool := !(s.represented g f).isEmpty

/-- The active lanes of a group, in THREADID order. -/
def State.activeLanes (s : State) (g : Group) (f : Fields) : List (Nat × Nat) :=
  g.members.flatMap fun e => (lanesOf ((s.weave e.1).active f e.2)).map fun l => (e.1, l)

/-- The lanes of a group split by next slot: one group for each slot, in order of their first thread (R163). -/
def Group.split (g : Group) (next : Nat → Nat → Slot) : List Group :=
  let all := g.members.flatMap fun e => (lanesOf e.2).map fun l => (e.1, l)
  let slots := (all.map fun t => next t.1 t.2).eraseDups
  slots.map fun pc =>
    { pc := pc
      members := (g.members.map fun e => (e.1, maskOf ((lanesOf e.2).filter fun l => next e.1 l == pc))).filter
        fun e => e.2 != 0 }

/-- A group without some of its lanes. -/
def Group.without (g : Group) (gone : Nat → Mask) : Group :=
  { g with members := (g.members.map fun e => (e.1, e.2 &&& ~~~(gone e.1))).filter fun e => e.2 != 0 }

/-! ### The outcome of one instruction -/

/-- What an instruction comes to, before the clock moves. `done`: it completes and its threads go on in the groups `next`.
`trap`: some of its weaves trap as `reqs` says, the others go on in `next`, at the instruction's own slot where it was
withdrawn or waits. `stall`: it is withdrawn whole and issues again later. -/
inductive Res where
  | done (s : State) (next : List Group)
  | trap (s : State) (reqs : List TrapReq) (next : List Group)
  | stall

/-! ### Taking a trap (R170, R332, R333, R335) -/

/-- Causes that the context's handler takes (R38). -/
def handlerClass (cause : Byte) : Bool := 1 ≤ cause.toNat && cause.toNat ≤ 0x12

/-- Causes that write the trap registers (R335). -/
def writesTrapRegisters (cause : Byte) : Bool :=
  handlerClass cause || cause == causePoison || cause == causeStackBounds

/-- The address of a wave's trap frame (R171). -/
def State.frameAddr (s : State) (u : Nat) : Nat :=
  let e := s.site (teamOfWeave u)
  (s.sub e.sub).fbase + 64 * ((s.team e.team).teamId * 128 + u % 128)

/-- The bytes of a trap frame (R172). -/
def frameBytes (w : Weave) (trapped held : Mask) (level : Bool) : List Byte :=
  bytesOfNat 8 w.trapPc.toNat ++ bytesOfNat 8 w.trapCause.toNat ++ bytesOfNat 8 w.trapAddr.toNat ++
    bytesOfNat 8 w.trapLanes.toNat ++ bytesOfNat 4 trapped.toNat ++ bytesOfNat 4 held.toNat ++
    [if level then 1 else 0] ++ [if w.shadow then 1 else 0] ++ List.replicate 22 0

/-- The record of a cause reported for a weave (R325, R335). -/
def State.causeRecord (s : State) (u : Nat) (cause : Byte) (pc : Slot) (addr : Word64) (lanes : Mask) (flags : Nat) :
    RecordFields :=
  let e := s.site (teamOfWeave u)
  s.forSlice e.slice
    { kind := 2, cause := cause, flags := flags, weave := (s.weave u).weaveId, core := e.core, team := (s.team e.team).teamId
      lanes := lanes.toNat, addr := addr.toNat, pc := pc.toNat, gang := (s.gang e.gang).gangId }

/-- The gang parked with the report that parked it (R335). A gang that is parked already keeps its first report, and
poison met by several of its weaves is reported once (R440). -/
def State.park (s : State) (u : Nat) (cause : Byte) (pc : Slot) (addr : Word64) (lanes : Mask) (flags : Nat) : State :=
  let g := (s.site (teamOfWeave u)).gang
  let first := (s.gang g).state != .parked
  let s := if first || cause != causePoison then s.post (s.causeRecord u cause pc addr lanes flags) else s
  if first then
    s.changeGang g fun k =>
      { k with state := .parked
               report := some ⟨cause, u, (s.team (teamOfWeave u)).teamId, some pc, addr, lanes, flags == flagFrame⟩ }
  else s

/-- The trap registers of a weave written together (R37). -/
def State.writeTrap (s : State) (u : Nat) (cause : Byte) (pc : Slot) (addr : Word64) (lanes : Mask) : State :=
  s.changeWeave u fun w => { w with trapCause := cause, trapPc := pc, trapAddr := addr, trapLanes := lanes }

/-- The lanes of a weave filed or grouped together: a group of them, if any. -/
def groupOf (u : Nat) (m : Mask) (pc : Slot) : List Group := if m = 0 then [] else [{ members := [(u, m)], pc := pc }]

/-- Step 3 of R170 can be performed: the page translates with W, the frame is aligned and its line is sound (R333). -/
def State.frameStore (s : State) (u : Nat) (bytes : List Byte) : Option State × State :=
  let e := s.site (teamOfWeave u)
  let va := s.frameAddr u % 2 ^ 56
  if va % 64 ≠ 0 then (none, s)
  else
    match s.reach e.walker va with
    | (.page t, s) =>
      if !s.permits t .write (t.pa va) 64 || s.poisoned (t.pa va) 64 then (none, s)
      else (some (s.storePage e t va bytes {}), s)
    | (_, s) => (none, s)

/-- The core has still to replay stores to the page of a wave's frame: the frame store waits for them (R317, R328). -/
def State.frameWaits (s : State) (u : Nat) : Bool :=
  let w := (s.site (teamOfWeave u)).walker
  let va := s.frameAddr u % 2 ^ 56
  match s.reach w va with
  | (.page _, t) => t.logged w va
  | _ => false

/-- Steps 3 and 4 of R170: the frame is stored and the trapped set starts at the handler entry, or the gang is parked. -/
def State.enterHandler (s : State) (u : Nat) (handler : Slot) (trapped : Mask) : State :=
  let w := s.weave u
  let held := w.live &&& ~~~trapped
  match s.frameStore u (frameBytes w trapped held w.handler) with
  | (some s, _) =>
    let s := s.changeWeave u fun w =>
      { w with nest := w.handler, handler := true, held := held, entry := none }
    let s := s.changeWeave (partnerOf u) fun w => { w with partnerHeld := true }
    { s with groups := s.groups ++ groupOf u (trapped &&& w.live) handler }
  | (none, s) =>
    let s := s.changeWeave u fun w => { w with held := held, entry := some trapped }
    s.park u w.trapCause w.trapPc (BitVec.ofNat 64 (s.frameAddr u)) w.trapLanes flagFrame

/-- Trap entry for one weave, whatever the cause (R170, R332, R335). `trapped` are its threads in the trapping group; `flags`
are those of a report that parks the gang with the cause itself (R325). -/
def State.enterTrap (s : State) (u : Nat) (cause : Byte) (pc : Slot) (addr : Word64) (lanes trapped : Mask) (flags : Nat) : State :=
  let w := s.weave u
  let e := s.site (teamOfWeave u)
  match (s.sub e.sub).handler, handlerClass cause && (s.ctx e.slice).trapEn with
  | some h, true =>
    if w.handler && w.nest then
      let s := s.park u cause pc addr lanes (flagNested + flags)
      { s with groups := s.groups ++ groupOf u trapped pc }
    else (s.writeTrap u cause pc addr lanes).enterHandler u h trapped
  | _, _ =>
    let s := if writesTrapRegisters cause then s.writeTrap u cause pc addr lanes else s
    let s := s.park u cause pc addr lanes flags
    let s := if cause == causePoison then { s with agenda := s.agenda ++ [.launchRollback e.slice] } else s
    { s with groups := s.groups ++ groupOf u trapped pc }

/-- A cause goes to the handler of a weave, which can take it (R170, R332). -/
def State.toHandler (s : State) (u : Nat) (cause : Byte) : Bool :=
  let e := s.site (teamOfWeave u)
  let w := s.weave u
  (s.sub e.sub).handler.isSome && handlerClass cause && (s.ctx e.slice).trapEn && !(w.handler && w.nest)

/-- Nothing keeps the traps of an instruction: a frame that must wait keeps its threads at their slot (R317). -/
def State.framesFree (s : State) (reqs : List TrapReq) : Bool :=
  reqs.all fun q => !(s.toHandler q.weave q.cause && s.frameWaits q.weave)

/-- Lanes of a weave issue: their watchdog counts restart (R339). -/
def Weave.restart (w : Weave) (m : Mask) (now : Nat) : Weave :=
  { w with issued := (w.issued.map fun e => (e.1 &&& ~~~m, e.2)).filter (fun e => e.1 != 0) ++ [(m, now)] }

/-- The traps of one instruction: each weave enters on its own (R334); the threads of the other weaves are withdrawn. The
watchdog counts of the threads that trap restart (log entry 119). -/
def State.takeTraps (s : State) (g : Group) (reqs : List TrapReq) (flags : Byte → Nat) : State :=
  let now := (s.gang (s.team g.team).gang).lived
  reqs.foldl
    (fun s q =>
      (s.enterTrap q.weave q.cause g.pc q.addr q.lanes (g.lanes q.weave) (flags q.cause)).changeWeave q.weave fun w =>
        w.restart (g.lanes q.weave) now) s

/-- The instructions whose accesses write: ST, STM, ATOM, ACAS, RED, BINIT, BARR, BARRX, SPAWN, STEAL, ACCST. -/
def writingOpcodes : List Nat := [0x241, 0x243, 0x280, 0x281, 0x282, 0x300, 0x301, 0x302, 0x30B, 0x30C, 0x385]

/-- FLAGS of a cause that an instruction raises: WRITE for what an access that writes meets (R325). -/
def accessFlags (opcode : Nat) (cause : Byte) : Nat :=
  let met : List Byte := [causeMisaligned, causeScratchBounds, causeNotMember, causePageFault, causeAccessViolation, causeStackBounds]
  if writingOpcodes.contains opcode && met.contains cause then flagWrite else 0

/-! ### Finishing an instruction -/

/-- The gangs whose clocks count: placed, and not pre-empted or parked (R358). -/
def Gang.counts (g : Gang) : Bool := g.state == .placed || g.state == .running

/-- BUDGETLEFT is refreshed at the end of the clock: when, is left open but for the limit of 1,024 clocks (R34). -/
def Slice.refresh (l : Slice) (now : Nat) (early : Bool) : Slice :=
  if early || l.leftAt + 1024 ≤ now then { l with left := l.budget, leftAt := now } else l

/-- The clock of a gang's count at which a lane last issued. -/
def Weave.lastIssued (w : Weave) (l : Nat) : Nat := ((w.issued.find? fun e => e.1.getLsbD l).map Prod.snd).getD 0

/-- The partition of a gang. -/
def State.partOfGang (s : State) (g : Nat) : Nat := (s.fn (s.slice (s.sub (s.gang g).sub).slice).fn).part

/-- A lane waits on an access to a module in recovery, below the ceiling: it is exempt from its watchdog count (R451). -/
def State.exempt (s : State) (w : Weave) (ceiling l : Nat) : Bool :=
  match Map.find w.recovering l with
  | some t => decide (s.ptime < t.1 + ceiling)
  | none => false

/-- The counts of exempt lanes stand still while the others advance (R339, R451). -/
def State.holdCounts (s : State) (u : Nat) (w : Weave) : Weave :=
  let g := (s.team (teamOfWeave u)).gang
  if w.recovering.isEmpty || !(s.gang g).counts then w
  else
    ((lanesOf w.live).filter (s.exempt w (s.part (s.partOfGang g)).ceiling)).foldl
      (fun w l => w.restart (laneBit l) (w.lastIssued l + 1)) w

/-- What a clock costs the gangs that stand placed in it: budgets and nodes are charged (R358). -/
def State.charge (s : State) : State :=
  let busy := (s.gangs.filter fun g => g.2.counts).map fun g => ((s.sub g.2.sub).slice, g.2.cores.length)
  let charged := (busy.map Prod.fst).eraseDups
  let (x, s) := s.free
  let now := s.clock + 1
  let s := { s with
    slices := s.slices.map fun l =>
      (l.1, (if charged.contains l.1 then { l.2 with budget := l.2.budget - 1 } else l.2).refresh now (x.getLsbD 0))
    weaves := s.weaves.map fun w : Nat × Weave => (w.1, s.holdCounts w.1 w.2)
    gangs := s.gangs.map fun g => if g.2.counts then (g.1, { g.2 with lived := g.2.lived + 1 }) else g }
  busy.foldl
    (fun s b => (s.sliceChain b.1).foldl (fun s k => s.changeNode k fun n => { n with used := n.used + b.2 }) s) s

/-- The clock moves on. -/
def State.tick (s : State) : State := { s with clock := s.clock + 1, chosen := false }

/-- The DEAD hint: every thread of a weave reads A in this issue (R40, R150). -/
def Weave.hintDead (w : Weave) (f : Fields) (reading : Mask) : Weave :=
  match f.dead, f.a with
  | true, .v n => if w.live ≠ 0 ∧ reading = w.live then { w with dead := setAdd w.dead n.toNat } else w
  | _, _ => w

/-- The YIELD hint: a yield period for each thread of the group (R266). -/
def Weave.hintYield (w : Weave) (f : Fields) (m : Mask) (until_ : Nat) : Weave :=
  if f.yieldHint then { w with yielding := (lanesOf m).foldl (fun y l => Map.put y l until_) w.yielding } else w

/-- The threads of a group have issued: their counts restart, a hinted yield period starts, and a gang's first instruction
makes it run (R339, R266, R364). -/
def State.retire (s : State) (g : Group) (f : Fields) : State :=
  let e := s.site g.team
  let until_ := s.clock + (s.ctx e.slice).fairTimer
  let now := (s.gang e.gang).lived
  let s := s.eachWeave g fun _ m w => (w.hintYield f m until_).restart m now
  s.changeGang e.gang fun k => { k with state := if k.state == .placed then .running else k.state }

/-- The state after an instruction: its threads stand in their next groups. Other groups issue in the same clock. -/
def State.finish (s : State) (next : List Group) : State :=
  { s with issuing := none, groups := s.groups ++ next.filter fun g : Group => !g.members.isEmpty }

end Sys2Proof.Machine
end

