-- ==== Sys2Proof/Machine/Bins.lean ====
section
/-! DEFINITION. Bins and the overflow list of a core (R263, R264), its monitors (R203), and threads taken from where they
stand. -/

namespace Sys2Proof.Machine

/-- The monitors of a core that a parked thread still waits on (R203). -/
def State.trimMonitors (s : State) (c : Nat) : State :=
  let waited := (s.weaves.filter fun w => (s.team (teamOfWeave w.1)).core = c).flatMap fun w => w.2.waits.map fun x => x.2.line
  s.changeCore c fun k => { k with monitors := k.monitors.filter waited.contains }

/-! ### Bins (R263) -/

/-- The number of the first place a thread can take among 64 bins. One that the selector has taken is a bin no more (R264). -/
def binFor (k : Core) (team : Nat) (shadow : Bool) (lane : Nat) (pc : Slot) : Option Nat :=
  (List.range 64).find? fun n =>
    match Map.find k.bins n with
    | some b => b.picked.isNone && b.team = team && b.shadow = shadow && b.pc = pc && (Map.find b.places lane).isNone
    | none => false

/-- The lowest free bin. -/
def freeBin (k : Core) : Option Nat := (List.range 64).find? fun n => (Map.find k.bins n).isNone

/-- A thread filed, with the wait it brings (R263, R264). -/
def Core.file (k : Core) (o : Filed) : Core :=
  match binFor k o.team o.shadow o.lane o.pc with
  | some n =>
    { k with bins := Map.change k.bins n fun b => { b with places := Map.put b.places o.lane o.weave, wait := max b.wait o.wait } }
  | none =>
    match freeBin k with
    | some n =>
      let b : Bin := { team := o.team, shadow := o.shadow, pc := o.pc, places := [(o.lane, o.weave)], wait := o.wait }
      { k with bins := Map.put k.bins n b }
    | none => { k with overflow := k.overflow ++ [o] }

/-- The threads at the head of the overflow list that go into one bin together: those of one key with distinct home lanes. -/
def headRun : List Filed → List Filed
  | [] => []
  | o :: rest =>
    let rec go : List Filed → List Filed → List Filed
      | taken, [] => taken
      | taken, x :: more =>
        if x.team = o.team && x.shadow = o.shadow && x.pc = o.pc && taken.all (fun y => y.lane ≠ x.lane) then go (taken ++ [x]) more
        else taken
    go [o] rest

/-- A free bin given to the head of the overflow list, which brings its wait (R264). -/
def Core.refillBin (k : Core) (n : Nat) : Core :=
  match Map.find k.bins n, headRun k.overflow with
  | none, o :: run =>
    let b : Bin :=
      { team := o.team, shadow := o.shadow, pc := o.pc, wait := ((o :: run).map fun x => x.wait).foldl max 0
        places := (o :: run).foldl (fun m x => Map.put m x.lane x.weave) [] }
    { k with bins := Map.put k.bins n b, overflow := k.overflow.drop (run.length + 1) }
  | _, _ => k

/-- Every bin that has become free given to the overflow list (R264). While threads are on the list no other bin is free. -/
def Core.refill (k : Core) : Core := (List.range 64).foldl Core.refillBin k

/-- The threads of a team leave the bins and the overflow list of its core (R264). -/
def State.unfile (s : State) (t : Nat) : State :=
  s.changeCore (s.team t).core fun k =>
    ({ k with bins := k.bins.filter fun b => b.2.team ≠ t, overflow := k.overflow.filter fun o => o.team ≠ t } : Core).refill

/-- The waits in BWAIT and SYNCT of threads that go elsewhere are over. -/
def Weave.dropWaits (w : Weave) (m : Mask) : Weave :=
  { w with bwaits := w.bwaits.filter fun x => BitVec.ofNat 32 x.1 &&& m == 0 }

/-- Threads taken out of the groups they stand in. -/
def State.ungroup (s : State) (u : Nat) (m : Mask) : State :=
  let kept := s.groups.map fun g : Group => g.without fun x => if x = u then m else 0
  { s with groups := kept.filter fun g : Group => !g.members.isEmpty }.changeWeave u fun w => w.dropWaits m

/-- The lanes of a weave that stand in a group. -/
def State.standing (s : State) (u : Nat) : Mask := s.groups.foldl (fun m x => m ||| x.lanes u) 0

/-- Threads taken from wherever they stand: groups, bins, the overflow list and waits. The signatures that they have given in a
convergence register stay (R151). -/
def State.unplace (s : State) (u : Nat) (m : Mask) : State :=
  let s := s.ungroup u m
  let c := (s.team (teamOfWeave u)).core
  let s := s.changeCore c fun k =>
    let bins := k.bins.map fun b : Nat × Bin =>
      (b.1, { b.2 with places := b.2.places.filter fun x => !(x.2 == u && m.getLsbD x.1) })
    ({ k with
      bins := bins.filter fun b : Nat × Bin => !b.2.places.isEmpty
      overflow := k.overflow.filter fun o => !(o.weave == u && m.getLsbD o.lane) } : Core).refill
  (s.changeWeave u fun w => { w with waits := w.waits.filter fun x => !m.getLsbD x.1 }).trimMonitors c

end Sys2Proof.Machine
end

