-- ==== Sys2Proof/Machine/Formats.lean ====
section
/-! DEFINITION. The encodings' limits: for every word of R79 the operand classes, the modifier values and the immediate
bits its description defines, and the checks of R80 over them. -/

namespace Sys2Proof

/-- The operand classes of R75. -/
inductive Cls where
  | v | s | p | c | w | q | imm | zero | a
  deriving DecidableEq, Repr

/-- The class of an operand (R75). -/
def Operand.cls : Operand → Cls
  | .v _ => .v
  | .s _ => .s
  | .p _ => .p
  | .c _ => .c
  | .w _ => .w
  | .q _ => .q
  | .imm => .imm
  | .zero => .zero
  | .a _ => .a

def Operand.isV : Operand → Bool
  | .v _ => true
  | _ => false

def Operand.isS : Operand → Bool
  | .s _ => true
  | _ => false

def Operand.isP : Operand → Bool
  | .p _ => true
  | _ => false

/-- The limits of one instruction's encoding: what its table of R104, R112, R117, R128, R134, R142, R153, R164, R173, R187,
R205, R224, R243, R251 or R255 lists. -/
structure Format where
  opcode : Nat
  d : List Cls
  a : List Cls
  b : List Cls
  c : List Cls
  /-- check 2 of R80: the immediate bits -/
  immOk : Fields → Bool
  /-- check 3 of R80: the modifier values -/
  modOk : Fields → Bool
  /-- the part of check 4 of R80 that relates fields to one another -/
  opndOk : Fields → Bool

/-! ### Immediates -/

def Fields.namesImm (f : Fields) : Bool :=
  f.d == .imm || f.a == .imm || f.b == .imm || f.c == .imm

/-- R77: the immediate is zero unless a field names IMM. -/
def immPlain (f : Fields) : Bool := f.imm == 0 || f.namesImm

/-- The immediate has its own meaning in the bits of `mask` and the others are zero. -/
def immOwn (mask : BitVec 32) (f : Fields) : Bool := f.imm &&& ~~~mask == 0

/-- The SCOPE code of R184. -/
def Fields.scope (f : Fields) : Nat := (f.imm.extractLsb' 24 3).toNat

/-- The AUX code of R184. -/
def Fields.aux (f : Fields) : Nat := (f.imm.extractLsb' 27 3).toNat

/-- The signed byte offset OFF of R184, extended to 64 bits. -/
def Fields.off (f : Fields) : Word64 := (f.imm.extractLsb' 0 24).signExtend 64

/-- R184: OFF alone. -/
def immOff (f : Fields) : Bool := f.imm.extractLsb' 24 8 == 0

/-- R184: OFF, with SCOPE when the word `takes` one. -/
def immScoped (takes : Fields → Bool) (f : Fields) : Bool :=
  f.imm.extractLsb' 27 5 == 0 && (f.scope == 0 || (takes f && f.scope ≤ 6))

/-- R184, R186: OFF, SCOPE and a space code in AUX; the lane-private code is not listed (R187). -/
def immAtomic (f : Fields) : Bool :=
  f.imm.extractLsb' 30 2 == 0 && f.scope ≤ 6 && (f.aux == 0 || f.aux == 2 || f.aux == 3 || f.aux == 4)

/-- R194: OFF and the count code of LDM and STM. -/
def immBlock (f : Fields) : Bool :=
  f.imm.extractLsb' 30 2 == 0 && f.scope == 0 && f.aux ≤ 3

/-- R119: the immediate of the sub-element form of MOV. -/
def immSubelement (f : Fields) : Bool :=
  match f.a with
  | .imm => true
  | .v _ => f.imm.toNat < f.width.count
  | _ => f.imm == 0

/-! ### Formats of matrix operands (R239) -/

/-- The storage width of a format code (R239); 0 for the reserved codes 28 to 31. -/
def storageWidth (code : Nat) : Nat :=
  if code = 0 then 64
  else if code = 1 ∨ code = 2 then 32
  else if code = 3 ∨ code = 4 then 16
  else if code ≤ 8 ∨ code = 10 ∨ code = 11 then 8
  else if code = 9 ∨ (12 ≤ code ∧ code ≤ 15) then 4
  else if 16 ≤ code ∧ code ≤ 18 then 8
  else if 19 ≤ code ∧ code ≤ 27 then 4
  else 0

/-- R239: the widths are equal, or one is 4 and the other 8. -/
def pairOk (fa fb : Nat) : Bool :=
  let wa := storageWidth fa
  let wb := storageWidth fb
  wa != 0 && (wa == wb || (wa == 4 && wb == 8) || (wa == 8 && wb == 4))

/-- The integer formats I8, N8, I4 and N4 (R46). -/
def isIntFormat (code : Nat) : Bool := 10 ≤ code && code ≤ 13

def Fields.fa (f : Fields) : Nat := (f.imm.extractLsb' 0 4).toNat
def Fields.fb (f : Fields) : Nat := (f.imm.extractLsb' 4 4).toNat
def Fields.sv (f : Fields) : Nat := (f.imm.extractLsb' 25 7).toNat

/-- SV must be zero without .scin (R243). -/
def svOk (f : Fields) : Bool := f.t == 1 || f.sv == 0

def immMma (f : Fields) : Bool :=
  f.imm.extractLsb' 8 17 == 0 && svOk f && pairOk f.fa f.fb

def immMmas (f : Fields) : Bool :=
  f.imm.extractLsb' 18 7 == 0 && f.imm.extractLsb' 15 1 == 0 && f.imm.extractLsb' 16 2 != 3 && svOk f &&
    storageWidth f.fa == 8 && storageWidth f.fb == 8

def immMmaq (f : Fields) : Bool :=
  f.imm.extractLsb' 24 1 == 0 && f.imm.extractLsb' 6 2 == 0 && svOk f

/-- ROW of R251. -/
def Fields.row (f : Fields) : Nat := (f.imm.extractLsb' 0 6).toNat

/-- The row count of ACCRD and ACCWR (R251). -/
def Fields.rowsShort (f : Fields) : Nat := 2 ^ (f.imm.extractLsb' 8 2).toNat

/-- The row count of ACCST and ACCLD (R251). -/
def Fields.rowsLong (f : Fields) : Nat := (f.imm.extractLsb' 8 6).toNat + 1

def immRowsShort (f : Fields) : Bool := immOwn 0x33F f && f.row + f.rowsShort ≤ 64
def immRowsLong (f : Fields) : Bool := immOwn 0x3F3F f && f.row + f.rowsLong ≤ 64

/-! ### Modifiers -/

/-- Width, T, RM, SAT and X, each within what a table lists. -/
def modBox (ws : List Width) (tMax : Nat) (rmMax : Nat) (sat x : Bool) (f : Fields) : Bool :=
  ws.contains f.width && f.t.toNat ≤ tMax && f.rm.toNat ≤ rmMax && (!f.sat || sat) && (!f.x || x)

def anyW : List Width := [.d, .w, .h, .b]

/-- R125: the pairs of W and T that select a floating format. -/
def fmtOk (f : Fields) : Bool :=
  match f.width with
  | .d => f.t == 0
  | .w => f.t == 0
  | .h => f.t == 0 || f.t == 1
  | .b => false

def modFmt (rmMax : Nat) (sat x : Bool) (f : Fields) : Bool := modBox anyW 1 rmMax sat x f && fmtOk f

/-- A floating format other than F64 (R134). -/
def modFmtNo64 (sat : Bool) (f : Fields) : Bool := modFmt 0 sat false f && f.width != .d

/-- R160: the W, RM and SAT values that each T of REDUCE and SCAN allows. -/
def modReduce (x : Bool) (f : Fields) : Bool :=
  modBox anyW 14 3 true x f &&
    (if f.t.toNat ≤ 1 then f.rm == 0
     else if f.t.toNat ≤ 8 then f.rm == 0 && !f.sat
     else if f.t.toNat = 9 then f.width != .b
     else if f.t.toNat ≤ 11 then f.width != .b && f.rm == 0 && !f.sat
     else if f.t.toNat = 12 then f.width == .h
     else f.width == .h && f.rm == 0 && !f.sat)

/-- R198: the operations and widths of ATOM and RED. -/
def modAtomOp (f : Fields) : Bool :=
  f.t.toNat ≤ 11 &&
    (match f.width with
     | .d | .w => true
     | .h => 9 ≤ f.t.toNat
     | .b => false)

/-- R243: KEEP, SCALE-IN or ZERO. -/
def modMatrix (f : Fields) : Bool := modBox [.d] 1 3 true true f && !(f.t == 1 && f.x)

/-- R243: SCALE-IN is not defined where both operands are integer. -/
def modMatrixFmt (f : Fields) : Bool := modMatrix f && !(f.t == 1 && isIntFormat f.fa && isIntFormat f.fb)

def tIn (l : List Nat) (f : Fields) : Bool := l.contains f.t.toNat

/-! ### Relations between operand fields -/

/-- R101: in the scalar form every source is an s register, IMM or ZERO. -/
def scalarOk (f : Fields) : Bool :=
  !f.d.isS || !(f.a.isV || f.a.isP || f.b.isV || f.b.isP || f.c.isV || f.c.isP)

/-- R141: D and C both lane-wise or both scalar, and scalar sources with a scalar destination. -/
def xsplitOk (f : Fields) : Bool :=
  !(f.d.isV && f.c.isS) && !(f.d.isS && f.c.isV) && !((f.d.isS || f.c.isS) && (f.a.isV || f.a.isP))

/-! ### The table -/

def vsz : List Cls := [.v, .s, .zero]
def vsiz : List Cls := [.v, .s, .imm, .zero]
def vz : List Cls := [.v, .zero]
def pz : List Cls := [.p, .zero]
def siz : List Cls := [.s, .imm, .zero]
def sz : List Cls := [.s, .zero]
def vs : List Cls := [.v, .s]
def nil0 : List Cls := [.zero]

def yes (_ : Fields) : Bool := true

/-- An instruction of groups 0x0 to 0x2 with a signedness in T (R104). -/
def fmtInt (op : Nat) (sat : Bool) : Format :=
  ⟨op, vsz, vsiz, vsiz, nil0, immPlain, modBox anyW 1 0 sat false, scalarOk⟩

/-- A two-source instruction of group 0x1 (R112). -/
def fmtLogic (op : Nat) : Format := ⟨op, vsz, vsiz, vsiz, nil0, immPlain, modBox anyW 0 0 false false, scalarOk⟩

/-- A one-source instruction of group 0x1 (R112). -/
def fmtUnary (op : Nat) : Format := ⟨op, vsz, vsiz, nil0, nil0, immPlain, modBox anyW 0 0 false false, scalarOk⟩

/-- A two-source floating instruction (R128). -/
def fmtFloat (op rmMax : Nat) (sat : Bool) : Format := ⟨op, vsz, vsiz, vsiz, nil0, immPlain, modFmt rmMax sat false, scalarOk⟩

/-- A one-source floating instruction (R134). -/
def fmtFloat1 (op : Nat) (mod : Fields → Bool) : Format := ⟨op, vsz, vsiz, nil0, nil0, immPlain, mod, scalarOk⟩

/-- An instruction without operands and modifiers. -/
def fmtBare (op : Nat) : Format := ⟨op, nil0, nil0, nil0, nil0, immPlain, modBox [.d] 0 0 false false, yes⟩

/-- A data-moving cross-lane instruction (R153). -/
def fmtMove6 (op : Nat) (b : List Cls) (rmMax : Nat) : Format :=
  ⟨op, vz, [.v], b, [.c], fun f => f.x || immPlain f, modBox anyW 7 rmMax false true, fun f => !(f.x && f.b == .imm)⟩

/-- A barrier instruction (R224). -/
def fmtBarrier (op : Nat) (d c : List Cls) (rmMax : Nat) (x : Bool) (opnd : Fields → Bool) : Format :=
  ⟨op, d, sz, sz, c, immOff, fun f => modBox [.d] 3 rmMax false x f && tIn [2, 3] f, opnd⟩

/-- The encoding limits of each instruction of R79; an event of the module has none. D = ZERO is accepted wherever D is a
destination, though some tables do not list it (R76); not where D is a base (R121) or must be a v register (R119) (log entry 80). -/
def Instr.format : Instr → Option Format
  | .iadd _ => some (fmtInt 0x000 true)
  | .isub _ => some (fmtInt 0x001 true)
  | .iadds _ => some ⟨0x002, vz, vsiz, vsiz, [.p], immPlain, modBox anyW 1 0 true false, yes⟩
  | .isubs _ => some ⟨0x003, vz, vsiz, vsiz, [.p], immPlain, modBox anyW 1 0 true false, yes⟩
  | .imul _ => some (fmtInt 0x004 true)
  | .imulh _ => some (fmtInt 0x005 false)
  | .imad _ => some ⟨0x006, vsz, vsiz, vsiz, vsiz, immPlain, modBox anyW 1 0 true false, scalarOk⟩
  | .idiv _ => some (fmtInt 0x007 false)
  | .irem _ => some (fmtInt 0x008 false)
  | .imin _ => some (fmtInt 0x009 false)
  | .imax _ => some (fmtInt 0x00A false)
  | .iabs _ => some ⟨0x00B, vsz, vsiz, nil0, nil0, immPlain, modBox anyW 0 0 true false, scalarOk⟩
  | .ineg _ => some ⟨0x00C, vsz, vsiz, nil0, nil0, immPlain, modBox anyW 0 0 true false, scalarOk⟩
  | .iaddc _ => some ⟨0x00D, vz, vsiz, vsiz, [.p], immPlain, modBox [.d] 1 0 false false, yes⟩
  | .lea _ => some ⟨0x00E, vsz, vsiz, vsiz, vsiz, immPlain, modBox [.d] 15 0 false false, scalarOk⟩
  | .idot _ => some ⟨0x00F, vsz, vsiz, vsiz, vsiz, immPlain, modBox [.h, .b] 3 0 true false, scalarOk⟩
  | .andOp _ => some (fmtLogic 0x040)
  | .orOp _ => some (fmtLogic 0x041)
  | .xorOp _ => some (fmtLogic 0x042)
  | .andn _ => some (fmtLogic 0x043)
  | .notOp _ => some (fmtUnary 0x044)
  | .shl _ => some (fmtLogic 0x045)
  | .shr _ => some (fmtLogic 0x046)
  | .sar _ => some (fmtLogic 0x047)
  | .rot _ => some (fmtLogic 0x048)
  | .fshr _ => some ⟨0x049, vsz, vsiz, vsiz, vsiz, immPlain, modBox anyW 0 0 false false, scalarOk⟩
  | .popc _ => some (fmtUnary 0x04A)
  | .clz _ => some (fmtUnary 0x04B)
  | .ctz _ => some (fmtUnary 0x04C)
  | .brev _ => some (fmtUnary 0x04D)
  | .bfx _ => some ⟨0x04E, vsz, vsiz, nil0, nil0, immOwn 0xFFFF, modBox anyW 1 0 false false, scalarOk⟩
  | .bfi _ => some ⟨0x04F, vsz, vsiz, vsiz, nil0, immOwn 0xFFFF, modBox anyW 0 0 false false, scalarOk⟩
  | .prmb _ => some ⟨0x050, vsz, vsiz, vsiz, vsiz, immPlain, modBox [.d] 0 0 false false, scalarOk⟩
  | .icmp _ => some ⟨0x080, pz, vsiz, vsiz, pz, immPlain, modBox anyW 9 3 false true,
      fun f => if f.rm == 0 then f.c == .zero else f.c.isP⟩
  | .sel _ => some ⟨0x081, vz, vsiz, vsiz, [.p], immPlain, modBox anyW 0 0 false false, yes⟩
  | .mov _ => some ⟨0x082, vsz, vsiz, nil0, nil0, immPlain, modBox anyW 0 0 false false, scalarOk⟩
  | .movSubelement _ => some ⟨0x082, [.v], vsiz, nil0, nil0, immSubelement,
      fun f => modBox anyW 7 0 false true f && f.t.toNat < f.width.count, yes⟩
  | .movi _ => some ⟨0x083, vsz, nil0, nil0, nil0, yes, modBox [.d] 0 0 false true, yes⟩
  | .movs _ => some ⟨0x084, sz, [.v], siz, nil0, immPlain, modBox [.d] 0 0 false true, fun f => !f.x || f.b == .zero⟩
  | .movv _ => some ⟨0x085, vz, [.v], vsiz, nil0, immPlain, modBox [.d] 0 0 false true, fun f => !f.x || f.d.isV⟩
  | .pset _ => some ⟨0x086, pz, [.p, .imm, .zero], [.p, .imm, .zero], nil0, immPlain, modBox [.d] 3 0 false false, yes⟩
  | .pmov _ => some ⟨0x087, vz, vsiz, vsiz, nil0, immPlain, modBox [.d] 0 0 false true,
      fun f => if f.x then f.d == .zero else f.a == .zero && f.b == .zero⟩
  | .cvti _ => some ⟨0x088, vsz, vsiz, nil0, nil0, immOwn 7, modBox anyW 7 0 true true, scalarOk⟩
  | .fadd _ => some (fmtFloat 0x0C0 3 true)
  | .fsub _ => some (fmtFloat 0x0C1 3 true)
  | .fmul _ => some (fmtFloat 0x0C2 3 true)
  | .ffma _ => some ⟨0x0C3, vsz, vsiz, vsiz, vsiz, immPlain, modFmt 3 true false, scalarOk⟩
  | .fmin _ => some (fmtFloat 0x0C4 0 false)
  | .fmax _ => some (fmtFloat 0x0C5 0 false)
  | .fcmp _ => some ⟨0x0C6, pz, vsiz, vsiz, nil0, immPlain, modFmt 3 false true, yes⟩
  | .fclass _ => some (fmtFloat1 0x0C7 (modFmt 0 false false))
  | .fdot2 _ => some ⟨0x0C8, vsz, vsiz, vsiz, vsiz, immPlain, modBox [.h] 1 3 true false, scalarOk⟩
  | .fcvt _ => some ⟨0x100, vsz, vsz, nil0, nil0, immOwn 0xFF, modBox [.d] 15 3 true false, scalarOk⟩
  | .frnd _ => some (fmtFloat1 0x101 (modFmt 3 false false))
  | .ftoi _ => some (fmtFloat1 0x102 (modFmt 3 false true))
  | .itof _ => some (fmtFloat1 0x103 (modFmt 3 true true))
  | .frcp _ => some (fmtFloat1 0x104 (modFmt 0 true false))
  | .frsq _ => some (fmtFloat1 0x105 (modFmt 0 true false))
  | .fsqrt _ => some (fmtFloat1 0x106 (modFmt 3 true false))
  | .fexp2 _ => some (fmtFloat1 0x107 (modFmtNo64 true))
  | .flog2 _ => some (fmtFloat1 0x108 (modFmtNo64 false))
  | .fsin _ => some (fmtFloat1 0x109 (modFmtNo64 false))
  | .fcos _ => some (fmtFloat1 0x10A (modFmtNo64 false))
  | .ftanh _ => some (fmtFloat1 0x10B (modFmtNo64 false))
  | .xmax _ => some (fmtFloat 0x10C 0 false)
  | .xscale _ => some (fmtFloat 0x10D 3 true)
  | .xsplit _ => some ⟨0x10E, vsz, vsiz, nil0, vsz, immPlain, modFmt 0 false false, xsplitOk⟩
  | .qpack _ => some ⟨0x140, vsz, vsz, vsz, nil0, immOwn 0x1F,
      fun f => modBox [.d, .w, .h] 15 3 true true f && 5 ≤ f.t.toNat &&
        (!f.x || (f.t == 15 && f.width == .d && f.rm == 0 && !f.sat)),
      fun f => scalarOk f && (!f.x || f.b == .zero)⟩
  | .qunpk _ => some ⟨0x141, vsz, vsz, nil0, nil0, immOwn 0x1F,
      fun f => modBox anyW 15 0 false true f && 5 ≤ f.t.toNat && (!f.x || (f.t == 15 && f.width == .d)), scalarOk⟩
  | .qdeq _ => some ⟨0x142, vsz, vsz, vsz, nil0, immOwn 0x1F,
      fun f => modBox [.d, .w, .h] 15 3 true false f && 5 ≤ f.t.toNat, scalarOk⟩
  | .spsel _ => some ⟨0x143, vz, vsz, vsz, vz, immPlain, modBox [.b] 2 0 false true, yes⟩
  | .spexp _ => some ⟨0x144, vz, vsz, vsz, vz, immPlain, modBox [.b] 2 0 false false, yes⟩
  | .perm _ => some (fmtMove6 0x180 vsiz 0)
  | .bcast _ => some (fmtMove6 0x181 siz 0)
  | .shfl _ => some (fmtMove6 0x182 vsiz 3)
  | .vote _ => some ⟨0x183, [.v, .s, .p, .zero], [.p], nil0, [.c], immPlain, modBox [.d] 3 0 false false,
      fun f => if f.t == 0 then !f.d.isP else f.d.isP || f.d == .zero⟩
  | .reduce _ => some ⟨0x184, vsz, [.v], nil0, [.c], immPlain, modReduce false, yes⟩
  | .scan _ => some ⟨0x185, vz, [.v], nil0, [.c], immPlain, modReduce true, yes⟩
  | .matchOp _ => some ⟨0x186, [.v, .p, .zero], [.v], nil0, [.c], immPlain, modBox anyW 1 0 false false,
      fun f => if f.t == 0 then !f.d.isP else f.d.isP || f.d == .zero⟩
  | .bra _ => some ⟨0x1C0, nil0, nil0, nil0, nil0, yes, modBox [.d] 0 0 false false, yes⟩
  | .brx _ => some ⟨0x1C1, nil0, vs, nil0, nil0, immPlain, modBox [.d] 0 0 false false, yes⟩
  | .call _ => some ⟨0x1C2, vz, nil0, nil0, nil0, yes, modBox [.d] 0 0 false false, yes⟩
  | .callx _ => some ⟨0x1C3, vz, vs, nil0, nil0, immPlain, modBox [.d] 0 0 false false, yes⟩
  | .ret _ => some ⟨0x1C4, nil0, vs, nil0, nil0, immPlain, modBox [.d] 0 0 false false, yes⟩
  | .exit _ => some (fmtBare 0x1C5)
  | .reform _ => some ⟨0x1C6, nil0, nil0, nil0, nil0, fun f => f.x || immPlain f, modBox [.d] 0 0 false true, yes⟩
  | .trap _ => some ⟨0x1C7, nil0, nil0, nil0, nil0, yes, modBox [.d] 0 0 false false, yes⟩
  | .bpt _ => some ⟨0x1C8, nil0, nil0, nil0, nil0, yes, modBox [.d] 0 0 false false, yes⟩
  | .nop _ => some (fmtBare 0x1C9)
  | .conv _ => some ⟨0x200, [.c], siz, nil0, nil0, immPlain, modBox [.d] 0 0 false false, yes⟩
  | .sign _ => some ⟨0x201, nil0, nil0, nil0, [.c], immPlain, modBox [.d] 0 0 false false, yes⟩
  | .pdis _ => some ⟨0x202, nil0, nil0, nil0, nil0, immPlain, modBox [.d] 0 0 false true, yes⟩
  | .pen _ => some (fmtBare 0x203)
  | .syield _ => some (fmtBare 0x204)
  | .getsys _ => some ⟨0x205, vsz, nil0, nil0, nil0, immOwn 0xFF, modBox [.d] 0 0 false false, yes⟩
  | .setsys _ => some ⟨0x206, nil0, sz, nil0, nil0, immOwn 0xFF, modBox [.d] 0 0 false false, yes⟩
  | .trapret _ => some ⟨0x207, nil0, nil0, nil0, nil0, immPlain, modBox [.d] 1 0 false false, yes⟩
  | .icpref _ => some ⟨0x208, nil0, siz, siz, nil0, immPlain, modBox [.d] 1 0 false false, yes⟩
  | .icpin _ => some ⟨0x209, pz, siz, siz, nil0, immPlain, modBox [.d] 1 0 false false, yes⟩
  | .icunpin _ => some ⟨0x20A, nil0, siz, siz, nil0, immPlain, modBox [.d] 1 0 false false, yes⟩
  | .ckreq _ => some ⟨0x20B, pz, nil0, nil0, nil0, immPlain, modBox [.d] 0 0 false false, yes⟩
  | .ld _ => some ⟨0x240, vsz, vsz, nil0, nil0, immScoped (fun f => f.rm == 1),
      fun f => modBox anyW 4 1 false true f && (!f.x || f.width != .d), yes⟩
  | .st _ => some ⟨0x241, nil0, vsz, vsz, nil0, immScoped (fun f => f.rm == 1), modBox anyW 4 1 false false, yes⟩
  | .ldm _ => some ⟨0x242, vz, sz, nil0, nil0, immBlock, fun f => modBox [.d] 4 0 false false f && f.t != 1, yes⟩
  | .stm _ => some ⟨0x243, nil0, sz, [.v], nil0, immBlock, fun f => modBox [.d] 4 0 false false f && f.t != 1, yes⟩
  | .pref _ => some ⟨0x244, nil0, vsz, nil0, nil0, immOff, modBox [.d] 1 0 false false, yes⟩
  | .cctl _ => some ⟨0x245, nil0, [.s], siz, nil0, immPlain, modBox [.d] 2 0 false false, yes⟩
  | .atom _ => some ⟨0x280, vsz, vsz, vsz, nil0, immAtomic, fun f => modBox anyW 11 3 false false f && modAtomOp f, yes⟩
  | .acas _ => some ⟨0x281, vsz, vsz, vsz, vsz, immAtomic, modBox [.d, .w] 0 3 false false, yes⟩
  | .red _ => some ⟨0x282, nil0, vsz, vsz, nil0, immAtomic,
      fun f => modBox anyW 11 2 false false f && modAtomOp f && f.t != 8 && f.rm != 1, yes⟩
  | .fence _ => some ⟨0x283, nil0, nil0, nil0, nil0, immPlain, modBox [.d] 6 3 false false, yes⟩
  | .waitv _ => some ⟨0x284, pz, vsz, vsz, vsz, immOff, fun f => modBox anyW 4 0 false false f && f.t != 1, yes⟩
  | .cpy _ => some ⟨0x2C0, sz, [.s], [.s], [.w], immOwn 0x7FFFFFF, fun f => modBox [.d] 4 0 false true f && tIn [2, 3, 4] f, yes⟩
  | .cpym _ => some ⟨0x2C1, sz, [.s], [.s], [.w], immOwn 0x7FFFFFF, fun f => modBox [.d] 2 0 false true f && tIn [2] f, yes⟩
  | .cpyr _ => some ⟨0x2C2, sz, [.s], [.s], [.w], immOwn 0x7FFFFFF, fun f => modBox [.d] 4 0 false true f && tIn [2, 3, 4] f, yes⟩
  | .wmrd _ => some ⟨0x2C3, vsz, [.w], nil0, nil0, immPlain, modBox [.d] 0 0 false false, yes⟩
  | .wmwait _ => some ⟨0x2C4, pz, [.w], siz, nil0, immPlain, modBox [.d] 0 0 false false, yes⟩
  | .cpyq _ => some ⟨0x2C5, vsz, [.w], nil0, nil0, immPlain, modBox [.d] 0 0 false false, yes⟩
  | .cpyc _ => some ⟨0x2C6, pz, [.w], nil0, nil0, immPlain, modBox [.d] 0 0 false false, yes⟩
  | .jobsub _ => some ⟨0x2C7, sz, [.s], nil0, nil0, immPlain, modBox [.d] 0 0 false false, yes⟩
  | .binit _ => some (fmtBarrier 0x300 nil0 nil0 0 false yes)
  | .barr _ => some (fmtBarrier 0x301 vsz nil0 0 true (fun f => !f.x || f.b == .zero))
  | .barrx _ => some (fmtBarrier 0x302 vsz sz 1 false yes)
  | .bwait _ => some (fmtBarrier 0x303 vsz nil0 0 false yes)
  | .btest _ => some (fmtBarrier 0x304 vsz nil0 0 false yes)
  | .cjoin _ => some ⟨0x305, vsz, nil0, nil0, nil0, immPlain, modBox [.d] 0 0 false false, yes⟩
  | .cleave _ => some ⟨0x306, vsz, nil0, nil0, nil0, immPlain, modBox [.d] 0 0 false false, yes⟩
  | .cgen _ => some ⟨0x307, vsz, siz, nil0, nil0, immPlain, modBox [.d] 0 0 false true, fun f => f.x || f.a == .zero⟩
  | .qsend _ => some ⟨0x308, [.q], vsiz, nil0, nil0, immPlain, modBox [.d] 0 0 false false, yes⟩
  | .qrecv _ => some ⟨0x309, vz, [.q], nil0, nil0, immPlain, modBox [.d] 0 0 false false, yes⟩
  | .qpeek _ => some ⟨0x30A, pz, [.q], nil0, nil0, immPlain, modBox [.d] 1 0 false false, yes⟩
  | .spawn _ => some ⟨0x30B, nil0, vsz, vsz, nil0, yes, modBox [.d] 0 0 false false, yes⟩
  | .steal _ => some ⟨0x30C, vz, vsz, nil0, [.p], immPlain, modBox [.d] 0 0 false false, yes⟩
  | .synct _ => some ⟨0x30D, pz, vsz, nil0, nil0, immPlain, modBox [.d] 0 0 false false, yes⟩
  | .mma _ => some ⟨0x340, [.a], [.v], [.v], [.c], immMma, modMatrixFmt, yes⟩
  | .mmas _ => some ⟨0x341, [.a], [.v], [.v], [.c], immMmas, modMatrixFmt, yes⟩
  | .mmaq _ => some ⟨0x342, [.a], [.v], [.v], [.c], immMmaq, modMatrix, yes⟩
  | .mmam _ => some ⟨0x343, [.a], [.v], [.s], [.c], immMma, modMatrixFmt, yes⟩
  | .accz _ => some ⟨0x380, [.a], nil0, nil0, nil0, immPlain, modBox [.d] 0 0 false false, yes⟩
  | .accsc _ => some ⟨0x381, [.a], [.v], nil0, nil0, immPlain, modBox [.d] 0 3 true false, yes⟩
  | .accx _ => some ⟨0x382, [.a], [.v], nil0, nil0, immPlain, modBox [.d] 0 3 true false, yes⟩
  | .accrd _ => some ⟨0x383, vz, [.a], nil0, nil0, immRowsShort, modBox [.d] 0 0 false false, yes⟩
  | .accwr _ => some ⟨0x384, [.a], [.v], nil0, nil0, immRowsShort, modBox [.d] 0 0 false false, yes⟩
  | .accst _ => some ⟨0x385, nil0, [.a], sz, nil0, immRowsLong, modBox [.d] 0 0 false false, yes⟩
  | .accld _ => some ⟨0x386, [.a], sz, nil0, nil0, immRowsLong, modBox [.d] 0 0 false false, yes⟩
  | .obres _ => some ⟨0x387, sz, siz, sz, nil0, immPlain, modBox [.d] 0 0 false false, yes⟩
  | .obrel _ => some ⟨0x388, nil0, [.s], nil0, nil0, immPlain, modBox [.d] 0 0 false false, yes⟩
  | .obwr _ => some ⟨0x389, nil0, [.s], vs, nil0, fun f => if f.x then f.imm == 0 else immOwn 0xFFFF f,
      modBox [.d] 0 0 false true, fun f => if f.x then f.b.isS else f.b.isV⟩
  | .obrd _ => some ⟨0x38A, vsz, [.s], nil0, nil0, fun f => if f.x then f.imm == 0 else immOwn 0xFFFF f,
      modBox [.d] 0 0 false true, fun f => f.x || !f.d.isS⟩
  | _ => none

/-! ### The checks of R80 -/

/-- The encoding causes of R80 and R38. -/
inductive EncFault where
  | illegalOpcode | reservedBits | illegalModifier | illegalOperand | accTile | queueWindow
  deriving DecidableEq, Repr

/-- What the checks of R80 know of the kernel and the wave: the .regs allocation (16 in a shadow wave, R259), the .acc
count, whether the kernel declares .shadow, and whether the wave is a shadow wave. -/
structure Env where
  regs : Nat
  acc : Nat
  shadowDeclared : Bool
  isShadow : Bool
  deriving DecidableEq, Repr

/-- The kernel limits under which every register and tile exists. -/
def Env.widest : Env := ⟨128, 16, true, false⟩

/-- The fields of an instruction; an event has none. -/
def Instr.fields : Instr → Option Fields
  | .iadd f | .isub f | .iadds f | .isubs f | .imul f | .imulh f | .imad f | .idiv f | .irem f | .imin f | .imax f
  | .iabs f | .ineg f | .iaddc f | .lea f | .idot f | .andOp f | .orOp f | .xorOp f | .andn f | .notOp f | .shl f
  | .shr f | .sar f | .rot f | .fshr f | .popc f | .clz f | .ctz f | .brev f | .bfx f | .bfi f | .prmb f | .icmp f
  | .sel f | .mov f | .movSubelement f | .movi f | .movs f | .movv f | .pset f | .pmov f | .cvti f | .fadd f | .fsub f
  | .fmul f | .ffma f | .fmin f | .fmax f | .fcmp f | .fclass f | .fdot2 f | .fcvt f | .frnd f | .ftoi f | .itof f
  | .frcp f | .frsq f | .fsqrt f | .fexp2 f | .flog2 f | .fsin f | .fcos f | .ftanh f | .xmax f | .xscale f | .xsplit f
  | .qpack f | .qunpk f | .qdeq f | .spsel f | .spexp f | .perm f | .bcast f | .shfl f | .vote f | .reduce f | .scan f
  | .matchOp f | .bra f | .brx f | .call f | .callx f | .ret f | .exit f | .reform f | .trap f | .bpt f | .nop f
  | .conv f | .sign f | .pdis f | .pen f | .syield f | .getsys f | .setsys f | .trapret f | .icpref f | .icpin f
  | .icunpin f | .ckreq f | .ld f | .st f | .ldm f | .stm f | .pref f | .cctl f | .atom f | .acas f | .red f | .fence f
  | .waitv f | .cpy f | .cpym f | .cpyr f | .wmrd f | .wmwait f | .cpyq f | .cpyc f | .jobsub f | .binit f | .barr f
  | .barrx f | .bwait f | .btest f | .cjoin f | .cleave f | .cgen f | .qsend f | .qrecv f | .qpeek f | .spawn f
  | .steal f | .synct f | .mma f | .mmas f | .mmaq f | .mmam f | .accz f | .accsc f | .accx f | .accrd f | .accwr f
  | .accst f | .accld f | .obres f | .obrel f | .obwr f | .obrd f => some f
  | _ => none

/-- The words a shadow wave may not execute (R260). -/
def shadowBarred (opcode : Nat) : Bool :=
  opcode / 64 == 0x6 || opcode / 64 == 0xD || opcode / 64 == 0xE ||
    [0x200, 0x201, 0x202, 0x203, 0x2C1, 0x305, 0x306, 0x307, 0x30B, 0x30C, 0x30D].contains opcode

/-- The words whose T field holds a space code (R186, R205, R224). -/
def spaceInT (opcode : Nat) : Bool :=
  [0x240, 0x241, 0x242, 0x243, 0x284, 0x2C0, 0x2C2, 0x300, 0x301, 0x302, 0x303, 0x304].contains opcode

/-- The words whose AUX field holds a space code (R186). -/
def spaceInAux (opcode : Nat) : Bool := [0x280, 0x281, 0x282].contains opcode

/-- The number of registers in the run of an LDM or STM (R194). -/
def Fields.blockCount (f : Fields) : Nat := 2 ^ (f.aux + 1)

/-- The last v register of the run that check 4 of R80 names, for LDM, STM, ACCRD and ACCWR. -/
def runLast (opcode : Nat) (f : Fields) : Nat :=
  match opcode, f.d, f.a, f.b with
  | 0x242, .v n, _, _ => n.toNat + f.blockCount - 1
  | 0x243, _, _, .v n => n.toNat + f.blockCount - 1
  | 0x383, .v n, _, _ => n.toNat + f.rowsShort - 1
  | 0x384, _, .v n, _ => n.toNat + f.rowsShort - 1
  | _, _, _, _ => 0

/-- A v operand within the allocation (R12). -/
def Operand.inRegs (regs : Nat) : Operand → Bool
  | .v n => n.toNat < regs
  | _ => true

def Operand.inAcc (acc : Nat) : Operand → Bool
  | .a n => n.toNat < acc
  | _ => true

def Operand.isQ : Operand → Bool
  | .q _ => true
  | _ => false

/-- Checks 2 to 6 of R80 and the shadow-wave checks of R260 on the fields of a listed opcode, in their order. -/
def Format.check (fm : Format) (env : Env) (f : Fields) : Option EncFault :=
  if env.isShadow && shadowBarred fm.opcode then some .illegalOpcode
  else if !fm.immOk f || (env.isShadow && spaceInAux fm.opcode && f.aux == 3) then some .reservedBits
  else if !fm.modOk f || (env.isShadow && spaceInT fm.opcode && f.t == 3) then some .illegalModifier
  else if !(fm.d.contains f.d.cls && fm.a.contains f.a.cls && fm.b.contains f.b.cls && fm.c.contains f.c.cls &&
      fm.opndOk f && f.d.inRegs env.regs && f.a.inRegs env.regs && f.b.inRegs env.regs && f.c.inRegs env.regs &&
      runLast fm.opcode f < max env.regs 1) then some .illegalOperand
  else if !(f.d.inAcc env.acc && f.a.inAcc env.acc && f.b.inAcc env.acc && f.c.inAcc env.acc) then some .accTile
  else if !env.shadowDeclared && (f.d.isQ || f.a.isQ) then some .queueWindow
  else none

end Sys2Proof
end

