-- ==== Sys2Proof/Machine/Issue.lean ====
section
/-! DEFINITION. What comes before the effect of every instruction: the checks of R80 and R81, the capability classes (R366),
the scoreboard (R214, R247), poison (R440) and signing (R149, R175); and how an instruction ends. -/

namespace Sys2Proof.Machine

/-! ### Checks of the word -/

/-- The trap cause of a failed check (R38). -/
def encCause : EncFault → Byte
  | .illegalOpcode => causeIllegalOpcode
  | .reservedBits => causeReservedBits
  | .illegalModifier => causeIllegalModifier
  | .illegalOperand => causeIllegalOperand
  | .accTile => causeAccTile
  | .queueWindow => causeQueueWindow

/-- The limits under which a group's words are checked (R12, R259). -/
def State.env (s : State) (g : Group) : Env :=
  let k := (s.site g.team).kernel
  let shadow := (s.weave (g.weaves.headD 0)).shadow
  { regs := if shadow then 16 else k.regs, acc := k.acc, shadowDeclared := k.shadowEntry.isSome, isShadow := shadow }

/-- The byte address of a slot (R82). -/
def State.slotAddr (s : State) (g : Group) (pc : Slot) : Nat :=
  let k := (s.site g.team).kernel
  (k.image + k.codeOff + 12 * pc.toNat) % 2 ^ 56

/-- A trap of every weave of the group, with the lanes it has in the group (R81). -/
def Group.allTrap (g : Group) (cause : Byte) (addr : Word64) : List TrapReq :=
  g.members.map fun e => ⟨e.1, cause, addr, e.2⟩

/-- Traps that withdraw the threads of the other weaves. -/
def Res.traps (s : State) (g : Group) (reqs : List TrapReq) : Res :=
  .trap s reqs [g.without fun u => if reqs.any fun q => q.weave = u then BitVec.allOnes 32 else 0]

/-- The instruction is withdrawn whole, but the page requests that it has posted stand (R324). -/
def Res.asks (s : State) (g : Group) : Res := .traps s g []

/-! ### Capability classes (R366) -/

/-- The class bit of an opcode. -/
def classBit (opcode : Nat) : Nat :=
  let i := opcode % 64
  match opcode / 64 with
  | 0x0 => if i = 4 ∨ i = 5 ∨ i = 6 then 29 else if i = 7 ∨ i = 8 then 30 else if i = 15 then 31 else 28
  | 0x1 => if i ≤ 4 then 32 else if i ≤ 9 then 33 else 34
  | 0x2 => 35
  | 0x3 => if i = 2 ∨ i = 3 ∨ i = 8 then 37 else 36
  | 0x4 => if i ≤ 3 then 39 else if i ≤ 6 then 40 else if i ≤ 11 then 41 else 42
  | 0x5 => if i ≤ 2 then 43 else 44
  | 0x6 => if i ≤ 2 then 45 else if i = 3 ∨ i = 6 then 46 else 47
  | 0x7 => 48
  | 0x8 => 49
  | 0x9 => 50
  | 0xA => if i ≤ 2 then 51 else 52
  | 0xB => if i = 1 then 54 else if i = 7 then 55 else 53
  | 0xC => if i ≤ 4 then 56 else if i ≤ 7 then 57 else if i ≤ 10 then 58 else 59
  | 0xD => if i = 1 then 61 else if i = 2 then 62 else 60
  | _ => 63

/-- The source code of FCVT, and the element width of a format code in it (R135). -/
def cvtSrc (f : Fields) : Nat := f.imm.toNat % 16

def cvtWidth (code : Nat) : Nat :=
  if code = 0 then 64 else if code ≤ 2 then 32 else if code ≤ 4 then 16
  else if code ≤ 8 ∨ code = 10 ∨ code = 11 then 8 else 4

/-- The † cases: the instruction computes on F64 values. -/
def usesF64 (opcode : Nat) (f : Fields) : Bool :=
  match opcode / 64 with
  | 0x3 => opcode != 0x0C8 && f.width == .d && f.t == 0
  | 0x4 =>
    if opcode = 0x100 then f.t == 0 || cvtSrc f == 0
    else if 0x107 ≤ opcode && opcode ≤ 0x10B then false
    else f.width == .d && f.t == 0
  | 0x6 => (opcode == 0x184 || opcode == 0x185) && 9 ≤ f.t.toNat && f.t.toNat ≤ 11 && f.width == .d
  | 0xA => (opcode == 0x280 || opcode == 0x282) && 9 ≤ f.t.toNat && f.width == .d
  | _ => false

/-- The core lacks a class of the instruction (R162, R366). A guard that no lane can pass raises only encoding traps (R17). -/
def State.fenced (s : State) (g : Group) (opcode : Nat) (f : Fields) : Bool :=
  let mask := (s.core (s.site g.team).core).capmask
  !(f.neg && f.guard == 7) && (!mask.getLsbD (classBit opcode) || (usesF64 opcode f && !mask.getLsbD 38))

/-! ### Scoreboard (R214, R247) -/

def scalarNamed : Operand → Option Nat
  | .s n => some n.toNat
  | _ => none

def vectorNamed : Operand → Option Nat
  | .v n => some n.toNat
  | _ => none

/-- The scalar registers a word names, the one in the immediate of MMAQ among them (R78, R254). -/
def scalarsNamed (opcode : Nat) (f : Fields) : List Nat :=
  [f.d, f.a, f.b, f.c].filterMap scalarNamed ++ if opcode = 0x342 then [f.imm.toNat % 64] else []

/-- A scalar register of a weave that waits for a token (R214). -/
def State.pendingToken (s : State) (u n : Nat) : Bool :=
  (s.copies.any fun c => c.2.active && c.2.weave = u && c.2.token = some n) ||
    s.jobs.any fun j => !j.2.ended && j.2.team = some (teamOfWeave u) && j.2.weave = u && j.2.token = some n

/-- The v registers that an instruction of one weave writes or reads as a run from an operand. -/
def runOf (o : Operand) (n : Nat) : List Nat :=
  match o with
  | .v k => span k.toNat n
  | _ => []

/-- XSPLIT, SPSEL and SPEXP write C as a second result (R134, R142). -/
def writesC (opcode : Nat) : Bool := opcode == 0x10E || opcode == 0x143 || opcode == 0x144

/-- The register that MOVV names in a lane: its D field in MOVV.st and its A field otherwise are a base, not an operand that
is written or read as such (R121). -/
def movvIndex (f : Fields) (x : Weave) (l : Nat) : Nat :=
  let base := if f.x then f.d else f.a
  match base with
  | .v n => n.toNat + (x.opnd f f.b l).toNat
  | _ => 0

def movvStores (opcode : Nat) (f : Fields) : Bool := opcode == 0x085 && f.x

/-- The operands that a word reads as sources. PREF reads its address but never traps for it (R195). -/
def sourceFields (opcode : Nat) (f : Fields) : List Operand :=
  if writesC opcode then [f.a, f.b]
  else if opcode = 0x085 then (if f.x then [f.a, f.b] else [f.b])
  else if opcode = 0x244 then []
  else [f.a, f.b, f.c]

/-- The operands that a word writes. -/
def destFields (opcode : Nat) (f : Fields) : List Operand :=
  if writesC opcode then [f.d, f.c] else if movvStores opcode f then [] else [f.d]

/-- The v registers that a word writes, and those it reads as sources, with its runs (R194, R251). -/
def destRun (opcode : Nat) (f : Fields) : List Nat :=
  if opcode = 0x242 then runOf f.d f.blockCount
  else if opcode = 0x383 then runOf f.d f.rowsShort
  else (destFields opcode f).flatMap fun o => runOf o 1

def sourceRuns (opcode : Nat) (f : Fields) : List Nat :=
  if opcode = 0x243 then runOf f.b f.blockCount
  else if opcode = 0x384 then runOf f.a f.rowsShort
  else (sourceFields opcode f).flatMap fun o => runOf o 1

/-- The v registers that the lanes of one weave write. -/
def Weave.writes (w : Weave) (opcode : Nat) (f : Fields) (act : Mask) : List Nat :=
  if movvStores opcode f then (lanesOf act).map (movvIndex f w) else destRun opcode f

/-- The accumulator tile a word names, if any. -/
def tileNamed (f : Fields) : List Nat :=
  [f.d, f.a].filterMap fun o =>
    match o with
    | .a n => some n.toNat
    | _ => none

/-- The key of a v register of a weave. -/
def regKey (u n : Nat) : Nat := u * 128 + n

/-- A matrix operation in flight holds back the word: it writes an operand register or touches the tile (R247). -/
def State.matrixHolds (s : State) (g : Group) (opcode : Nat) (f : Fields) : Bool :=
  s.mats.any fun m =>
    m.2.team = g.team &&
      ((g.weaves.any fun u =>
          ((s.weave u).writes opcode f (s.active g f u)).any fun n => m.2.reads.contains (regKey u n)) ||
        (tileNamed f).any fun t => t = m.2.tile || (m.2.pair && t = m.2.tile + 1))

/-- A register or tile that the word names stands in a claimed bank: the team-state store holds the convergence and watermark
registers (R378, R381). -/
def State.bankHolds (s : State) (g : Group) (opcode : Nat) (f : Fields) : Bool :=
  let named := [f.d, f.a, f.b, f.c]
  !(s.core (s.team g.team).core).claims.isEmpty &&
    ((g.weaves.any fun u =>
        (sourceRuns opcode f ++ (s.weave u).writes opcode f (s.active g f u)).any fun n => s.claimHolds g.team (.vreg u n)) ||
      ((tileNamed f).any fun t => s.tileClaimed g.team t) ||
      (named.any fun o =>
        match o with
        | .c _ | .w _ => s.claimHolds g.team .control
        | _ => false))

/-- The scoreboard holds the group back, or a claimed bank does. -/
def State.scoreboard (s : State) (g : Group) (opcode : Nat) (f : Fields) : Bool :=
  let weaves := if opcode / 64 = 0xD then g.weaves else s.represented g f
  (weaves.any fun u => (scalarsNamed opcode f).any fun n => s.pendingToken u n) || s.matrixHolds g opcode f ||
    s.bankHolds g opcode f

/-! ### Poison in registers (R440) -/

/-- The instruction keeps a part of D's old value in each lane it writes, so that its write is partial under any mask: the
sub-element form of MOV, MOVI.hi, a narrowing CVTI or FCVT, QPACK (R39, R103, R119, R123, R135, R144). MOV.d replaces the whole
of D (log entry 112). -/
def alwaysMerges (opcode : Nat) (f : Fields) : Bool :=
  if opcode = 0x082 then f.x && f.width != .d
  else if opcode = 0x083 then f.x
  else if opcode = 0x088 then (Width.ofCode (f.t.extractLsb' 0 2)).bits < f.width.bits
  else if opcode = 0x100 then cvtWidth f.t.toNat < cvtWidth (cvtSrc f)
  else opcode = 0x140

/-- The operand code of the first poisoned register that the instruction would consume in one weave. -/
def Weave.poisonedOperand (w : Weave) (opcode : Nat) (f : Fields) (act : Mask) : Option Nat :=
  let reads := (sourceRuns opcode f).filter w.poisonV.contains
  let kept := if alwaysMerges opcode f then [f.d] else []
  let scalars := ((sourceFields opcode f ++ kept).filterMap scalarNamed).filter w.poisonS.contains
  let merged := if act = w.live && !alwaysMerges opcode f then [] else (destRun opcode f).filter w.poisonV.contains
  match reads, scalars, merged with
  | n :: _, _, _ => some n
  | [], n :: _, _ => some (0x80 + n)
  | [], [], n :: _ => some n
  | [], [], [] => none

/-- The weaves that would consume a poisoned register. A matrix operation looks at its operand runs itself (R244). -/
def State.registerPoison (s : State) (g : Group) (opcode : Nat) (f : Fields) : List TrapReq :=
  if opcode / 64 = 0xD then [] else
  (s.represented g f).filterMap fun u =>
    let act := s.active g f u
    ((s.weave u).poisonedOperand opcode f act).map fun code => ⟨u, causePoison, BitVec.ofNat 64 code, act⟩

/-! ### Signing (R149, R175) -/

/-- The convergent instructions: group 0x6, the matrix group and SIGN. -/
def convergent (opcode : Nat) : Bool := opcode / 64 == 0x6 || opcode / 64 == 0xD || opcode == 0x201

def convNamed : Operand → Option Nat
  | .c n => some n.toNat
  | _ => none

def State.conv (s : State) (t n : Nat) : Conv := Map.at (s.team t).conv {} n

def State.setConv (s : State) (t n : Nat) (c : Conv) : State := s.changeTeam t fun m => { m with conv := Map.put m.conv n c }

/-- The lanes of a weave that may not sign at a slot. -/
def Conv.refused (c : Conv) (weaveId : Nat) (m : Mask) (pc : Slot) : Mask :=
  if c.hweave.toNat ≠ weaveId ∨ (c.signed ≠ 0 ∧ c.slot ≠ pc) then m else m &&& ~~~c.members

/-- The lanes of each weave of a group that may not sign, and the group of the others. -/
def State.mayNotSign (s : State) (g : Group) (n : Nat) : List (Nat × Mask) :=
  (g.members.map fun e => (e.1, (s.conv g.team n).refused (s.weave e.1).weaveId e.2 g.pc)).filter fun e => e.2 != 0

/-- What signing comes to. -/
inductive Signing where
  /-- the set is not complete: the threads are held -/
  | hold (s : State)
  /-- the last member has signed: the set issues (R149) -/
  | issue (s : State) (g : Group)

/-- The threads of a group, all of them members, sign. The set that issues is the whole of MEMBERS: a member that signed and then
went elsewhere through a trap leaves there (R149, R151). -/
def State.sign (s : State) (g : Group) (n : Nat) : Signing :=
  let t := g.team
  let c := s.conv t n
  let signed := g.members.foldl (fun m e => m ||| e.2) c.signed
  let s := s.setConv t n { c with signed := signed, slot := g.pc }
  let u := weaveUid t c.hweave.toNat false
  if signed = c.members then .issue (s.unplace u c.members) { members := [(u, c.members)], pc := g.pc } else .hold s

/-- The set issues: SIGNED clears and GEN advances in the same clock (R22). -/
def State.clearSigned (s : State) (t n : Nat) : State :=
  let c := s.conv t n
  s.setConv t n { c with signed := 0, gen := c.gen + 1 }

/-- The signatures of a completed convergent instruction are cleared; one that traps or stalls leaves them (R151). -/
def Res.cleared (r : Res) (t n : Nat) : Res :=
  match r with
  | .done s next => .done (s.clearSigned t n) next
  | other => other

/-! ### What may issue -/

/-- The lanes of a weave that nothing holds (R170, R261). -/
def Weave.free (w : Weave) : Mask := if w.partnerHeld then 0 else w.live &&& ~~~w.held

/-- The gang may issue: placed, not held, no request in effect, and its context's time has come (R30, R262, R358, R376). -/
def State.gangReady (s : State) (g : Nat) : Bool :=
  let k := s.gang g
  k.counts && !k.stopped && k.draining.isNone && (s.slice (s.sub k.sub).slice).notBefore ≤ s.ptime

/-- The part of a group that may issue. -/
def State.freePart (s : State) (g : Group) : Group :=
  if s.gangReady (s.team g.team).gang then g.without fun u => ~~~(s.weave u).free else { g with members := [] }

/-- The part of a group that issues in the clock it was taken for. What issues in one clock issues together: a gang that
another of its weaves has parked or held in this clock issues no less in it (R335, R440). -/
def State.takenPart (s : State) (g : Group) : Group :=
  if (s.gang (s.team g.team).gang).stands then g.without fun u => ~~~(s.weave u).free else { g with members := [] }

/-! ### Running one instruction -/

/-- The effect of an instruction on the machine, given the group that executes it. -/
abbrev Body := State → Group → Res

/-- The instructions of the weave form (R204). -/
def weaveForms (opcode : Nat) : Bool := opcode / 64 == 0xB || opcode / 64 == 0xC

/-- A trap of each weave with an active lane, with those lanes; without one the body runs (R123). -/
def trapActive (s : State) (g : Group) (f : Fields) (cause : Byte) (addr : Word64) : Res :=
  match (s.represented g f).map fun u => (⟨u, cause, addr, s.active g f u⟩ : TrapReq) with
  | [] => .done s g.next
  | q :: qs => .trap s (q :: qs) [(g.without fun u => if (s.active g f u) = 0 then 0 else BitVec.allOnes 32).at_ (g.pc + 1)]

/-- The steps before the effect, in their order (R80, R103, R162): the word, the capability classes, the scoreboard, poison. Where
POISON_CONSUMED stands against PRIVILEGE and the limits of CVTI, FCVT and QPACK is the model's choice (log entry 72).
The manual gives CAPABILITY_FENCED a TRAPADDR only in the matrix group (R244). -/
def beforeBody (fm : Format) (f : Fields) (s : State) (g : Group) (body : Body) : Res :=
  match fm.check (s.env g) f with
  | some e => .traps s g (g.allTrap (encCause e) (BitVec.ofNat 64 (s.slotAddr g g.pc)))
  | none =>
    if s.fenced g fm.opcode f then
      let (a, s) := if fm.opcode / 64 = 0xD then (0, s) else s.free
      if weaveForms fm.opcode then trapActive s g f causeFenced a else .traps s g (g.allTrap causeFenced a)
    else if s.scoreboard g fm.opcode f then .stall
    else
      match s.registerPoison g fm.opcode f with
      | q :: qs => .traps s g (q :: qs)
      | [] => body s g

/-- MOVS reads A in one lane, and MOVV reads other registers than the one it names: not every thread reads A (R40, R120,
R121). A matrix operation marks A itself, where it reads it (R246, R248). -/
def readsApart (opcode : Nat) : Bool := opcode == 0x084 || opcode == 0x085 || opcode / 64 == 0xD

/-- The state marked with the DEAD hint, which the body's own writes may undo (R40). -/
def State.markDead (s : State) (g : Group) (opcode : Nat) (f : Fields) : State :=
  s.eachWeave g fun _ m w => if readsApart opcode then w else w.hintDead f (if convergent opcode then m else w.active f m)

/-- The marks of an instruction taken back in the weaves that withdraw it. -/
def State.unmarkDead (s old : State) (g : Group) (completed : List Nat) : State :=
  s.eachWeave g fun u _ w => if completed.contains u then w else { w with dead := (old.weave u).dead }

/-- A gate on what the instruction would leave: a die holds 256 waiting records at most (R326). -/
def State.roomFor (s : State) : Bool := s.reportsFit

/-- A group at its own slot again, not ready. -/
def Group.withdrawn (g : Group) : Group := { g with stalled := true, picked := none }

/-- The end of an instruction: `old` is the state before it, with the group that issues. -/
def Res.end_ (r : Res) (old : State) (g : Group) (opcode : Nat) (f : Fields) : Host.Outcome State Fault Refusal :=
  match r with
  | .done s next => .next (if s.roomFor then (s.retire g f).finish next else old.finish [g.withdrawn])
  | .trap s reqs next =>
    let completed := next.filter fun n => n.pc != g.pc && !n.members.isEmpty
    let t := (s.unmarkDead old g (completed.flatMap Group.weaves)).takeTraps g reqs (accessFlags opcode)
    let next := next.map fun n => if n.pc = g.pc then n.withdrawn else n
    .next (if old.framesFree reqs && t.roomFor then (completed.foldl (fun t n => t.retire n f) t).finish next else old.finish [g.withdrawn])
  | .stall => .next (old.finish [g.withdrawn])

/-- LD.acq, ACAS and WAITV yield while another gang of the slice stands pre-empted by an in-field test (R449). -/
def State.hinted (s : State) (g : Group) (opcode : Nat) (f : Fields) : Fields :=
  let e := s.site g.team
  let waits : Bool := (opcode = 0x240 && f.rm = 1) || opcode = 0x281 || opcode = 0x284
  let moved := s.gangs.any fun k =>
    k.1 ≠ e.gang && k.2.forTest && k.2.saved.isSome && (s.sub k.2.sub).slice = e.slice
  if waits && moved then { f with yieldHint := true } else f

/-- One instruction of a group whose threads need not sign. -/
def runPlain (fm : Format) (f : Fields) (s : State) (g : Group) (body : Body) : Host.Outcome State Fault Refusal :=
  (beforeBody fm f (s.markDead g fm.opcode f) g body).end_ s g fm.opcode (s.hinted g fm.opcode f)

/-- The traps of the threads of a group that may not sign (R151, R175). -/
def State.signingTraps (s : State) (g : Group) (n : Nat) : List TrapReq :=
  (s.mayNotSign g n).map fun e => ⟨e.1, causeIllegalOperand, BitVec.ofNat 64 (0xC8 + n), e.2⟩

/-- The members among the arriving threads sign; the others trap (R175), under the guard ?!p7 too (log entry 111). A set whose weave a trap has just taken into its
handler is complete but held: it issues when it is free again (R170). -/
def State.signSome (s : State) (g : Group) (n : Nat) : Signing :=
  match s.mayNotSign g n with
  | [] => s.sign g n
  | bad =>
    let good := g.without fun u => Map.at bad 0 u
    let signed := if good.members.isEmpty then .hold s else s.sign good n
    let trap := fun (t : State) => t.takeTraps { members := bad, pc := g.pc } (s.signingTraps g n) fun _ => 0
    match signed with
    | .hold t => .hold (trap t)
    | .issue t whole =>
      let t := trap t
      if (t.takenPart whole).members = whole.members then .issue t whole
      else .hold { t with groups := t.groups ++ [whole] }

/-- Signing, and what a completed set does: `issue` in the clock of the last signature (R149). Without room for the records of
the traps, or while a frame must wait, nothing has happened (R317, R326). -/
def State.signThen (s : State) (g : Group) (n : Nat) (issue : State → Group → Host.Outcome State Fault Refusal) :
    Host.Outcome State Fault Refusal :=
  if !s.framesFree (s.signingTraps g n) then .next (s.finish [g.withdrawn])
  else match s.signSome g n with
  | .hold t => .next (if t.roomFor then t.finish [] else s.finish [g.withdrawn])
  | .issue t whole => if t.roomFor then issue t whole else .next (s.finish [g.withdrawn])

/-- One convergent instruction: the arriving threads sign, and the last signature issues it for the whole set. -/
def runConvergent (fm : Format) (f : Fields) (n : Nat) (s : State) (g : Group) (body : Body) :
    Host.Outcome State Fault Refusal :=
  s.signThen g n fun t whole =>
    (beforeBody fm f (t.markDead whole fm.opcode f) whole fun s g => (body s g).cleared g.team n).end_ t whole fm.opcode f

/-- Runs the instruction of the issuing group. -/
def run (i : Instr) (f : Fields) (body : Body) (s : State) : Host.Outcome State Fault Refusal :=
  match s.issuing, i.format with
  | some g, some fm =>
    match convergent fm.opcode, convNamed f.c with
    | true, some n => runConvergent fm f n s g body
    | _, _ => runPlain fm f s g body
  | _, _ => .fault .noIssueGroup

end Sys2Proof.Machine
end

