-- ==== Sys2Proof/Machine/Operands.lean ====
section
/-! DEFINITION. Operand forms: sub-elements (R14), immediates spread over them (R102), the scalar and the lane-wise form (R19,
R101). -/

namespace Sys2Proof.Machine

/-! ### Sub-elements -/

/-- A lane's value of an operand that is read as sub-elements of width W. -/
def Weave.elemOpnd (x : Weave) (f : Fields) (o : Operand) (w l : Nat) : Word64 :=
  match o with
  | .imm => spreadImm f.imm w
  | _ => x.opnd f o l

/-! ### The two forms (R19, R101) -/

/-- The destination changes in a lane-wise form through `val`, in the scalar form through `val 0`; nothing else does. -/
def computed (f : Fields) (val : Weave → Nat → Word64) : Body := fun s g =>
  .done (s.eachWeave g fun _ m w => w.dest f.d (w.active f m) (val w) (val w 0)) g.next

/-- A whole-value operation of up to three sources. -/
def wholeOp (f : Fields) (op : Word64 → Word64 → Word64 → Word64) : Body :=
  computed f fun w l => op (w.opnd f f.a l) (w.opnd f f.b l) (w.opnd f f.c l)

/-- An operation on each sub-element of width W of up to three sources. -/
def elemOp (f : Fields) (op : Nat → Nat → Nat → Nat) : Body :=
  let w := f.width.bits
  computed f fun x l =>
    let a := x.elemOpnd f f.a w l
    let b := x.elemOpnd f f.b w l
    let c := x.elemOpnd f f.c w l
    packElems w (fun k => op (elem a w k) (elem b w k) (elem c w k)) f.width.count

/-- The shared body of R102. -/
def intOp (f : Fields) (unsigned : Bool) (op : Int → Int → Int → Int) : Body :=
  let w := f.width.bits
  elemOp f fun a b c => fit w unsigned f.sat (op (number unsigned w a) (number unsigned w b) (number unsigned w c))

/-- The unsigned selection U of R104. -/
def unsignedT (f : Fields) : Bool := f.t == 1

/-- A write to a predicate in the active lanes, beside a write to D. -/
def computedPair (f : Fields) (p : Operand) (val : Weave → Nat → Word64) (flag : Weave → Nat → Bool) : Body := fun s g =>
  .done (s.eachWeave g fun _ m w =>
    let act := w.active f m
    (w.dest f.d act (val w) (val w 0)).dest p act (fun l => if flag w l then 1 else 0) 0) g.next

/-- A trap of each weave with an active lane whose address no rule gives. -/
def trapOpen (s : State) (g : Group) (f : Fields) (cause : Byte) : Res :=
  let (a, s) := s.free
  trapActive s g f cause a

end Sys2Proof.Machine
end

