-- ==== Sys2Proof/Machine/Flags.lean ====
section
/-! DEFINITION. The floating formats that W and T select (R125), floating operands (R126) and the shared body of floating
arithmetic (R127). The device keeps no flags (R59); what a flag would tell is in these results. -/

namespace Sys2Proof.Machine

/-! ### The formats that W and T select (R125) -/

/-- The format "fmt". -/
def fmtOf (f : Fields) : FloatFmt :=
  match f.width with
  | .d => f64Fmt
  | .w => f32Fmt
  | _ => if f.t = 1 then b16Fmt else h16Fmt

/-- A lane's value of a floating operand, an immediate standing for the same value in every sub-element (R126). -/
def Weave.floatOpnd (x : Weave) (f : Fields) (o : Operand) (w l : Nat) : Word64 :=
  match o with
  | .imm =>
    if w = 64 then BitVec.ofNat 64 (f64Fmt.round 0 false (f32Fmt.value f.imm.toNat))
    else packElems w (fun _ => f.imm.toNat % 2 ^ w) (64 / w)
  | _ => x.opnd f o l

/-- The shared body of R127 on codes of "fmt". -/
def floatOp (f : Fields) (op : Nat → Nat → Nat → Nat) : Body :=
  let w := f.width.bits
  computed f fun x l =>
    let a := x.floatOpnd f f.a w l
    let b := x.floatOpnd f f.b w l
    let c := x.floatOpnd f f.c w l
    packElems w (fun k => op (elem a w k) (elem b w k) (elem c w k)) f.width.count

end Sys2Proof.Machine
end

