-- ==== Sys2Proof/Machine/Barriers.lean ====
section
/-! DEFINITION. Barrier objects (R225 to R230, R299 to R302), sharing groups (R35, R231), and the weave form of groups 0xB and
0xC (R204). -/

namespace Sys2Proof.Machine

/-! ### Barrier objects -/

/-- The fields of a barrier object (R299); `flags` are the bits from 108 up. -/
structure Barrier where
  gen : Nat := 0
  pending : Nat := 0
  expected : Nat := 0
  inbound : Int := 0
  outbound : Int := 0
  flags : Nat := 0
  deriving DecidableEq, Repr

/-- The object that 128 bits hold. -/
def Barrier.ofNat (n : Nat) : Barrier :=
  { gen := bits n 3 0, pending := bits n 23 4, expected := bits n 43 24, inbound := signed 32 (bits n 75 44)
    outbound := signed 32 (bits n 107 76), flags := bits n 127 108 }

/-- The 128 bits of an object. -/
def Barrier.toNat (b : Barrier) : Nat :=
  b.gen + b.pending * 2 ^ 4 + b.expected * 2 ^ 24 + wrapInt 32 b.inbound * 2 ^ 44 + wrapInt 32 b.outbound * 2 ^ 76 +
    b.flags * 2 ^ 108

/-- A broken object (R226). -/
def Barrier.broken (b : Barrier) : Bool := b.gen = 15

/-- The object that an update breaks: GEN becomes 0xF, and its counts have values that the manual does not state (R226). -/
def Barrier.break_ (old : Barrier) : Barrier :=
  let x := Config.brokenCounts old.toNat
  { old with gen := 15, pending := (x.extractLsb' 0 20).toNat, inbound := (x.extractLsb' 20 32).toInt, outbound := (x.extractLsb' 52 32).toInt }

/-- The test after each update of an object `old` (R226): a count out of its range breaks the barrier, or the phase
completes. -/
def Barrier.tested (old b : Barrier) : Barrier :=
  if outOfRange 32 false b.inbound || outOfRange 32 false b.outbound then old.break_
  else if b.gen ≠ 15 ∧ b.pending = 0 ∧ b.inbound = 0 ∧ b.outbound = 0 then
    { b with gen := (b.gen + 1) % 15, pending := b.expected }
  else b

/-- An arrival with a count (R228). -/
def Barrier.arrive (b : Barrier) (count : Nat) : Barrier :=
  if b.broken || count = 0 then b
  else if b.pending < count then b.break_
  else b.tested { b with pending := b.pending - count }

/-- BARRX: an expectation and an arrival in one update (R228). That an arrival count of 0 changes nothing is read of the arrival
alone: the expectation is still added (log entry 75). -/
def Barrier.expect (b : Barrier) (out : Bool) (units count : Nat) : Barrier :=
  if b.broken || (units = 0 && count = 0) then b
  else
    let x := if out then { b with outbound := b.outbound + units } else { b with inbound := b.inbound + units }
    if b.pending < count then b.break_ else b.tested { x with pending := x.pending - count }

/-- A countdown of a copy or a job (R217, R223). -/
def Barrier.countDown (b : Barrier) (out : Bool) (units : Nat) : Barrier :=
  if b.broken || units = 0 then b
  else if out then b.tested { b with outbound := b.outbound - units }
  else b.tested { b with inbound := b.inbound - units }

/-- BINIT (R227). -/
def Barrier.start (count : Nat) : Barrier := { gen := 0, pending := count, expected := count, flags := 1 }

/-- The object at a cell. -/
def State.barrier (s : State) (cell : Nat) : Barrier := .ofNat (Memory.readNat s.mem cell 16)

/-- An indivisible update of the object at a cell (R226). An update that changes nothing writes nothing. -/
def State.updateBarrier (s : State) (cell : Nat) (g : Barrier → Barrier) : State :=
  let b := s.barrier cell
  if g b = b then s else s.putOnChip cell (bytesOfNat 16 (g b).toNat)

/-- The countdown units of a transfer of which `before`, then `after` bytes have passed, `total` in all: one for each 128
bytes, and one for a final part (R217, R223). -/
def unitsBetween (before after total : Nat) : Nat :=
  let whole := fun n => if n = total then (n + 127) / 128 else n / 128
  whole after - whole before

/-! ### Sharing groups (R35, R231) -/

/-- The CGEN value of a team (R35). -/
def State.cgen (s : State) (t : Nat) : Word64 :=
  let e := s.site t
  let w := s.window e
  let m := if (s.team t).joined then w.members else 0
  BitVec.ofNat 64 ((s.team t).index / 32 * 2 ^ 56 + w.gen.toNat * 2 ^ 32 + m.toNat)

/-- A team joins or leaves its window's group; the generation advances by one. -/
def State.membership (s : State) (t : Nat) (joins : Bool) : State :=
  let i := (s.team t).index
  if (s.team t).joined = joins then s
  else
    let s := s.changeTeam t fun m => { m with joined := joins }
    s.changeGang (s.team t).gang fun k =>
      let w := Map.at k.windows {} (i / 32)
      let members := if joins then w.members ||| laneBit (i % 32) else w.members &&& ~~~laneBit (i % 32)
      { k with windows := Map.put k.windows (i / 32) { gen := w.gen + 1, members := members } }

/-! ### Parked waits (R219, R229, R231, R237, R262) -/

/-- The key of a wait: the slot and the lanes that wait. -/
def waitKey (pc : Slot) (act : Mask) : Nat := pc.toNat * 2 ^ 32 + act.toNat

/-- A wait of a weave begins at a cell, or is over. -/
def Weave.waitOn (w : Weave) (key cell : Nat) : Weave := { w with bwaits := Map.put w.bwaits key (cell, false) }
def Weave.leaveWait (w : Weave) (key : Nat) : Weave := { w with bwaits := Map.drop w.bwaits key }

/-- Lanes of a weave of an issue group park, unless they are parked already. The instruction that parks them issues: their
watchdog counts restart (R262, R339). -/
def State.parkOn (s : State) (g : Group) (u key : Nat) (m : Mask) (cell : Nat) : State :=
  if (Map.find (s.weave u).bwaits key).isSome then s
  else
    let now := (s.gang (s.team g.team).gang).lived
    s.changeWeave u fun w => (w.waitOn key cell).restart m now

/-! ### The weave form (R204) -/

/-- What the instruction comes to in one weave. -/
inductive One where
  | ok (s : State)
  | trap (s : State) (q : TrapReq)
  /-- it waits, perhaps with a record of the wait -/
  | wait (s : State)

/-- The instruction in each represented weave in turn: the state, the traps, and the weaves that wait. -/
def weaveFormFrom (f : Fields) (one : State → Group → Nat → Mask → One) (g : Group) :
    List Nat → State → State × List TrapReq × List Nat
  | [], s => (s, [], [])
  | u :: rest, s =>
    match one s g u (s.active g f u) with
    | .ok s => weaveFormFrom f one g rest s
    | .trap s q =>
      let (s, qs, ws) := weaveFormFrom f one g rest s
      (s, q :: qs, ws)
    | .wait s =>
      let (s, qs, ws) := weaveFormFrom f one g rest s
      (s, qs, u :: ws)

/-- The weave form. A weave that must wait stays at the slot, one that traps does so on its own, and the others go on (R204,
R262, R334). -/
def weaveForm (f : Fields) (one : State → Group → Nat → Mask → One) : Body := fun s g =>
  let (s, reqs, waiting) := weaveFormFrom f one g (s.represented g f) s
  if reqs.isEmpty && waiting.isEmpty then .done s g.next
  else
    let stays := fun u => waiting.contains u || reqs.any fun q => q.weave = u
    .trap s reqs
      [(g.without fun u => if stays u then BitVec.allOnes 32 else 0).at_ (g.pc + 1),
        g.without fun u => if waiting.contains u then 0 else BitVec.allOnes 32]

/-- What the represented weaves would trap with, each on the state as it stands, and whether one of them waits. -/
def trapsOfAll (f : Fields) (one : State → Group → Nat → Mask → One) (g : Group) : List Nat → State → State × List TrapReq × Bool
  | [], s => (s, [], false)
  | u :: rest, s =>
    match one s g u (s.active g f u) with
    | .ok _ => trapsOfAll f one g rest s
    | .wait _ =>
      let (s, qs, _) := trapsOfAll f one g rest s
      (s, qs, true)
    | .trap s q =>
      let (s, qs, w) := trapsOfAll f one g rest s
      (s, q :: qs, w)

/-- Once for each represented weave, completed whole or withdrawn whole (R162): where a weave traps, the threads of the others
are withdrawn. -/
def wholeForm (f : Fields) (one : State → Group → Nat → Mask → One) : Body := fun s g =>
  match trapsOfAll f one g (s.represented g f) s with
  | (t, q :: qs, _) => .traps t g (q :: qs)
  | (_, [], true) => .stall
  | (_, [], false) => .done (weaveFormFrom f one g (s.represented g f) s).1 g.next

/-- The first trap of a list of checks, for one weave. -/
def firstTrap (checks : List (Option TrapReq)) : Option TrapReq := checks.findSome? id

end Sys2Proof.Machine
end

