-- ==== Sys2Proof/Machine/Engines.lean ====
section
/-! DEFINITION. How copies and jobs end: tokens, watermark registers, dependence counters (R24, R213 to R223, R272, R297,
R347). -/

namespace Sys2Proof.Machine

/-! ### Statuses (R213) -/

def statusDone : Nat := 0x01
def statusSkipped : Nat := 0x02
def statusFault : Nat := 0x10
def statusPoison : Nat := 0x11
def statusCancelled : Nat := 0x12
def statusCard : Nat := 0x13

/-- A token (R213). -/
def token (status landed skipped : Nat) : Word64 := BitVec.ofNat 64 (status + landed * 2 ^ 8 + skipped * 2 ^ 40)

/-- The team's gang stands saved: its registers and memories are in its save area, or about to go there (R221, R270). -/
def State.isSaved (s : State) (t : Nat) : Bool := s.isSavedGang (s.team t).gang

/-- A token written into the scalar register that waits for it; the registers of a wave outlive its threads (R214). The token of
a job that ends while the team is saved is written when the team stands again (R377). -/
def State.giveToken (s : State) (u : Nat) (reg : Option Nat) (x : Word64) : State :=
  match reg with
  | none => s
  | some n =>
    if s.isSaved (teamOfWeave u) then s.changeWeave u fun w => { w with late := w.late ++ [(n, x)] }
    else s.changeWeave u fun w => w.swrite n x

/-! ### Copies -/

/-- The watermark registers that a copy advances, brought up to it (R24, R216). -/
def State.mark (s : State) (c : Copy) : State :=
  let w : Watermark :=
    { slot := BitVec.ofNat 6 c.slot, failed := c.failed, frozen := c.frozen, active := c.active
      landed := BitVec.ofNat 32 c.landed }
  c.targets.foldl (fun s t => s.changeTeam t fun m => { m with wm := Map.put m.wm c.wm w }) s

/-- A copy with its record and registers replaced. -/
def State.putCopy (s : State) (k : Nat) (c : Copy) : State := ({ s with copies := Map.put s.copies k c }).mark c

/-- A copy completes with a status: its registers go inactive, its token is written, and a failed one keeps its slot (R211,
R212, R297). A staging copy has no token (R372). -/
def State.endCopy (s : State) (k : Nat) (status : Nat) : State :=
  match Map.find s.copies k with
  | none => s
  | some c =>
    let failed := 0x10 ≤ status
    let x := token status c.landed c.skipped.toNat
    let c := { c with active := false, frozen := false, failed := failed }
    let s := s.mark c
    let tokens := fun old : Map Word64 => if c.ranges.isEmpty then Map.put old c.wm x else Map.drop old c.wm
    let s := c.targets.foldl (fun s t => s.changeTeam t fun m => { m with tokens := tokens m.tokens }) s
    let s := s.giveToken c.weave c.token x
    { s with copies := if failed then Map.put s.copies k c else Map.drop s.copies k }

/-- A team leaves the copies: its own are cancelled with their tokens discarded, and no copy lands in it any more (R221,
R272). -/
def State.dropCopies (s : State) (t : Nat) : State :=
  let mine := (s.copies.filter fun c => c.2.team = t && c.2.active).map Prod.fst
  let s := { s with copies := s.copies.map fun c : Nat × Copy => if c.2.team = t then (c.1, { c.2 with token := none }) else c }
  let s := mine.foldl (fun s k => s.endCopy k statusCancelled) s
  let copies := s.copies.map fun c : Nat × Copy => (c.1, { c.2 with targets := setDrop c.2.targets t })
  { s with copies := copies.filter fun c : Nat × Copy => c.2.active || !c.2.targets.isEmpty }

/-! ### Dependence counters (R347) -/

def counterKey (fn k : Nat) : Nat := fn * 65536 + k

def State.counter (s : State) (key : Nat) : Int := (Map.at s.counters 0 key).toInt

def State.setCounter (s : State) (key : Nat) (v : Int) : State :=
  { s with counters := if v = 0 then Map.drop s.counters key else Map.put s.counters key (BitVec.ofInt 32 v) }

/-- A decrement, clamped at −2^31. -/
def State.decrement (s : State) (key : Nat) : State := s.setCounter key (max (-2 ^ 31) (s.counter key - 1))

/-! ### Jobs (R222, R223) -/

/-- A field of a card. -/
def Job.num (j : Job) (off size : Nat) : Nat := natOfBytes ((j.card.drop off).take size)

/-- A job ends: its counter is decremented, which makes its launch irrevocable (R434), and its token written. A job of a bundle stays, to be counted there. -/
def State.endJob (s : State) (k : Nat) (status : Nat) : State :=
  match Map.find s.jobs k with
  | none => s
  | some j =>
    let counter := j.num 0x30 8
    let s := if bit counter 63 && counter % 65536 < (s.fn j.fn).counters then
        (s.decrement (counterKey j.fn (counter % 65536))).changeSlice j.slice fun l => { l with irrevocable := true }
      else s
    let s := if j.team.isSome then s.giveToken j.weave j.token (token status j.done 0) else s
    if j.sub.isSome then
      { s with jobs := Map.put s.jobs k { j with ended := true, status := BitVec.ofNat 8 status } }
    else { s with jobs := Map.drop s.jobs k }

/-- A team's jobs cancelled, their tokens discarded (R221, R223). -/
def State.dropJobs (s : State) (t : Nat) : State :=
  let mine := (s.jobs.filter fun j => j.2.team = some t).map Prod.fst
  let s := { s with jobs := s.jobs.map fun j : Nat × Job => if j.2.team = some t then (j.1, { j.2 with token := none }) else j }
  mine.foldl (fun s k => s.endJob k statusCancelled) s

end Sys2Proof.Machine
end

