-- ==== Sys2Proof/Machine/Teams.lean ====
section
/-! DEFINITION. How threads, teams and gangs end (R16, R23, R166, R272 to R274). -/

namespace Sys2Proof.Machine

/-- The cells that belong to a team: its scratchpad, contribution, operand buffer and slices (R272). -/
def ownedBy (t : Nat) (a : Nat) : Bool :=
  match ownerOf a with
  | none => false
  | some (r, o) => if r = Region.slice.code then o / 4096 = t else r != Region.chip.code && o = t

/-- Step 5 of R272 for the memories: they are zeroed, and their lines are sound and unwritten. -/
def State.zeroTeam (s : State) (t : Nat) : State :=
  { s with
    mem := s.mem.filter fun c => !ownedBy t c.1
    poison := s.poison.filter fun ln => !ownedBy t (ln * 128)
    dirtyLines := s.dirtyLines.filter fun ln => !ownedBy t (ln * 128)
    savedLines := s.savedLines.filter fun ln => !ownedBy t (ln * 128) }

/-- Waiters in BWAIT on a place of the contribution of a team will wake broken (R229, R272). -/
def State.breakWaits (s : State) (t : Nat) : State :=
  let mine := fun a => ownerOf a == some (Region.cluster.code, t)
  { s with weaves := s.weaves.map fun w =>
      (w.1, { w.2 with bwaits := w.2.bwaits.map fun x => if mine x.2.1 then (x.1, (x.2.1, true)) else x }) }

/-- The L2 bytes that a staging record reserves (R371). -/
def WorkingSet.reserve (r : WorkingSet) : Nat := (r.bytes + 127) / 128 * 128

/-- The L2 reservations of a sub-launch released (R374). A record that was refused stays so for the dispatch (R371). -/
def State.dropStaged (s : State) (n : Nat) : State :=
  let u := s.sub n
  let held := ((u.staging.filter fun x => x.2 ≠ 0).map fun x => ((u.sets[x.1]?).map WorkingSet.reserve).getD 0).sum
  if held = 0 && u.staging.isEmpty then s
  else
    (s.changePart (s.fn (s.slice u.slice).fn).part fun p => { p with staged := p.staged - held }).changeSub n fun u =>
      { u with staging := u.staging.filter fun x => x.2 = 0, lines := [] }

/-- The same at the end of a dispatch: each record is tried again at the next. -/
def State.endStaging (s : State) (n : Nat) : State := (s.dropStaged n).changeSub n fun u => { u with staging := [] }

/-- The last team of a sub-launch has ended: its reservations are released, and it stages no more (R374). -/
def State.closeStaging (s : State) (n : Nat) : State :=
  (s.endStaging n).changeSub n fun u => { u with staging := (List.range u.sets.length).map fun r => (r, 0) }

/-- A gang leaves its cores: what its teams still hold there goes, and claims that have not begun to be spilled (R274, R380). -/
def State.releaseGang (s : State) (g : Nat) : State :=
  let gone := (s.teams.filter fun t => t.2.gang = g).map Prod.fst
  { s with cores := s.cores.map fun c : Nat × Core =>
    (c.1, ({ c.2 with holdings := c.2.holdings.filter fun h => !gone.contains h.team } : Core).dropClaims g) }

/-- A gang retires when its last team has ended (R274). -/
def State.retireGang (s : State) (g : Nat) : State :=
  if s.teams.any fun t => t.2.gang = g && !t.2.ended then s
  else if (s.gang g).state = .retired then s
  else
    let s := s.changeGang g fun k => { k with state := .retired, cores := [], pdis := none, requested := false, report := none }
    let now := s.clock
    let s := s.changeSub (s.gang g).sub fun u => { u with gangsDone := u.gangsDone + 1, retiredAt := now }
    let u := s.sub (s.gang g).sub
    let s := if u.gangs ≤ u.gangsDone then s.closeStaging (s.gang g).sub else s
    s.releaseGang g

/-- R272: the steps at the end of a team, before its gang is asked. Its registers stay its gang's (R274); with the last team of its
gang on the core go the gang's claims there whose spill has not begun (R380). -/
def State.clearTeam (s : State) (t : Nat) : State :=
  let c := (s.team t).core
  let s := (s.dropCopies t).dropJobs t
  let s := s.breakWaits t
  let s := s.membership t false
  let s := (s.zeroTeam t).unfile t
  let s := s.changeTeam t fun m =>
    { m with conv := [], wm := [], fifos := [], tiles := [], poisonRows := [], dirtyRows := [], savedRows := [], tokens := []
             reservations := [], pinsL1 := [], pinsL2 := [], savedFifos := [], owed := [], gone := [], stateHeld := false
             ended := true }
  let groups := s.groups.map fun x : Group => x.without fun u => if teamOfWeave u = t then BitVec.allOnes 32 else 0
  let g := (s.team t).gang
  let s := if (s.standingTeams c).any fun x => x.2.gang = g then s else s.changeCore c fun k => k.dropClaims g
  let s := { s with
    cores := s.cores.map fun c : Nat × Core => (c.1, c.2.release t fun a => a != CoreArray.registers)
    weaves := s.weaves.filter fun w => teamOfWeave w.1 ≠ t
    mats := s.mats.filter fun m => m.2.team ≠ t
    groups := groups.filter fun x : Group => !x.members.isEmpty }
  s.trimMonitors c

/-- A team ends (R272). -/
def State.endTeam (s : State) (t : Nat) : State := (s.clearTeam t).retireGang (s.team t).gang

/-- A team ends when no thread of it is left (R272). -/
def State.endIfVacant (s : State) (t : Nat) : State :=
  if (s.team t).ended || s.weaves.any fun w => teamOfWeave w.1 = t && w.2.live != 0 then s else s.endTeam t

/-- Lanes of a compute weave leave the member masks; a set whose remaining members have all signed issues (R23). -/
def State.leaveSets (s : State) (t weaveId : Nat) (m : Mask) : State :=
  let mine := fun c : Conv => c.hweave.toNat = weaveId && c.members &&& m != 0
  let left := fun c : Conv => { c with members := c.members &&& ~~~m }
  let complete := ((s.team t).conv.filter fun c => mine c.2 && (left c.2).members != 0 && c.2.signed == (left c.2).members)
  let s := s.changeTeam t fun k => { k with conv := k.conv.map fun c => if mine c.2 then (c.1, left c.2) else c }
  complete.foldl
    (fun s c =>
      let s := s.unplace (weaveUid t weaveId false) (left c.2).members
      { s with groups := s.groups ++ [{ members := [(weaveUid t weaveId false, (left c.2).members)], pc := c.2.slot }] }) s

/-- The lanes of a weave become vacant (R16, R166). -/
def State.exitLanes (s : State) (u : Nat) (m : Mask) : State :=
  let w := s.weave u
  let s := s.changeWeave u fun w =>
    { w with live := w.live &&& ~~~m, waits := w.waits.filter fun x => !m.getLsbD x.1
             yielding := w.yielding.filter fun x => !m.getLsbD x.1, held := w.held &&& ~~~m }
  if w.shadow then s else s.leaveSets (teamOfWeave u) w.weaveId m

/-- A team is killed: its threads become vacant in one clock, its pending sets do not issue, and it ends (R23, R273). -/
def State.killTeam (s : State) (t : Nat) : State :=
  if (s.team t).ended then s
  else
    ({ s with weaves := s.weaves.map fun w : Nat × Weave => if teamOfWeave w.1 = t then (w.1, { w.2 with live := 0 }) else w }).endTeam t

/-- Every team of a gang is killed. -/
def State.killGang (s : State) (g : Nat) : State :=
  (((s.teams.filter fun t => t.2.gang = g).map Prod.fst).foldl State.killTeam
    (s.changeGang g fun k => { k with killed := true })).retireGang g

end Sys2Proof.Machine
end

