-- ==== Sys2Proof/Machine/Fetch.lean ====
section
/-! DEFINITION. Instruction fetch (R82 to R85) and the lines of the instruction caches (R83, R182). -/

namespace Sys2Proof.Machine

/-- The code base of a context (R82). -/
def Kernel.base (k : Kernel) : Nat := k.image + k.codeOff

/-- The address of instruction line j (R83). -/
def Kernel.lineAddr (k : Kernel) (j : Nat) : Nat := (k.base + 192 * j) % 2 ^ 56

/-- The key of an instruction line of a space. -/
def codeKey (asid va : Nat) : Nat := asid * 2 ^ 60 + va

/-- Code may be fetched through a translation (R84, R416). -/
def State.mayFetch (s : State) (t : Translation) (pa n : Nat) : Bool :=
  t.canExec &&
    (t.remote ||
      match paKind pa with
      | .pcie port => s.windowOpen port pa n
      | .none_ | .frameTable => false
      | _ => true)

/-- `n` bytes of code from `va` on: the cells, as offsets from `off`, and where they lie, when their page is stored here and
may be fetched. -/
def State.codeCells (s : State) (w : Walker) (va n off : Nat) : Option CodeLine × State :=
  match s.reach w va with
  | (.page t, s) =>
    if t.stored (t.pa va) && s.mayFetch t (t.pa va) n && !s.poisoned (t.pa va) n then
      let s := s.homeTouchRange (some w.core) (t.pa va) n
      (some
        { cells := (Memory.slice s.mem (t.pa va) n).map fun c => (c.1 + off, c.2), count := n, parts := [(t.pa va, n)] }, s)
    else (none, s)
  | (_, s) => (none, s)

/-- An instruction line fetched, as far as it can be. The line may reach into the next page. -/
def State.codeLine (s : State) (w : Walker) (va : Nat) : Option CodeLine × State :=
  let first := min 192 (65536 - va % 65536)
  match s.codeCells w va first 0 with
  | (none, s) => (none, s)
  | (some m, s) =>
    if first = 192 then (some m, s)
    else
      match s.codeCells w ((va + first) % 2 ^ 56) (192 - first) first with
      | (none, s) => (some m, s)
      | (some k, s) => (some { cells := m.cells ++ k.cells, count := 192, parts := m.parts ++ k.parts }, s)

/-- The line stands in the L1I of a core; `true` when all of it could be fetched. -/
def State.cacheLine (s : State) (w : Walker) (va : Nat) : Bool × State :=
  match Map.find (s.core w.core).icache (codeKey w.asid va) with
  | some l => (l.count = 192, s)
  | none =>
    match s.codeLine w va with
    | (none, s) => (false, s)
    | (some l, s) =>
      (l.count = 192, s.changeCore w.core fun k =>
        { k with icache := Map.put k.icache (codeKey w.asid va) l, toxicCode := setDrop k.toxicCode (codeKey w.asid va) })

/-- The values that a code byte may be fetched with: the cached one, that of its home, and those not yet written back
(R85). -/
def State.codeBytes (s : State) (c key off pa : Nat) : List Byte :=
  let cached := match Map.find (s.core c).icache key with
    | some l => if off < l.count then [Memory.read l.cells off] else []
    | none => []
  let dirty := s.cores.filterMap fun k =>
    (Map.find k.2.l1 (lineOf pa)).bind fun l => if l.dirty.contains (pa % 128) then l.bytes.getD (pa % 128) none else none
  (cached ++ [Memory.read s.mem pa] ++ dirty).eraseDups

/-- A byte of code; which of several values it has is open. -/
def State.codeByte (s : State) (c key off pa : Nat) : Byte × State :=
  match s.codeBytes c key off pa with
  | [] => (0, s)
  | [b] => (b, s)
  | bs =>
    let (x, s) := s.free
    (bs.getD (x.toNat % bs.length) 0, s)

/-- The outcome of a fetch. -/
inductive Fetched where
  | word (w : Word96) (s : State)
  | trap (s : State) (reqs : List TrapReq)
  | stall

/-- The twelve bytes of a slot, whose line and offset are given, through the translations of its bytes. -/
def State.codeBytesFrom (s : State) (c : Nat) (lineKey : Nat) (off : Nat) (at_ : Nat → Translation × Nat) :
    Nat → List Byte × State
  | 0 => ([], s)
  | n + 1 =>
    let (bs, s) := s.codeBytesFrom c lineKey off at_ n
    let (t, va) := at_ n
    if t.stored (t.pa va) then
      let (b, s) := s.codeByte c lineKey (off + n) (t.pa va)
      (bs ++ [b], s)
    else
      let (x, s) := s.outsideRead 1
      (bs ++ x, s)

/-- The record of the page request of a fetch (R324, R331). -/
def State.fetchRequest (s : State) (e : Site) (g : Group) (va : Nat) : State :=
  s.requestPage e.walker
    { kind := 1, cause := 0x0A, flags := flagFetch, weave := (s.weave (g.weaves.headD 0)).weaveId
      team := (s.team e.team).teamId, lanes := (g.lanes (g.weaves.headD 0)).toNat, addr := va, pc := g.pc.toNat
      gang := (s.gang e.gang).gangId }

/-- A fetch for a group (R84, R440). -/
def State.fetch (s : State) (g : Group) : Fetched :=
  let e := s.site g.team
  let va := s.slotAddr g g.pc
  let last := (va + 11) % 2 ^ 56
  let at_ := BitVec.ofNat 64 va
  let w : Walker := e.walker
  if e.kernel.codeSlots ≤ g.pc.toNat then .trap s (g.allTrap causeAccessViolation at_)
  else
    let (x, s) := s.reach w va
    let (y, s) := s.reach w last
    match x, y with
    | .poison pa, _ | _, .poison pa => .trap s (g.allTrap causePoison (BitVec.ofNat 64 pa))
    | .missing _, .missing _ =>
      let s := s.fetchRequest e g va
      .trap (if pageOf last = pageOf va then s else s.fetchRequest e g last) (g.allTrap causePageFault at_)
    | .missing _, _ => .trap (s.fetchRequest e g va) (g.allTrap causePageFault at_)
    | _, .missing _ => .trap (s.fetchRequest e g last) (g.allTrap causePageFault at_)
    | .page t, .page k =>
      if !s.mayFetch t (t.pa va) 1 || !s.mayFetch k (k.pa last) 1 then .trap s (g.allTrap causeAccessViolation at_)
      else if s.movesFor e.asid t || s.movesFor e.asid k then .stall
      else
        let s := (s.answered e.asid t).answered e.asid k
        let here := fun n => if n < 65536 - va % 65536 then (t, va + n) else (k, (va + n) % 2 ^ 56)
        let toxic := (List.range 12).find? fun n =>
          let (t, va) := here n
          t.stored (t.pa va) && s.poisoned (t.pa va) 1
        match toxic with
        | some n => .trap s (g.allTrap causePoison (BitVec.ofNat 64 ((va + n) % 2 ^ 56)))
        | none =>
          let line := e.kernel.lineAddr (g.pc.toNat / 16)
          let s := (s.cacheLine w line).2
          if (s.core e.core).toxicCode.contains (codeKey e.asid line) then .trap s (g.allTrap causePoison at_) else
          let (bs, s) := s.codeBytesFrom e.core (codeKey e.asid line) (12 * (g.pc.toNat % 16)) here 12
          .word (bs.foldr (fun b w => b.setWidth 96 ||| (w <<< 8)) 0) s
    | _, _ => .trap s (g.allTrap causeAccessViolation at_)

end Sys2Proof.Machine
end

