-- ==== Sys2Proof/Machine/Control.lean ====
section
/-! DEFINITION. Group 0x7: control flow (R162 to R172), and filing threads into bins (R263). -/

namespace Sys2Proof.Machine

/-- A branch of the active threads (R165). -/
def branch (f : Fields) (target : Weave → Nat → Slot) : Body := fun s g =>
  .done s (g.split fun u l => if (s.active g f u).getLsbD l then target (s.weave u) l else g.pc + 1)

/-- The slot at a signed offset from the instruction (R83). -/
def relative (g : Group) (f : Fields) : Slot := g.pc + f.imm.signExtend 40

/-- A slot read from a register: bits [39:0] (R165). -/
def slotIn (f : Fields) (w : Weave) (l : Nat) : Slot := (w.opnd f f.a l).setWidth 40

/-- A call: the active threads branch, and D receives the slot after the instruction (R165). -/
def callTo (f : Fields) (target : Weave → Nat → Slot) : Body := fun s g =>
  let next := g.split fun u l => if (s.active g f u).getLsbD l then target (s.weave u) l else g.pc + 1
  .done (s.eachWeave g fun _ m w => w.dest f.d (w.active f m) (fun _ => (g.pc + 1).setWidth 64) 0) next

/-- EXIT (R166). Threads that stand in a set which the exit completes go on with it. -/
def exitBody (f : Fields) : Body := fun s g =>
  let gone := fun u => s.active g f u
  let t := (s.represented g f).foldl (fun t u => t.exitLanes u (gone u)) s
  .done (t.endIfVacant g.team) [((g.without gone).without t.standing).at_ (g.pc + 1)]

/-! ### REFORM (R167) -/

/-- The threads of a group filed, in THREADID order, each under its next slot. -/
def State.fileAll (s : State) (g : Group) (next : Nat → Nat → Slot) : State :=
  let all := g.members.flatMap fun e => (lanesOf e.2).map fun l => (e.1, l)
  all.foldl
    (fun s t =>
      let w := s.weave t.1
      s.changeCore (s.team g.team).core fun k => k.file ⟨t.1, t.2, g.team, w.shadow, next t.1 t.2, 0⟩) s

/-- REFORM (R167). -/
def reformBody (f : Fields) : Body := fun s g =>
  .done (s.fileAll g fun u l => if f.x && (s.active g f u).getLsbD l then relative g f else g.pc + 1) []

def execBra (f : Fields) : State → Host.Outcome State Fault Refusal :=
  run (.bra f) f fun s g => branch f (fun _ _ => relative g f) s g
def execBrx (f : Fields) : State → Host.Outcome State Fault Refusal := run (.brx f) f (branch f (slotIn f))
def execCall (f : Fields) : State → Host.Outcome State Fault Refusal :=
  run (.call f) f fun s g => callTo f (fun _ _ => relative g f) s g
def execCallx (f : Fields) : State → Host.Outcome State Fault Refusal := run (.callx f) f (callTo f (slotIn f))
/-- RET has the effect of BRX (R165). -/
def execRet (f : Fields) : State → Host.Outcome State Fault Refusal := run (.ret f) f (branch f (slotIn f))
def execExit (f : Fields) : State → Host.Outcome State Fault Refusal := run (.exit f) f (exitBody f)
def execReform (f : Fields) : State → Host.Outcome State Fault Refusal := run (.reform f) f (reformBody f)
/-- TRAP (R169). -/
def execTrap (f : Fields) : State → Host.Outcome State Fault Refusal :=
  run (.trap f) f fun s g => trapActive s g f causeTrapInsn (f.imm.setWidth 64)
/-- BPT (R169). -/
def execBpt (f : Fields) : State → Host.Outcome State Fault Refusal :=
  run (.bpt f) f fun s g => trapActive s g f causeBreakpoint (f.imm.setWidth 64)
/-- NOP (R168). -/
def execNop (f : Fields) : State → Host.Outcome State Fault Refusal := run (.nop f) f fun s g => .done s g.next

end Sys2Proof.Machine
end

