-- ==== Sys2Proof/Machine/Device.lean ====
section
/-! DEFINITION. Reads and writes of the device on behalf of a function (R346, R355, R356), its messages to the host (R407),
and the fault-report ring (R325, R326). -/

namespace Sys2Proof.Machine

/-! ### Reads and writes -/

/-- What a device access meets: a trap cause and an address. -/
abbrev Met := Byte × Nat

/-- The pieces of `n` bytes from `va` on, each within one 64 KiB page. -/
def pagePieces (va n : Nat) : List (Nat × Nat) :=
  if n = 0 then []
  else
    (span (va / 65536) ((va + n - 1) / 65536 + 1 - va / 65536)).map fun k =>
      let low := max va (k * 65536)
      (low % 2 ^ 56, min (va + n) (k * 65536 + 65536) - low)

/-- The device walks for a function, and counts for no core's caches. -/
def State.deviceWalker (s : State) (fn : Nat) : Walker := { asid := fn, slice := none, core := (s.part (s.fn fn).part).root * 160 }

/-- The translation of one piece, if the access may be made. One that starts a move of its page (R400) is performed at the home
that the page then leaves (log entry 127). -/
def State.devicePage (s : State) (w : Walker) (need : Need) (va n : Nat) : Except Met Translation × State :=
  match s.walkChecked w va with
  | (.page t, s) =>
    if !s.permits t need (t.pa va) n then (.error (causeAccessViolation, va), s)
    else if need.reads && t.stored (t.pa va) then
      match s.firstPoison (t.pa va) n with
      | some b => (.error (causePoison, va + (b - t.pa va)), s)
      | none => (.ok t, s)
    else (.ok t, s)
  | (.missing _, s) => (.error (causePageFault, va), s)
  | (.refused, s) => (.error (causeAccessViolation, va), s)
  | (.poison pa, s) => (.error (causePoison, pa), s)

/-- The translations of every piece. -/
def State.devicePages (s : State) (w : Walker) (need : Need) : List (Nat × Nat) → Except Met (List (Translation × Nat × Nat)) × State
  | [] => (.ok [], s)
  | (va, n) :: rest =>
    match s.devicePage w need va n with
    | (.error m, s) => (.error m, s)
    | (.ok t, s) =>
      match s.devicePages w need rest with
      | (.error m, s) => (.error m, s)
      | (.ok ts, s) => (.ok ((t, va, n) :: ts), s)

/-- Bytes read at .sys. -/
def State.deviceGet (s : State) (w : Walker) (va n : Nat) : Except Met (List Byte) × State :=
  match s.devicePages w .read (pagePieces va n) with
  | (.error m, s) => (.error m, s)
  | (.ok ts, s) =>
    let r := ts.foldl
      (fun (r : List Byte × State) (x : Translation × Nat × Nat) =>
        let (bs, s) := if x.1.stored (x.1.pa x.2.1) then r.2.homeRead none (x.1.pa x.2.1) x.2.2 else r.2.outsideRead x.2.2
        (r.1 ++ bs, s)) ([], s)
    (.ok r.1, r.2)

/-- A line of the range is poisoned and not wholly written. -/
def State.partPoison (s : State) (a n : Nat) : Option Nat :=
  ((linesOf a n).find? fun ln => s.poison.contains ln && (ln * 128 < a || a + n < ln * 128 + 128)).map fun ln => max a (ln * 128)

/-- Bytes written at .sys, all or none. Whole lines lose their poison; part of a poisoned line is not written (R441). -/
def State.devicePut (s : State) (w : Walker) (va : Nat) (bytes : List Byte) : Except Met Unit × State :=
  match s.devicePages w .write (pagePieces va bytes.length) with
  | (.error m, s) => (.error m, s)
  | (.ok ts, s) =>
    let toxic := ts.findSome? fun x =>
      if x.1.stored (x.1.pa x.2.1) then (s.partPoison (x.1.pa x.2.1) x.2.2).map fun b => x.2.1 + (b - x.1.pa x.2.1) else none
    match toxic with
    | some a => (.error (causePoison, a), s)
    | none =>
      let r := ts.foldl
        (fun (r : List Byte × State) (x : Translation × Nat × Nat) =>
          let mine := r.1.take x.2.2
          let pa := x.1.pa x.2.1
          (r.1.drop x.2.2, if x.1.stored pa then (r.2.clearPoison pa x.2.2).homeWrite none pa mine else r.2.sendOut x.1 x.2.1 mine))
        (bytes, s)
      (.ok (), (pagePieces va bytes.length).foldl (fun (s : State) (x : Nat × Nat) => s.track w.asid (pageOf x.1)) r.2)

/-! ### Messages to the host (R407) -/

/-- Vector 0 is raised at most once per 10 µs. -/
def coalesceNs : Nat := 10000

/-- A vector of a function raised. A masked one stays owed (R414). -/
def State.raise (s : State) (fn vector : Nat) : State :=
  let now := s.ptime
  s.changeFn fn fun f =>
    if f.masked then { f with owed := setAdd f.owed vector }
    else if vector = 0 && (Map.find f.sentAt 0).any fun t => now < t + coalesceNs then { f with owed := setAdd f.owed 0 }
    else { f with raised := f.raised ++ [vector], sentAt := Map.put f.sentAt vector now }

/-- A message of a function is owed that may go out now. -/
def Fn.mayRaise (f : Fn) (now : Nat) : Bool :=
  if f.masked then !f.owed.isEmpty else f.owed.contains 0 && Map.at f.sentAt 0 0 + coalesceNs ≤ now

/-! ### Fields of RCB nodes -/

/-- The copy of an H field written into its node. A write that fails is skipped, and reported once until one succeeds
(R356). -/
def State.writeField (s : State) (k off size value : Nat) : State :=
  let n := s.node k
  let addr := k % 2 ^ 64
  match s.devicePut (s.deviceWalker n.fn) (addr + off) (bytesOfNat size value) with
  | (.ok _, s) => s.changeNode k fun n => { n with told := setDrop n.told off }
  | (.error m, s) =>
    if n.told.contains off then s
    else
      (s.post { kind := 2, cause := m.1, core := (s.part (nodePart k)).root * 160, context := addr, addr := addr + off }).changeNode
        k fun n => { n with told := setAdd n.told off }

/-! ### The fault-report ring -/

/-- The function through which the root RCB of a partition is reached. -/
def State.rootFn (s : State) (p : Nat) : Nat := ((s.fns.find? fun f => f.2.part = p).map Prod.fst).getD 0

def State.rootAddr (s : State) (p : Nat) : Nat := ((s.part p).reg regRootRcb).toNat

/-- Where the ring of a partition stands: base, size, HEAD, TAIL, read from its root RCB. -/
def State.faultRing (s : State) (p : Nat) : Option (Nat × Nat × Nat × Nat) × State :=
  if s.rootAddr p = 0 then (none, s)
  else
    match s.deviceGet (s.deviceWalker (s.rootFn p)) (s.rootAddr p + 0x70) 16 with
    | (.error _, s) => (none, s)
    | (.ok bs, s) =>
      let size := natOfBytes ((bs.drop 8).take 4)
      let base := natOfBytes (bs.take 8)
      if 64 ≤ size && size ≤ 65536 && 2 ^ Nat.log2 size = size && base % 64 = 0 then
        (some (base, size, natOfBytes (bs.drop 12), (s.node (nodeKey p (s.rootAddr p))).ringTail), s)
      else (none, s)

/-- The function that a record concerns, if its QUEUE names one. -/
def recordFn (r : Record) : Option Nat :=
  let q := natOfBytes ((r.drop 0x30).take 4)
  if q = 0xFFFFFFFF then none else some (q / 65536 % 128)

/-- A record written to its ring if there is room. -/
def State.ringRecord (s : State) (p : Nat) (r : Record) : Option State :=
  match s.faultRing p with
  | (none, _) => none
  | (some (base, size, head, tail), s) =>
    if (tail + 1) % size = head % size then none
    else
      let w := s.deviceWalker (s.rootFn p)
      match s.devicePut w (base + 64 * (tail % size)) r with
      | (.error _, _) => none
      | (.ok _, s) =>
        let tail := (tail + 1) % size
        let key := nodeKey p (s.rootAddr p)
        let s := s.changeNode key fun n => { n with ringTail := tail }
        let s := s.writeField key 0x80 4 tail
        some (match recordFn r with
          | some fn => s.raise fn 1
          | none => s.raise 0 1)

/-- FAULT_RECORD_WRITE (R326): the oldest waiting record of a die goes to its ring when there is room. -/
def execFaultRecordWrite (d : Nat) (s : State) : Host.Outcome State Fault Refusal :=
  match (s.die d).pending with
  | [] => .next s
  | (p, r) :: _ =>
    match s.ringRecord p r with
    | some s => .next (s.changeDie d fun k => { k with pending := k.pending.drop 1 })
    | none => .next s

end Sys2Proof.Machine
end

