-- ==== Sys2Proof/Machine/System.lean ====
section
/-! DEFINITION. Group 0x8: convergence, progress and system instructions (R173 to R183). -/

namespace Sys2Proof.Machine

/-! ### CONV (R174) -/

def convBody (f : Fields) : Body :=
  wholeForm f fun s g u act =>
    match convNamed f.d with
    | none => .ok s
    | some n =>
      let w := s.weave u
      let c := s.conv g.team n
      if c.signed ≠ 0 then .wait s
      else
        let m := if f.a = .zero then w.live else (w.opnd f f.a ((lanesOf act).headD 0)).setWidth 32 &&& w.live
        .ok (s.setConv g.team n { c with hweave := BitVec.ofNat 6 w.weaveId, members := m })

/-! ### Windows and yielding (R176 to R178, R375) -/

/-- A request that waited takes effect on a gang (R375). -/
def State.takeEffect (s : State) (g : Nat) (crit : Bool) : State :=
  let now := s.clock
  s.changeGang g fun k => { k with requested := false, draining := some (now, crit) }

/-- A window closes; a request that waited for it takes effect in the same clock (R176, R375). -/
def State.closeWindow (s : State) (g : Nat) : State :=
  match (s.gang g).pdis with
  | none => s
  | some p =>
    let s := s.changeGang g fun k => { k with pdis := none }
    if (s.gang g).requested then s.takeEffect g p.crit else s

def State.openWindow (s : State) (g : Nat) (crit : Bool) : State :=
  let now := s.clock
  s.changeGang g fun k =>
    { k with pdis := some (match k.pdis with
        | some p => { p with crit := p.crit || crit }
        | none => { opened := now, crit := crit }) }

/-- An effect that a group with an active thread has once. -/
def onceIfActive (f : Fields) (change : State → Site → State) : Body := fun s g =>
  .done (if s.anyActive g f then change s (s.site g.team) else s) g.next

/-- Every gang of a slice held at instruction boundaries, and the slice HELD: the scheduler has been told that its budget is
spent (R358). -/
def State.holdGangs (s : State) (n : Nat) : State :=
  let subs := (s.slice n).subs
  { s with gangs := s.gangs.map fun g : Nat × Gang =>
      if subs.contains g.2.sub && g.2.state != GangState.retired then (g.1, { g.2 with stopped := true }) else g }.changeSlice n fun l =>
    { l with state := .held, told := true }

/-- SYIELD: the gang is held and BUDGET reported as a yield (R178, R335); in the clock that ends the slice's budget, that is
reported in its stead, with all its gangs held (R358, R360). The record names the lowest represented weave, its active lanes
and the slot: R325 does not say whether it is a weave's or the gang's (log entry 77). -/
def yieldSlice (f : Fields) : Body := fun s g =>
  match s.represented g f with
  | [] => .done s g.next
  | u :: _ =>
    let e := s.site g.team
    let spent := (s.slice e.slice).budget ≤ 1
    let s := s.post (s.causeRecord u causeBudget g.pc 0 (s.active g f u) (if spent then 0 else flagYield))
    if spent then .done (s.holdGangs e.slice) g.next
    else
      .done ((s.changeSlice e.slice fun l => { l with state := .held }).changeGang e.gang fun k => { k with stopped := true }) g.next

/-! ### System registers (R28 to R36, R179, R180) -/

/-- The selectors of R28. -/
def selectors : List Nat :=
  [0x00, 0x01, 0x02, 0x03, 0x04, 0x05, 0x06, 0x08, 0x09, 0x10, 0x11, 0x12, 0x13, 0x18, 0x19, 0x1A, 0x1B, 0x1C, 0x1D, 0x1E]

/-- The registers that handler code may write (R28). -/
def handlerWrites : List Nat := [0x11, 0x12, 0x18, 0x19, 0x1A, 0x1B]

/-- The selector of a word. -/
def selectorOf (f : Fields) : Nat := f.imm.toNat % 256

/-- CTXFLAGS (R32). -/
def Context.flags (l : Context) : Nat := (if l.noProg then 1 else 0) + (if l.trapEn then 2 else 0) + (if l.ckptEn then 4 else 0)

/-- CORESLOT (R31). -/
def coreSlot (c gslot : Nat) : Nat := gslot + c % 16 * 16 + c % 160 / 16 * 256

/-- The value of a system register for a thread (R28 to R36). BUDGETLEFT reads as it was last refreshed, and as 0 once the
budget is spent (R34). -/
def State.sysReg (s : State) (u lane sel : Nat) : Nat :=
  let t := teamOfWeave u
  let e := s.site t
  let w := s.weave u
  let l := s.slice e.slice
  let x := s.ctx e.slice
  let g := s.gang e.gang
  match sel with
  | 0x00 => w.weaveId * 32 + lane
  | 0x01 => lane
  | 0x02 => w.weaveId
  | 0x03 => (s.team t).teamId
  | 0x04 => g.gangId
  | 0x05 => coreSlot e.core (g.cores.idxOf e.core)
  | 0x06 => dieOfCore e.core + e.part * 256 + s.module_ * 65536
  | 0x08 => s.clock
  | 0x09 => s.ptime
  | 0x10 => (s.core e.core).capmask.toNat
  | 0x11 => x.flags
  | 0x12 => x.fairTimer
  | 0x13 => if l.budget = 0 then 0 else l.left
  | 0x18 => w.trapCause.toNat
  | 0x19 => w.trapPc.toNat
  | 0x1A => w.trapAddr.toNat
  | 0x1B => w.trapLanes.toNat
  | 0x1C => (s.cgen t).toNat
  | 0x1D => x.saveCost + (if x.noIndep then 2 ^ 63 else 0)
  | _ => x.restoreCount

/-- GETSYS (R179). -/
def getsysBody (f : Fields) : Body := fun s g =>
  let sel := selectorOf f
  if !selectors.contains sel || (f.d.isS && sel ≤ 2) then trapOpen s g f causeIllegalOperand
  else
    let value := fun u l => BitVec.ofNat 64 (s.sysReg u l sel)
    .done (s.eachWeave g fun u m w => w.dest f.d (w.active f m) (value u) (value u 0)) g.next

/-- The effect of SETSYS for one weave (R180, R33). -/
def State.setSys (s : State) (u sel : Nat) (x : Word64) : State :=
  let n := (s.site (teamOfWeave u)).slice
  match sel with
  | 0x11 =>
    s.changeCtx n fun l => { l with noProg := x.getLsbD 0, trapEn := x.getLsbD 1, ckptEn := x.getLsbD 2 }
  | 0x12 => s.changeCtx n fun l => { l with fairTimer := max 256 (min 65536 x.toNat) }
  | 0x18 => s.changeWeave u fun w => { w with trapCause := x.setWidth 8 }
  | 0x19 => s.changeWeave u fun w => { w with trapPc := x.setWidth 40 }
  | 0x1A => s.changeWeave u fun w => { w with trapAddr := x }
  | _ => s.changeWeave u fun w => { w with trapLanes := x.setWidth 32 }

/-- The trap that a SETSYS takes in a weave, if any (R28, R32). -/
def setsysCause (handler : Bool) (sel : Nat) (x : Word64) : Option Byte :=
  if !selectors.contains sel then some causeIllegalOperand
  else if !handler then some causePrivilege
  else if !handlerWrites.contains sel then some causeIllegalOperand
  else if sel = 0x11 && x.toNat / 8 != 0 then some causeReservedBits
  else none

/-- SETSYS (R180). -/
def setsysBody (f : Fields) : Body :=
  wholeForm f fun s _ u act =>
    let x := (s.weave u).opnd f f.a ((lanesOf act).headD 0)
    match setsysCause (s.weave u).handler (selectorOf f) x with
    | some cause =>
      let (a, s) := s.free
      .trap s ⟨u, cause, a, act⟩
    | none => .ok (s.setSys u (selectorOf f) x)

/-! ### Returning from a trap (R181) -/

/-- The group that TRAPRET forms and the lanes it releases; the trapped lanes leave wherever they stood, and keep
the signatures they had given (R151). -/
def State.leaveTrap (s : State) (u : Nat) (trapped held : Mask) (level : Bool) (pc : Slot) : State :=
  let s := s.unplace u trapped
  let w := s.weave u
  let s := s.changeWeave u fun w => { w with handler := level, nest := false, held := w.held &&& ~~~held }
  let s := s.changeWeave (partnerOf u) fun w => { w with partnerHeld := false }
  { s with groups := s.groups ++ groupOf u (trapped &&& w.live) pc }

/-! ### TRAPRET (R181) -/

/-- The 64 bytes of a trap frame read by a weave, or the traps of reading them. -/
def State.readFrame (s : State) (u lane : Nat) (act : Mask) (pc : Slot) : Except (Option (State × TrapReq)) (List Byte × State) :=
  let e := s.site (teamOfWeave u)
  let va := s.frameAddr u
  let accs := (List.range 8).map fun k => ({ weave := u, lane := lane, lanes := act, addr := va + 8 * k, bytes := 8 } : Access)
  match s.checkAccesses e spaceG 8 .read false pc accs with
  | .trap s (q :: _) => .error (some (s, q))
  | .trap _ [] | .stall => .error none
  | .pass s places =>
    .ok (places.foldl (fun r p =>
      let (bs, s) := r.2.readPlace e p.1 p.2 {}
      (r.1 ++ bs, s)) ([], s))

/-- The frame holds a reserved bit or a value outside R172. -/
def frameBad (bs : List Byte) : Bool :=
  (bs.drop 0x2A).any (· != 0) || 1 < natOfBytes ((bs.drop 0x28).take 1) || 1 < natOfBytes ((bs.drop 0x29).take 1)

/-- TRAPRET in one weave. -/
def trapretOne (f : Fields) (s : State) (g : Group) (u : Nat) (act : Mask) : One :=
  let w := s.weave u
  if !w.handler then
    let (a, s) := s.free
    .trap s ⟨u, causePrivilege, a, act⟩
  else
    match s.readFrame u ((lanesOf act).headD 0) act g.pc with
    | .error (some (s, q)) => .trap s q
    | .error none => .wait s
    | .ok (bs, s) =>
      if frameBad bs then
        let (a, s) := s.free
        .trap s ⟨u, causeReservedBits, a, act⟩
      else
        let field := fun off n => natOfBytes ((bs.drop off).take n)
        let pc := if f.t = 1 then w.trapPc + 1 else w.trapPc
        .ok (s.leaveTrap u (BitVec.ofNat 32 (field 0x20 4)) (BitVec.ofNat 32 (field 0x24 4)) (field 0x28 1 = 1) pc)

/-- TRAPRET. The trapped lanes go on where their frames say, in groups of their own; the other threads of the group go on at
the next slot. -/
def trapretBody (f : Fields) : Body := fun s g =>
  match wholeForm f (trapretOne f) s g with
  | .done t next => .done t (next.map fun n : Group => n.without t.standing)
  | other => other

/-! ### Instruction cache (R182) -/

/-- The first and the number of the lines that hold the named slots, clipped at CODESLOTS. -/
def linesNamed (k : Kernel) (first count : Nat) : List Nat :=
  let last := min (first + count) k.codeSlots
  if last ≤ first then [] else span (first / 16) ((last - 1) / 16 + 1 - first / 16)

/-- The greatest number of pinned lines of an L1I and of an L2 slice: a quarter of 341, and of the 128-byte lines of 16 MiB
(R182). -/
def pinLimitL1 : Nat := 85
def pinLimitL2 : Nat := 16 * 2 ^ 20 / 128 / 4

/-- The named lines that a team has pinned. -/
def Team.pins (m : Team) (l2 : Bool) : List Nat := if l2 then m.pinsL2.map Prod.fst else m.pinsL1

/-- The distinct pinned lines of the L1I of a core, those of saved teams that last stood there among them (log entry 113). -/
def State.pinned (s : State) (core : Nat) : List Nat :=
  ((s.teams.filter fun t => t.2.core = core).flatMap fun t => t.2.pinsL1).eraseDups

/-- The distinct pinned lines of the L2 slices. -/
def State.pinnedL2 (s : State) : List Nat := (s.teams.flatMap fun t => t.2.pinsL2.flatMap Prod.snd).eraseDups

/-- The L2 slice that a line of memory has its home in. -/
def homeSlice (ln : Nat) : Nat × BitVec 5 := (ln * 128 / (96 * 2 ^ 30), Config.sliceOfLine ln)

/-- With these lines pinned no slice of `new` holds more than a quarter of its lines. -/
def sliceRoom (pinned new : List Nat) : Bool :=
  new.all fun ln => (pinned.filter fun x => homeSlice x = homeSlice ln).length ≤ pinLimitL2

/-- A line of code fetched: the L2 lines that hold it, as far as they have their home in this module; none where its fetch
faults (R84). -/
def State.codeHome (s : State) (w : Walker) (va : Nat) : Option (List Nat) × State :=
  (pagePieces va 192).foldl
    (fun (r : Option (List Nat) × State) (x : Nat × Nat) =>
      match r.1 with
      | none => r
      | some lines =>
        match r.2.reach w x.1 with
        | (.page t, s) =>
          let pa := t.pa x.1
          if !s.mayFetch t pa x.2 || t.stored pa && s.poisoned pa x.2 then (none, s)
          else (some (setUnion lines (if t.stored pa then linesOf pa x.2 else [])), s)
        | (_, s) => (none, s)) (some [], s)

/-- One line fetched and pinned, if it may be. A line whose home is another module's or a device's stands in no L2 slice
here. -/
def State.pinLine (s : State) (e : Site) (l2 : Bool) (va : Nat) : State :=
  let key := codeKey e.asid va
  match s.codeHome e.walker va with
  | (none, s) => s
  | (some lines, s) =>
    if l2 then
      let pinned := s.pinnedL2
      let new := lines.filter fun ln => !pinned.contains ln
      if sliceRoom (pinned ++ new) new then s.changeTeam e.team fun m => { m with pinsL2 := Map.put m.pinsL2 key lines } else s
    else
      let s := (s.cacheLine e.walker va).2
      let pins := s.pinned e.core
      if pins.contains key || pins.length < pinLimitL1 then s.changeTeam e.team fun m => { m with pinsL1 := setAdd m.pinsL1 key } else s

/-- The addresses of the named lines, as the lowest represented weave names them. -/
def State.linesOfWord (s : State) (f : Fields) (g : Group) : List Nat :=
  match s.represented g f with
  | [] => []
  | u :: _ =>
    let w := s.weave u
    let l := (lanesOf (s.active g f u)).headD 0
    let k := (s.site g.team).kernel
    (linesNamed k ((w.opnd f f.a l).toNat % 2 ^ 40) ((w.opnd f f.b l).toNat % 2 ^ 40)).map k.lineAddr

/-- ICPREF: the lines are fetched; in an L2 slice that changes nothing. -/
def icprefBody (f : Fields) : Body := fun s g =>
  let e := s.site g.team
  let fetchOne := fun (s : State) va => if f.t = 1 then s else (s.cacheLine e.walker va).2
  .done ((s.linesOfWord f g).foldl fetchOne s) g.next

/-- ICPIN: D tells whether every named line is pinned. -/
def icpinBody (f : Fields) : Body := fun s g =>
  let e := s.site g.team
  let l2 : Bool := f.t = 1
  let lines := s.linesOfWord f g
  let s := lines.foldl (fun s va => s.pinLine e l2 va) s
  let all := lines.all fun va => ((s.team e.team).pins l2).contains (codeKey e.asid va)
  .done (s.eachWeave g fun _ m w => w.give f.d (w.active f m) (if all then 1 else 0)) g.next

/-- ICUNPIN. -/
def icunpinBody (f : Fields) : Body := fun s g =>
  let e := s.site g.team
  let keys := (s.linesOfWord f g).map (codeKey e.asid)
  .done (s.changeTeam e.team fun m =>
    if f.t = 1 then { m with pinsL2 := m.pinsL2.filter fun k => !keys.contains k.1 }
    else { m with pinsL1 := m.pinsL1.filter fun k => !keys.contains k }) g.next

/-! ### Checkpoint requests (R183) -/

/-- A request registered for the context of a slice, unless one is pending (R424). -/
def State.askCheckpoint (s : State) (n : Nat) : State :=
  if (s.slice n).ckptAsked.isSome then s
  else
    let now := s.ptime
    s.changeSlice n fun l => { l with ckptAsked := some now }

/-- CKREQ. -/
def ckreqBody (f : Fields) : Body := fun s g =>
  let n := (s.site g.team).slice
  let may := (s.ctx n).ckptEn
  let s := if may && s.anyActive g f then s.askCheckpoint n else s
  .done (s.eachWeave g fun _ m w => w.give f.d (w.active f m) (if may then 1 else 0)) g.next

def execConv (f : Fields) : State → Host.Outcome State Fault Refusal := run (.conv f) f (convBody f)
/-- SIGN: its issue clears the set and sends the members on (R175). -/
def execSign (f : Fields) : State → Host.Outcome State Fault Refusal := run (.sign f) f fun s g => .done s g.next
/-- PDIS; one that would issue in the clock in which a request takes effect is withdrawn (R375). -/
def pdisBody (f : Fields) : Body := fun s g =>
  if s.anyActive g f && (s.gang (s.team g.team).gang).draining.isSome then .stall
  else onceIfActive f (fun s e => s.openWindow e.gang f.x) s g

/-- PDIS (R176). -/
def execPdis (f : Fields) : State → Host.Outcome State Fault Refusal := run (.pdis f) f (pdisBody f)
/-- PEN (R176). -/
def execPen (f : Fields) : State → Host.Outcome State Fault Refusal :=
  run (.pen f) f (onceIfActive f fun s e => s.closeWindow e.gang)
def execSyield (f : Fields) : State → Host.Outcome State Fault Refusal := run (.syield f) f (yieldSlice f)
def execGetsys (f : Fields) : State → Host.Outcome State Fault Refusal := run (.getsys f) f (getsysBody f)
def execSetsys (f : Fields) : State → Host.Outcome State Fault Refusal := run (.setsys f) f (setsysBody f)
def execTrapret (f : Fields) : State → Host.Outcome State Fault Refusal := run (.trapret f) f (trapretBody f)
def execIcpref (f : Fields) : State → Host.Outcome State Fault Refusal := run (.icpref f) f (icprefBody f)
def execIcpin (f : Fields) : State → Host.Outcome State Fault Refusal := run (.icpin f) f (icpinBody f)
def execIcunpin (f : Fields) : State → Host.Outcome State Fault Refusal := run (.icunpin f) f (icunpinBody f)
def execCkreq (f : Fields) : State → Host.Outcome State Fault Refusal := run (.ckreq f) f (ckreqBody f)

end Sys2Proof.Machine
end

