-- ==== Sys2Proof/Machine/LoadStore.lean ====
section
/-! DEFINITION. Group 0x9 and the side log: loads, stores, prefetch and cache maintenance (R184 to R196, R327 to R329). -/

namespace Sys2Proof.Machine

/-! ### The accesses of a word -/

/-- The scalar form (R186). -/
def scalarForm (f : Fields) : Bool := !(f.d.isV || f.a.isV || f.b.isV || f.c.isV || f.d.isP)

/-- The lanes that act: every active lane with itself, or the lowest active lane of each represented weave for all of its
active lanes (R186, R278). -/
def State.actors (s : State) (g : Group) (f : Fields) : List (Nat × Nat × Mask) :=
  if scalarForm f then
    (s.represented g f).map fun u => (u, (lanesOf (s.active g f u)).headD 0, s.active g f u)
  else (s.activeLanes g f).map fun x => (x.1, x.2, laneBit x.2)

/-- The address of an access (R188). -/
def accessAddr (f : Fields) (w : Weave) (space lane : Nat) : Nat :=
  let a := (w.opnd f f.a lane + f.off).toNat
  if space = spaceG then a % 2 ^ 56 else a

/-- One element for each actor. -/
def State.elements (s : State) (g : Group) (f : Fields) (space : Nat) : List Access :=
  (s.actors g f).map fun (u, l, m) =>
    { weave := u, lane := l, lanes := m, addr := accessAddr f (s.weave u) space l, bytes := f.width.bits / 8 }

/-- The elements of a block of `n` registers (R194): register j of lane l at 256 j + 8 l, in 64 bits (log entry 114). -/
def State.blockElements (s : State) (g : Group) (f : Fields) (space n : Nat) : List Access :=
  (List.range n).flatMap fun j =>
    (s.activeLanes g f).map fun (u, l) =>
      let a := (s.weave u).opnd f f.a l + f.off + BitVec.ofNat 64 (256 * j + 8 * l)
      { weave := u, lane := l, lanes := laneBit l, addr := if space = spaceG then a.toNat % 2 ^ 56 else a.toNat, bytes := 8 }

/-- How the word accesses memory. -/
def howOf (f : Fields) (space : Nat) (acquire release : Bool) : How :=
  { stream := f.stream, acquire := acquire, release := release, scope := scopeOn space f.scope }

/-! ### Reading -/

/-- The elements read one after another: their values, little-endian. -/
def State.readAll (s : State) (e : Site) (h : How) : List (Access × Place) → List (Access × Nat) × State
  | [] => ([], s)
  | (x, p) :: rest =>
    let (bs, s) := s.readPlace e x p h
    let (more, s) := s.readAll e h rest
    ((x, natOfBytes bs) :: more, s)

/-- The attribute of a place that is a page. -/
def Place.so : Place → Bool
  | .page t _ => t.attr == attrSo
  | _ => false

/-- What an acquire does after its reads; an SO load acquires at .sys (R307, R315). -/
def State.afterReads (s : State) (e : Site) (h : How) (places : List (Access × Place)) : State :=
  if (h.acquire && wideScope h.scope) || places.any (·.2.so) then s.discardClean e.core false else s

/-- The value of an element, found by its weave and lane. -/
def valueAt (vals : List (Access × Nat)) (u l : Nat) : Nat :=
  ((vals.find? fun v => v.1.weave = u && v.1.lane = l).map Prod.snd).getD 0

/-- Results of the elements written to D. In the scalar form an s register takes the weave's one result; where the lanes act
and D is an s register the manual states no value. -/
def State.giveElements (s : State) (g : Group) (f : Fields) (value : Nat → Nat → Word64) : State :=
  let (x, s) := if f.d.isS && !scalarForm f then s.free else (0, s)
  s.eachWeave g fun u m w =>
    let act := w.active f m
    w.dest f.d act (value u) (if scalarForm f then value u ((lanesOf act).headD 0) else x)

/-- LD (R193). -/
def ldBody (f : Fields) : Body := fun s g =>
  let e := s.site g.team
  let space := f.t.toNat
  let w := f.width.bits
  match s.checkAccesses e space (w / 8) .read false g.pc (s.elements g f space) with
  | .stall => .stall
  | .trap s reqs => .traps s g reqs
  | .pass s places =>
    let h := howOf f space (f.rm == 1) false
    let (vals, s) := s.readAll e h places
    let s := s.afterReads e h places
    let value := fun u l =>
      let x := valueAt vals u l
      if f.x then BitVec.ofNat 64 (wrapInt 64 (signed w x)) else BitVec.ofNat 64 x
    .done (s.giveElements g f value) g.next

/-- LDM (R194). -/
def ldmBody (f : Fields) : Body := fun s g =>
  let e := s.site g.team
  let space := f.t.toNat
  let n := f.blockCount
  match s.checkAccesses e space 8 .read false g.pc (s.blockElements g f space n) with
  | .stall => .stall
  | .trap s reqs => .traps s g reqs
  | .pass s places =>
    let h := howOf f space false false
    let (vals, s) := s.readAll e h places
    let s := s.afterReads e h places
    let count := (s.activeLanes g f).length
    .done (s.eachWeave g fun u m w =>
      w.destBlock f.d n (w.active f m) fun j l => BitVec.ofNat 64 (valueAt ((vals.drop (j * count)).take count) u l)) g.next

/-! ### Releases and the side log (R193, R310, R327, R329) -/

/-- What a release or a store-covering fence finds of its threads' earlier logged stores. -/
inductive Gate where
  | pass
  | stall
  | trap (s : State) (reqs : List TrapReq)

/-- The failed entries a weave's lanes have not learnt of. -/
def Weave.unlearnt (w : Weave) (m : Mask) : List (Byte × Nat × Mask) := w.failures.filter fun x => x.2.2 &&& m != 0

/-- The gate of a release: a failed entry traps, once; a pending one holds the release. -/
def State.gate (s : State) (g : Group) (f : Fields) : Gate :=
  let c := (s.site g.team).core
  let failed := (s.represented g f).filterMap fun u =>
    match (s.weave u).unlearnt (s.active g f u) with
    | [] => none
    | x :: _ => some (u, x)
  match failed with
  | _ :: _ =>
    .trap
      (failed.foldl (fun s x => s.changeWeave x.1 fun w => { w with failures := w.failures.erase x.2 }) s)
      (failed.map fun x => ⟨x.1, x.2.1, BitVec.ofNat 64 x.2.2.1, x.2.2.2⟩)
  | [] =>
    if (s.represented g f).any fun u =>
        (s.core c).sideLog.any fun q => q.writtenBy u (s.active g f u) then .stall
    else .pass

/-- Lanes of accesses, by weave. -/
def membersOf (accs : List Access) : List (Nat × Mask) :=
  ((accs.map fun x => x.weave).eraseDups).map fun u =>
    (u, (accs.filter fun x => x.weave = u).foldl (fun m x => m ||| x.lanes) 0)

/-- The entries of the bytes of one store: one for each 256-byte block, in the order of `blocks`. The bytes of a block are in
the order in which they are written (R193, R327); the first address of an entry is that of its first lane's first byte (log
entry 118). -/
def logEntries (e : Site) (pc : Slot) (release : Bool) (blocks : List Nat) (items : List (Access × Nat × List Byte)) : List SideEntry :=
  blocks.eraseDups.filterMap fun k =>
    let mine := items.filter fun x => x.2.1 / 256 = k
    match mine with
    | [] => none
    | x :: _ =>
      some
        { slice := e.slice, asid := e.asid, page := pageOf x.2.1, team := e.team, members := membersOf (mine.map Prod.fst), pc := pc
          addr := x.2.1, op := .store (mine.flatMap fun y => y.2.2.zipIdx.map fun b => (y.2.1 + b.2, b.1)), release }

/-- The entries taken together, if there is room (R327). -/
def State.log (s : State) (c : Nat) (entries : List SideEntry) : Option State :=
  if 64 < (s.core c).sideLog.length + entries.length then none
  else
    some (entries.foldl (fun (s : State) (q : SideEntry) => s.track q.asid q.page)
      (s.changeCore c fun k => { k with sideLog := k.sideLog ++ entries }))

/-- Elements written one after another. -/
def State.writeAll (s : State) (e : Site) (h : How) : List (Access × Place × List Byte) → State
  | [] => s
  | (_, p, bs) :: rest => (s.writePlace e p bs h).writeAll e h rest

/-- The elements that go to the side log. -/
def loggedItems (items : List (Access × Place × List Byte)) : List (Access × Nat × List Byte) :=
  items.filterMap fun x =>
    match x.2.1 with
    | .logged va => some (x.1, va, x.2.2)
    | _ => none

/-- The blocks of checked accesses that go to the side log. -/
def blocksOf (places : List (Access × Place)) : List Nat :=
  places.filterMap fun x =>
    match x.2 with
    | .logged va => some (va / 256)
    | _ => none

/-- A store of checked elements, in the order in which they are written: the gate of a release, the side log, whose entries are
in the order of `blocks`, then the writes. -/
def storeElements (f : Fields) (e : Site) (h : How) (blocks : List Nat) (items : List (Access × Place × List Byte)) : Body := fun s g =>
  let releases := h.release || items.any fun x => x.2.1.so
  match if releases then s.gate g f else .pass with
  | .stall => .asks s g
  | .trap s reqs => .traps s g reqs
  | .pass =>
    match s.log e.core (logEntries e g.pc (h.release && wideScope h.scope) blocks (loggedItems items)) with
    | none => .asks s g
    | some s => .done (s.writeAll e h items) g.next

/-- ST (R193). -/
def stBody (f : Fields) : Body := fun s g =>
  let e := s.site g.team
  let space := f.t.toNat
  let n := f.width.bits / 8
  match s.checkAccesses e space n .write true g.pc (s.elements g f space) with
  | .stall => .stall
  | .trap s reqs => .traps s g reqs
  | .pass s places =>
    let items := places.map fun x => (x.1, x.2, bytesOfNat n ((s.weave x.1.weave).opnd f f.b x.1.lane).toNat)
    storeElements f e (howOf f space false (f.rm == 1)) (blocksOf places) items s g

/-- STM (R194). The rows are written thread by thread, so that a byte takes the value of the greatest THREADID (R193); the
side log takes its entries row by row (R327). -/
def stmBody (f : Fields) : Body := fun s g =>
  let e := s.site g.team
  let space := f.t.toNat
  let base := (vectorNamed f.b).getD 0
  let count := (s.activeLanes g f).length
  match s.checkAccesses e space 8 .write true g.pc (s.blockElements g f space f.blockCount) with
  | .stall => .stall
  | .trap s reqs => .traps s g reqs
  | .pass s places =>
    let rows := places.zipIdx.map fun x =>
      (x.1.1, x.1.2, bytesOfNat 8 ((s.weave x.1.1.weave).vread (base + x.2 / count) x.1.1.lane).toNat)
    let items := (s.activeLanes g f).flatMap fun l => rows.filter fun x => x.1.weave = l.1 && x.1.lane = l.2
    storeElements f e (howOf f space false false) (blocksOf places) items s g

/-! ### Prefetch and cache maintenance (R195, R196) -/

/-- All the bytes of a line are in a core's L1, and may be found there. -/
def State.lineReady (s : State) (c ln : Nat) : Bool :=
  ((Map.find (s.core c).l1 ln).bind fun l => (l.at_ s.clock).get 0 128).isSome

/-- PREF of one address of a thread: a line of a readable, cacheable and sound page is brought into the L1, behind the stores
that the core has logged for the page; a page that a walk would first have to claim is left alone (R195, R317). -/
def State.prefetch (s : State) (e : Site) (u l va : Nat) : State :=
  match s.peek e.walker va with
  | (some t, s) =>
    let s := (s.replayAfter e.core e.asid va (.page t)).notePage u l t
    let pa := t.pa (va % 2 ^ 56)
    if t.canRead && !t.remote && paKind pa == .hbm && t.attr != attrSo && !s.poisoned pa 1 && !s.logged e.walker va &&
        !s.lineReady e.core (lineOf pa) then
      s.fill e.core (lineOf pa) (t.attr == attrUo)
    else s
  | (none, s) => s

/-- PREF (R195): a misaligned address is ignored. The line brought into an L2 slice changes nothing. -/
def prefBody (f : Fields) : Body := fun s g =>
  let e := s.site g.team
  if f.t = 1 then .done s g.next
  else
    .done (((s.elements g f spaceG).filter fun x => x.addr % 8 = 0).foldl
      (fun s x => s.prefetch e x.weave x.lane (x.addr % 2 ^ 56)) s) g.next

/-- The physical ranges of `n` bytes from `va` on, as a thread slot names them, without the pages that are unmapped or lack R
(R196). Past the end of the space they go on at address 0 (log entry 115). -/
def State.readableRanges (s : State) (e : Site) (u l va n : Nat) : List (Nat × Nat) × State :=
  let pages := if n = 0 then [] else span (va / 65536) ((va + n - 1) / 65536 + 1 - va / 65536)
  pages.foldl
    (fun r k =>
      let low := max va (k * 65536)
      let high := min (va + n) (k * 65536 + 65536)
      match r.2.translate e u l (low % 2 ^ 56) with
      | (.page t, s) => if t.canRead && !t.remote then (r.1 ++ [(t.pa (low % 2 ^ 56), high - low)], s) else (r.1, s)
      | (_, s) => (r.1, s)) ([], s)

/-- Two ranges share a byte. -/
def overlaps (a b : Nat × Nat) : Bool := a.1 < b.1 + b.2 && b.1 < a.1 + a.2

/-- CCTL on a list of physical ranges (R196). -/
def State.maintain (s : State) (e : Site) (op : Nat) (ranges : List (Nat × Nat)) : State :=
  if op = 2 then
    let cores := ((s.part e.part).dies.flatMap fun d => span (d * 160) 160)
    { s with cores := s.cores.map fun c =>
      if cores.contains c.1 then
        (c.1, { c.2 with icache := c.2.icache.filter fun l => !l.2.parts.any fun p => ranges.any (overlaps p) })
      else c }
  else
    let lines := ((s.core e.core).l1.map Prod.fst).filter fun ln => ranges.any (overlaps (ln * 128, 128))
    lines.foldl (fun s ln => if op = 0 then s.writeBack e.core ln else s.evict e.core ln) s

/-- CCTL, once for each represented weave. -/
def cctlBody (f : Fields) : Body := fun s g =>
  let e := s.site g.team
  .done ((s.represented g f).foldl
    (fun s u =>
      let w := s.weave u
      let (ranges, s) := s.readableRanges e u ((lanesOf (s.active g f u)).headD 0) ((w.opnd f f.a 0).toNat % 2 ^ 56)
        ((w.opnd f f.b 0).toNat % 2 ^ 40)
      s.maintain e f.t.toNat ranges) s) g.next

def execLd (f : Fields) : State → Host.Outcome State Fault Refusal := run (.ld f) f (ldBody f)
def execSt (f : Fields) : State → Host.Outcome State Fault Refusal := run (.st f) f (stBody f)
def execLdm (f : Fields) : State → Host.Outcome State Fault Refusal := run (.ldm f) f (ldmBody f)
def execStm (f : Fields) : State → Host.Outcome State Fault Refusal := run (.stm f) f (stmBody f)
def execPref (f : Fields) : State → Host.Outcome State Fault Refusal := run (.pref f) f (prefBody f)
def execCctl (f : Fields) : State → Host.Outcome State Fault Refusal := run (.cctl f) f (cctlBody f)

end Sys2Proof.Machine
end

