-- ==== Sys2Proof/Machine/Atomics.lean ====
section
/-! DEFINITION. Group 0xA: atomics, the fence and the conditional wait (R197 to R203). -/

namespace Sys2Proof.Machine

/-! ### Atomics -/

/-- The atomic is performed in the core's L1: a scope narrower than .die, on a page that an L1 may hold (R200, R307). -/
def inL1 (t : Translation) (pa scope : Nat) : Bool := 3 ≤ scope && !t.remote && paKind pa == .hbm && t.attr != attrSo

/-- One atomic on a page: an ACAS that fails, for which there is no new value, writes nothing (R199). `lazy` tells a RED.rel,
whose release may be lazy in the L1 (R314). -/
def State.atomPage (s : State) (e : Site) (t : Translation) (va n : Nat) (h : How) (lazy : Bool) (new : Nat → Option Nat) :
    Nat × State :=
  let pa := t.pa va
  let c := e.core
  let write := fun (s : State) (old : Nat) (put : State → List Byte → State) =>
    match new old with
    | some x => (old, put s (bytesOfNat n x))
    | none => (old, s)
  if inL1 t pa h.scope then
    let s := if h.release && wideScope h.scope && !lazy then s.releaseEagerly c else s
    let s := if h.acquire && wideScope h.scope && ((Map.find (s.core c).l1 (lineOf pa)).map fun l => l.dirty.isEmpty) = some true
      then s.evict c (lineOf pa) else s
    let (bs, s) := s.l1Read c pa n (t.attr == attrUo)
    write s (natOfBytes bs) fun s out => s.storePage e t va out { scope := h.scope, release := h.release && lazy }
  else
    let s := if (h.release && wideScope h.scope) || t.attr == attrSo then s.releaseEagerly c else s
    if t.remote then
      let (bs, s) := s.outsideRead n
      write s (natOfBytes bs) fun s out => (s.noteWrite e.slice t va).sendOut t va out
    else
      let s := (linesOf pa n).foldl (fun s ln => if (Map.find (s.core c).l1 ln).isSome then s.evict c ln else s) s
      let (bs, s) := s.homeRead (some c) pa n
      write s (natOfBytes bs) fun s out => (s.noteWrite e.slice t va).homeWrite (some c) pa out

/-- One atomic at its place. -/
def State.atomPlace (s : State) (e : Site) (x : Access) (p : Place) (h : How) (lazy : Bool) (new : Nat → Option Nat) :
    Nat × State :=
  match p with
  | .cell a =>
    let s := if h.release && wideScope h.scope then s.releaseEagerly e.core else s
    let old := Memory.readNat s.mem a x.bytes
    match new old with
    | some y => (old, s.putOnChip a (bytesOfNat x.bytes y))
    | none => (old, s)
  | .page t va => s.atomPage e t va x.bytes h lazy new
  | .logged _ => (0, s)

/-- The atomics of one instruction, one after another in increasing (TEAMID, THREADID) (R197). -/
def State.atomAll (s : State) (e : Site) (h : How) (lazy : Bool) (new : Access → Nat → Option Nat) :
    List (Access × Place) → List (Access × Nat) × State
  | [] => ([], s)
  | (x, p) :: rest =>
    let (old, s) := s.atomPlace e x p h lazy (new x)
    let (more, s) := s.atomAll e h lazy new rest
    ((x, old) :: more, s)

/-- The space of an atomic. -/
def atomSpace (f : Fields) : Nat := f.aux

/-- An operand's low element in the lane of an access. -/
def State.elemAt (s : State) (f : Fields) (o : Operand) (x : Access) : Nat :=
  elem ((s.weave x.weave).opnd f o x.lane) f.width.bits 0

/-- The entries of side-logged REDs, one element each (R327). -/
def redEntries (f : Fields) (e : Site) (pc : Slot) (release : Bool) (items : List (Access × Place)) (operand : Access → Nat) : List SideEntry :=
  items.filterMap fun x =>
    match x.2 with
    | .logged va =>
      some
        { slice := e.slice, asid := e.asid, page := pageOf va, team := e.team, members := [(x.1.weave, x.1.lanes)], pc := pc
          addr := va, op := .reduce va f.width f.t (BitVec.ofNat 64 (operand x.1)), release }
    | _ => none

/-- The shared body of ATOM, ACAS and RED (R197 to R200). -/
def atomBody (f : Fields) (red : Bool) (new : State → Access → Nat → Option Nat) : Body := fun s g =>
  let e := s.site g.team
  let space := atomSpace f
  let h := howOf f space (f.rm.getLsbD 0) (f.rm.getLsbD 1)
  match s.checkAccesses e space (f.width.bits / 8) .update red g.pc (s.elements g f space) with
  | .stall => .stall
  | .trap s reqs => .traps s g reqs
  | .pass s places =>
    match if h.release || places.any (·.2.so) then s.gate g f else .pass with
    | .stall => .asks s g
    | .trap s reqs => .traps s g reqs
    | .pass =>
      match s.log e.core (redEntries f e g.pc (h.release && wideScope h.scope) places fun x => s.elemAt f f.b x) with
      | none => .asks s g
      | some t =>
        let (olds, t) := t.atomAll e h red (new s) places
        let t := t.afterReads e h (if red then [] else places)
        .done (if red then t else t.giveElements g f fun u l => BitVec.ofNat 64 (valueAt olds u l)) g.next

/-! ### FENCE (R201, R313, R314) -/

/-- The fence waits for copies and jobs of the weave (R201, R222). -/
def State.copiesOpen (s : State) (u : Nat) : Bool :=
  (s.copies.any fun c => c.2.active && c.2.ranges.isEmpty && c.2.weave = u) || s.jobs.any fun j => !j.2.ended && j.2.team.isSome && j.2.weave = u

/-- A store-covering fence of scope .group or wider writes back every dirty line of the core's L1: what the executing team has
written, and what its threads have observed there of other teams (R201, R313). -/
def fenceBody (f : Fields) : Body := fun s g =>
  let e := s.site g.team
  let scope := f.t.toNat
  let stores : Bool := f.rm = 0 || f.rm = 2
  let loads : Bool := f.rm = 0 || f.rm = 1
  let copies : Bool := f.rm = 0 || f.rm = 3
  if !s.anyActive g f then .done s g.next
  else
    match if stores then s.gate g f else .pass with
    | .stall => .stall
    | .trap s reqs => .traps s g reqs
    | .pass =>
      if copies && (s.represented g f).any s.copiesOpen then .stall
      else
        let s := if stores && scope ≤ 3 then s.writeBackWhere e.core fun _ => true else s
        .done (if loads && scope ≤ 3 then s.discardClean e.core true else s) g.next

/-! ### WAITV (R202, R203) -/

/-- The cell or physical address that a monitor watches. -/
def Place.watched : Place → Nat
  | .cell a => a
  | .page t va => t.pa va
  | .logged va => va

/-- A monitor set on a line; a full table gives up its oldest, which wakes its threads (R203). -/
def State.monitor (s : State) (c key : Nat) : State :=
  let k := s.core c
  if k.monitors.contains key then s
  else if k.monitors.length < 64 then s.changeCore c fun k => { k with monitors := k.monitors ++ [key] }
  else
    let s := { s with agenda := s.agenda ++ (k.monitors.take 1).map Instr.waitvWake }
    s.changeCore c fun k => { k with monitors := k.monitors.drop 1 ++ [key] }

/-- A lane parks. -/
def State.parkLane (s : State) (c u l : Nat) (w : Wait) : State :=
  (s.monitor c w.line).changeWeave u fun x => { x with waits := Map.put x.waits l w }

/-- The register that the DEAD hint of a word has marked in a weave, of which `old` is the state before the issue (R40). -/
def Weave.newlyDead (w old : Weave) (f : Fields) : Option Nat :=
  (vectorNamed f.a).filter fun n => w.dead.contains n && !old.dead.contains n

/-- The first thread of a group. -/
def Group.first (g : Group) : Nat × Nat :=
  match g.members with
  | [] => (0, 0)
  | e :: _ => (e.1, (lanesOf e.2).headD 0)

/-- WAITV (R202). In the scalar form the location is read once for the weave, for all of its active lanes (R186). `old` is the
state before the DEAD hint: a WAITV that is withdrawn undoes its mark (R192). -/
def waitvBody (f : Fields) (old : State) : Body := fun s g =>
  let e := s.site g.team
  let space := f.t.toNat
  match s.checkAccesses e space (f.width.bits / 8) .watch false g.pc (s.elements g f space) with
  | .stall => .stall
  | .trap s reqs => .traps s g reqs
  | .pass s places =>
    let (vals, s) := s.readAll e {} places
    let s := s.afterReads e {} places
    let parks := fun u l =>
      (s.active g f u).getLsbD l &&
        (vals.find? fun x => x.1.weave = u && x.1.lanes.getLsbD l).any fun x =>
          x.2 == elem ((s.weave u).opnd f f.b l) f.width.bits 0
    let now := s.clock
    let t := places.foldl
      (fun t x =>
        ((lanesOf x.1.lanes).filter (parks x.1.weave)).foldl
          (fun t l =>
            let limit := ((s.weave x.1.weave).opnd f f.c l).toNat % 2 ^ 32
            t.parkLane e.core x.1.weave l
              { line := monitorKey e.core (lineOf x.2.watched), pc := g.pc, dest := f.d
                until? := if limit = 0 then none else some (now + limit), parked := now, first := g.first
                marked := (s.weave x.1.weave).newlyDead (old.weave x.1.weave) f }) t) s
    let gone := fun u => maskOf ((lanesOf (g.lanes u)).filter (parks u))
    let t := t.eachWeave g fun u m w => w.dest f.d (w.active f m &&& ~~~gone u) (fun _ => 1) 1
    .done t [(g.without gone).at_ (g.pc + 1)]

def execAtom (f : Fields) : State → Host.Outcome State Fault Refusal :=
  run (.atom f) f (atomBody f false fun s x o => some (atomValue f.t.toNat f.width o (s.elemAt f f.b x)))
/-- ACAS (R199). -/
def execAcas (f : Fields) : State → Host.Outcome State Fault Refusal :=
  run (.acas f) f (atomBody f false fun s x o => if o = s.elemAt f f.b x then some (s.elemAt f f.c x) else none)
def execRed (f : Fields) : State → Host.Outcome State Fault Refusal := 
  run (.red f) f (atomBody f true fun s x o => some (atomValue f.t.toNat f.width o (s.elemAt f f.b x)))
def execFence (f : Fields) : State → Host.Outcome State Fault Refusal := run (.fence f) f (fenceBody f)
def execWaitv (f : Fields) : State → Host.Outcome State Fault Refusal := fun s =>
  run (.waitv f) f (waitvBody f s) s

end Sys2Proof.Machine
end

