-- ==== Sys2Proof/Machine/Move.lean ====
section
/-! DEFINITION. Group 0x2: compare, select, move and integer conversion (R117 to R123). -/

namespace Sys2Proof.Machine

/-- The conditions of ICMP on W-bit elements (R118). -/
def condition (t w a b : Nat) : Bool :=
  match t with
  | 0 => a = b
  | 1 => a ≠ b
  | 2 => signed w a < signed w b
  | 3 => signed w a ≤ signed w b
  | 4 => signed w b < signed w a
  | 5 => signed w b ≤ signed w a
  | 6 => a < b
  | 7 => a ≤ b
  | 8 => b < a
  | _ => b ≤ a

/-- The results of the sub-elements joined: in every one, or in at least one with .any (R118). -/
def joined (any : Bool) (n : Nat) (hold : Nat → Bool) : Bool :=
  if any then (List.range n).any hold else (List.range n).all hold

/-- The combination with predicate C (R118). -/
def combine (rm : BitVec 2) (r c : Bool) : Bool :=
  if rm = 0 then r else if rm = 1 then r && c else if rm = 2 then r || c else r != c

def boolWord (b : Bool) : Word64 := if b then 1 else 0

/-- ICMP of one lane. -/
def compareLane (f : Fields) (x : Weave) (l : Nat) : Word64 :=
  let w := f.width.bits
  let a := x.elemOpnd f f.a w l
  let b := x.elemOpnd f f.b w l
  let r := joined f.x f.width.count fun k => condition f.t.toNat w (elem a w k) (elem b w k)
  boolWord (combine f.rm r (x.opnd f f.c l != 0))

/-- The value that the sub-element form of MOV moves (R119). -/
def subelementSource (f : Fields) (x : Weave) (l : Nat) : Nat :=
  let w := f.width.bits
  match f.a with
  | .v _ => elem (x.opnd f f.a l) w f.imm.toNat
  | .imm => (x.opnd f f.a l).toNat % 2 ^ w
  | _ => elem (x.opnd f f.a l) w 0

/-- The lane that MOVS reads (R120). -/
def movsLane (f : Fields) (x : Weave) (act : Mask) : Nat :=
  if f.x then (lanesOf act).headD 0 else (x.opnd f f.b 0).toNat % 32

/-- MOVV.st in one weave: each register it names is written in the lanes that name it. -/
def movvStore (f : Fields) (x : Weave) (act : Mask) : Weave :=
  let val := fun l => x.opnd f f.a l
  (((lanesOf act).map (movvIndex f x)).eraseDups).foldl
    (fun y n => y.vwrite n (maskOf ((lanesOf act).filter fun l => movvIndex f x l == n)) val) x

/-- MOVV (R121). -/
def movvBody (f : Fields) : Body := fun s g =>
  let regs := (s.env g).regs
  let bad := (s.activeLanes g f).filterMap fun (u, l) =>
    let n := movvIndex f (s.weave u) l
    if regs ≤ n then some (⟨u, l, laneBit l, n⟩ : Failure) else none
  match trapsOf causeIllegalOperand bad with
  | q :: qs => .traps s g (q :: qs)
  | [] =>
    let toxic := (s.represented g f).filterMap fun u =>
      let x := s.weave u
      let act := s.active g f u
      let hit := (lanesOf act).filter fun l => x.poisonV.contains (movvIndex f x l)
      let partly := fun n => maskOf ((lanesOf act).filter fun l => movvIndex f x l == n) != x.live
      match hit.filter fun l => !f.x || partly (movvIndex f x l) with
      | [] => none
      | l :: _ => some (⟨u, causePoison, BitVec.ofNat 64 (movvIndex f x l), act⟩ : TrapReq)
    match toxic with
    | q :: qs => .traps s g (q :: qs)
    | [] =>
      .done (s.eachWeave g fun _ m x =>
        let act := x.active f m
        if f.x then movvStore f x act else x.dest f.d act (fun l => x.vread (movvIndex f x l) l) 0) g.next

/-- The logical operations of PSET (R122). -/
def logicT (t : BitVec 4) (a b : Bool) : Bool :=
  if t = 0 then a && b else if t = 1 then a || b else if t = 2 then a != b else a && !b

/-- PMOV with X = 0: the predicates packed into a byte (R122). -/
def packPreds (x : Weave) (l : Nat) : Word64 :=
  packElems 1 (fun n => if x.pread n l then 1 else 0) 8

/-- PMOV.unpk: predicate n takes bit n of A where bit n of B is set (R122). -/
def unpackPreds (f : Fields) (x : Weave) (act : Mask) : Weave :=
  (List.range 7).foldl
    (fun y n =>
      let m := maskOf ((lanesOf act).filter fun l => (x.opnd f f.b l).getLsbD n)
      y.pwrite n m fun l => (x.opnd f f.a l).getLsbD n) x

/-- The destination width of CVTI (R123). -/
def cvtiWidth (f : Fields) : Width := .ofCode (f.t.extractLsb' 0 2)

/-- The limit on the start position (R123). -/
def cvtiStartOk (f : Fields) : Bool :=
  let s := f.imm.toNat % 8
  let w := f.width.bits
  let wd := (cvtiWidth f).bits
  if w < wd then s + 64 / wd ≤ 64 / w else if w = wd then s = 0 else s + 64 / w ≤ 64 / wd

/-- CVTI of one value, `old` being D's old value (R123). -/
def cvtiValue (f : Fields) (a old : Word64) : Word64 :=
  let s := f.imm.toNat % 8
  let w := f.width.bits
  let wd := (cvtiWidth f).bits
  let conv := fun k => fit wd (f.t.getLsbD 2) f.sat (readElem f.x w a k)
  if w < wd then packElems wd (fun k => conv (s + k)) (64 / wd)
  else if w = wd then packElems wd conv (64 / wd)
  else packElems wd (fun k => if s ≤ k ∧ k < s + 64 / w then conv (k - s) else elem old wd k) (64 / wd)

/-- CVTI (R123). -/
def cvtiBody (f : Fields) : Body := fun s g =>
  if cvtiStartOk f then
    computed f (fun x l => cvtiValue f (x.elemOpnd f f.a f.width.bits l) (x.opnd f f.d l)) s g
  else trapActive s g f causeIllegalModifier (BitVec.ofNat 64 (f.imm.toNat % 8))

def execIcmp (f : Fields) : State → Host.Outcome State Fault Refusal := run (.icmp f) f (computed f (compareLane f))

/-- SEL (R119). -/
def execSel (f : Fields) : State → Host.Outcome State Fault Refusal := run (.sel f) f (wholeOp f fun a b c => if c = 0 then b else a)

def execMov (f : Fields) : State → Host.Outcome State Fault Refusal := run (.mov f) f (wholeOp f fun a _ _ => a)

def execMovSubelement (f : Fields) : State → Host.Outcome State Fault Refusal :=
  run (.movSubelement f) f
    (computed f fun x l => setElem (x.opnd f f.d l) f.width.bits f.t.toNat (subelementSource f x l))

/-- MOVI (R119). -/
def execMovi (f : Fields) : State → Host.Outcome State Fault Refusal :=
  run (.movi f) f
    (computed f fun x l => if f.x then setElem (x.opnd f f.d l) 32 1 f.imm.toNat else f.imm.setWidth 64)

/-- MOVS (R120). -/
def execMovs (f : Fields) : State → Host.Outcome State Fault Refusal :=
  run (.movs f) f fun s g =>
    .done (s.eachWeave g fun _ m x =>
      let act := x.active f m
      x.dest f.d act (fun _ => 0) (x.opnd f f.a (movsLane f x act))) g.next

def execMovv (f : Fields) : State → Host.Outcome State Fault Refusal := run (.movv f) f (movvBody f)

/-- PSET (R122). -/
def execPset (f : Fields) : State → Host.Outcome State Fault Refusal :=
  run (.pset f) f (wholeOp f fun a b _ => boolWord (logicT f.t (a.getLsbD 0) (b.getLsbD 0)))

/-- PMOV (R122). -/
def execPmov (f : Fields) : State → Host.Outcome State Fault Refusal :=
  run (.pmov f) f fun s g =>
    .done (s.eachWeave g fun _ m x =>
      let act := x.active f m
      if f.x then unpackPreds f x act else x.dest f.d act (packPreds x) 0) g.next

def execCvti (f : Fields) : State → Host.Outcome State Fault Refusal := run (.cvti f) f (cvtiBody f)

end Sys2Proof.Machine
end

