-- ==== Sys2Proof/Machine/Float.lean ====
section
/-! DEFINITION. Group 0x3: floating-point arithmetic (R128 to R133). -/

namespace Sys2Proof.Machine

/-- FCMP's condition on two values (R131). -/
def floatCondition (rm : Nat) (a b : Fp) : Bool :=
  match rm with
  | 0 => a.same b
  | 1 => a.lt b && !a.same b
  | 2 => a.same b || a.lt b
  | _ => a.isNan || b.isNan

/-- FCMP of one lane. -/
def floatCompare (f : Fields) (x : Weave) (l : Nat) : Word64 :=
  let t := fmtOf f
  let w := f.width.bits
  let a := x.floatOpnd f f.a w l
  let b := x.floatOpnd f f.b w l
  boolWord ((List.range f.width.count).all fun k =>
    floatCondition f.rm.toNat (t.value (elem a w k)) (t.value (elem b w k)) != f.x)

/-- FCLASS of a code (R132). -/
def classOf (t : FloatFmt) (raw : Nat) : Nat :=
  match t.value raw with
  | .inf n => if n then 0 else 7
  | .nan => if (raw >>> (t.mbits - 1)) % 2 = 1 then 9 else 8
  | .fin n m _ =>
    if m = 0 then (if n then 3 else 4)
    else if m < 2 ^ t.mbits then (if n then 2 else 5)
    else if n then 1 else 6

/-- One half of FDOT2 (R133). -/
def fdotHalf (f : Fields) (a b c : Word64) (j : Nat) : Nat :=
  let t := if f.t = 1 then b16Fmt else h16Fmt
  let prod := fun k => (t.value (elem a 16 k)).mul (t.value (elem b 16 k))
  f32Fmt.round f.rm.toNat f.sat (sumExact f.rm.toNat [f32Fmt.value (elem c 32 j), prod (2 * j), prod (2 * j + 1)])

/-- FDOT2 of one lane. -/
def fdotLane (f : Fields) (x : Weave) (l : Nat) : Word64 :=
  let a := x.floatOpnd f f.a 16 l
  let b := x.floatOpnd f f.b 16 l
  let c := x.floatOpnd f f.c 32 l
  packElems 32 (fdotHalf f a b c) 2

def execFadd (f : Fields) : State → Host.Outcome State Fault Refusal :=
  run (.fadd f) f (floatOp f fun a b _ => addCodes (fmtOf f) f.rm.toNat f.sat a b)

def execFsub (f : Fields) : State → Host.Outcome State Fault Refusal :=
  run (.fsub f) f (floatOp f fun a b _ =>
    let t := fmtOf f
    t.round f.rm.toNat f.sat (sumExact f.rm.toNat [t.value a, (t.value b).neg]))

def execFmul (f : Fields) : State → Host.Outcome State Fault Refusal :=
  run (.fmul f) f (floatOp f fun a b _ =>
    let t := fmtOf f
    t.round f.rm.toNat f.sat ((t.value a).mul (t.value b)))

def execFfma (f : Fields) : State → Host.Outcome State Fault Refusal :=
  run (.ffma f) f (floatOp f fun a b c =>
    let t := fmtOf f
    t.round f.rm.toNat f.sat (sumExact f.rm.toNat [(t.value a).mul (t.value b), t.value c]))

def execFmin (f : Fields) : State → Host.Outcome State Fault Refusal := run (.fmin f) f (floatOp f fun a b _ => pickCode (fmtOf f) false a b)
def execFmax (f : Fields) : State → Host.Outcome State Fault Refusal := run (.fmax f) f (floatOp f fun a b _ => pickCode (fmtOf f) true a b)
def execFcmp (f : Fields) : State → Host.Outcome State Fault Refusal := run (.fcmp f) f (computed f (floatCompare f))
def execFclass (f : Fields) : State → Host.Outcome State Fault Refusal := run (.fclass f) f (floatOp f fun a _ _ => classOf (fmtOf f) a)
def execFdot2 (f : Fields) : State → Host.Outcome State Fault Refusal := run (.fdot2 f) f (computed f (fdotLane f))

end Sys2Proof.Machine
end

