-- ==== Sys2Proof/Machine/SpecialFn.lean ====
section
/-! DEFINITION. The special functions of group 0x4 (R137, R138). Each is evaluated to 300 bits or more as a fixed-point
number, its last bit standing for the rest; H16 and B16 results and FSQRT are that value rounded once. Where the manual gives
only an error bound, the result is a free code within the bound. -/

namespace Sys2Proof.Machine

/-! ### Fixed-point evaluation, 400 fraction bits -/

def fixOne : Nat := 2 ^ 400

/-- π with 600 fraction bits. -/
def pi600 : Nat :=
  0x3243f6a8885a308d313198a2e03707344a4093822299f31d0082efa98ec4e6c89452821e638d01377be5466cf34e90c6cc0ac29b7c97c50dd3f84d5b5b54709179216d5d98979fb1bd1310b

/-- ln 2 with 400 fraction bits. -/
def ln2 : Nat := 0xb17217f7d1cf79abc9e3b39803f2f6af40f343267298b62d8a0d175b8baafa2be7b876206debac98559552fb4afa1b10ed2e

/-- floor(√n), bit by bit from bit `i`. -/
def sqrtFrom (n : Nat) : Nat → Nat → Nat
  | 0, acc => acc
  | i + 1, acc => sqrtFrom n i (if (acc + 2 ^ i) * (acc + 2 ^ i) ≤ n then acc + 2 ^ i else acc)

def isqrt (n : Nat) : Nat := sqrtFrom n (Nat.log2 n / 2 + 1) 0

/-- The terms r^k / k! from `k` on. -/
def expTerms (r : Nat) : Nat → Nat → Nat → Nat
  | 0, _, _ => 0
  | fuel + 1, k, term => term + expTerms r fuel (k + 1) (term * r / fixOne / (k + 1))

/-- e^r for r below 1. -/
def expFix (r : Nat) : Nat := expTerms r 110 0 fixOne

/-- The terms (−1)^k r^(2k) / ((s+1) … (s+2k)) from a first term on, `s` being its power. -/
def alternating (rr : Nat) : Nat → Nat → Nat → Int
  | 0, _, _ => 0
  | fuel + 1, s, term => (term : Int) - alternating rr fuel (s + 2) (term * rr / fixOne / ((s + 1) * (s + 2)))

/-- sin r and cos r for r from 0 to π. -/
def sinFix (r : Nat) : Int := alternating (r * r / fixOne) 80 1 r
def cosFix (r : Nat) : Int := alternating (r * r / fixOne) 80 0 fixOne

/-- The terms z^(2k+1) / (2k+1). -/
def atanhTerms (zz : Nat) : Nat → Nat → Nat → Nat
  | 0, _, _ => 0
  | fuel + 1, k, power => power / k + atanhTerms zz fuel (k + 2) (power * zz / fixOne)

/-- ln x for x from 1 to 2. -/
def lnFix (x : Nat) : Nat :=
  let z := (x - fixOne) * fixOne / (x + fixOne)
  2 * atanhTerms (z * z / fixOne) 140 1 z

/-- An inexact fixed-point value: 60 guard bits dropped, and a last bit that says there is more. -/
def inexact (v : Int) (n : Int) : Fp := .fin (v < 0) (v.natAbs / 2 ^ 60 * 2 + 1) (n - 341)

/-- A value just below m × 2^e. -/
def justBelow (neg : Bool) (m : Nat) (e : Int) : Fp := .fin neg (m * 2 ^ 300 - 1) (e - 300)

/-! ### The functions on finite values -/

/-- The exact quotient 1 / (m × 2^e), with a sticky bit. -/
def recip (neg : Bool) (m : Nat) (e : Int) : Fp :=
  let k := 300 + Nat.log2 m
  .fin neg (2 ^ k / m * 2 + (if 2 ^ k % m = 0 then 0 else 1)) (-(k : Int) - 1 - e)

/-- m × 2^e with an even exponent. -/
def evenExp (m : Nat) (e : Int) : Nat × Int := if e % 2 = 0 then (m, e) else (m * 2, e - 1)

def sqrtOf (m : Nat) (e : Int) : Fp :=
  let (m, e) := evenExp m e
  let n := m * 2 ^ 400
  let t := isqrt n
  .fin false (t * 2 + (if t * t = n then 0 else 1)) (e / 2 - 201)

def rsqrtOf (m : Nat) (e : Int) : Fp :=
  let (m, e) := evenExp m e
  let k := 300 + Nat.log2 m
  let t := isqrt (2 ^ (2 * k) / m)
  .fin false (t * 2 + (if t * t * m = 2 ^ (2 * k) then 0 else 1)) (-(k : Int) - 1 - e / 2)

/-- The value as a fixed-point number; bits below the last are dropped. -/
def toFix (x : Fp) : Int :=
  match x with
  | .fin n m e =>
    let k : Nat := if -400 ≤ e then scaled m e (-400) else m / 2 ^ (-400 - e).toNat
    if n then -(k : Int) else k
  | _ => 0

def exp2Of (x : Fp) : Fp :=
  if x.isZero then .fin false 1 0
  else if x.log2 < -300 then (if x.sign then justBelow false 1 0 else .fin false (2 ^ 300 + 1) (-300))
  else if 20 < x.log2 then .fin false 1 (if x.sign then -2 ^ 20 else 2 ^ 20)
  else
    let a := toFix x
    let n := a / (fixOne : Int)
    let fr := (a % (fixOne : Int)).toNat
    if fr = 0 then .fin false 1 n else inexact (expFix (fr * ln2 / fixOne)) n

def log2Of (m : Nat) (e : Int) : Fp :=
  let n : Int := Nat.log2 m + e
  let x := m * 2 ^ (400 - Nat.log2 m)
  if x = fixOne then ofInt n else inexact (n * fixOne + lnFix x * fixOne / ln2) 0

/-- The multiple of π below |a|, and the rest as a fixed-point number. -/
def reducePi (m : Nat) (e : Int) : Nat × Nat :=
  let a := scaled m e (-600)
  (a / pi600, a % pi600 / 2 ^ 200)

def sinOf (neg : Bool) (m : Nat) (e : Int) : Fp :=
  if Nat.log2 m + e < -200 then justBelow neg m e
  else
    let (k, r) := reducePi m e
    inexact (if (k % 2 = 1) != neg then -sinFix r else sinFix r) 0

def cosOf (m : Nat) (e : Int) : Fp :=
  if Nat.log2 m + e < -200 then justBelow false 1 0
  else
    let (k, r) := reducePi m e
    inexact (if k % 2 = 1 then -cosFix r else cosFix r) 0

def tanhOf (neg : Bool) (m : Nat) (e : Int) : Fp :=
  if Nat.log2 m + e < -200 then justBelow neg m e
  else if 8 ≤ Nat.log2 m + e then justBelow neg 1 0
  else
    let q := (toFix (.fin false m (e + 1))).toNat * fixOne / ln2
    let y := expFix (q % fixOne * ln2 / fixOne) * 2 ^ (q / fixOne)
    let t : Int := (y - fixOne) * fixOne / (y + fixOne)
    inexact (if neg then -t else t) 0

/-- The value of a special function at a code's value, special inputs included (R138). The opcode names the function. -/
def specialValue (opcode : Nat) (x : Fp) : Fp :=
  match opcode, x with
  | _, .nan => .nan
  | 0x104, .inf n => .zero n
  | 0x104, .fin n m e => if m = 0 then .inf n else recip n m e
  | 0x105, .inf n => if n then .nan else .zero false
  | 0x105, .fin n m e => if m = 0 then .inf n else if n then .nan else rsqrtOf m e
  | 0x106, .inf n => if n then .nan else .inf false
  | 0x106, .fin n m e => if m = 0 then .zero n else if n then .nan else sqrtOf m e
  | 0x107, .inf n => if n then .zero false else .inf false
  | 0x107, .fin n m e => exp2Of (.fin n m e)
  | 0x108, .inf n => if n then .nan else .inf false
  | 0x108, .fin n m e => if m = 0 then .inf true else if n then .nan else log2Of m e
  | 0x109, .fin n m e => if m = 0 then .zero n else sinOf n m e
  | 0x10A, .fin _ m e => if m = 0 then .fin false 1 0 else cosOf m e
  | 0x10B, .inf n => .fin n 1 0
  | 0x10B, .fin n m e => if m = 0 then .zero n else tanhOf n m e
  | _, .inf _ => .nan
  | _, .fin _ _ _ => .nan

/-! ### Bounds (R137) -/

/-- The exponent of one unit in the last place of a format at a value. -/
def FloatFmt.ulpExp (t : FloatFmt) (x : Fp) : Int := max (x.log2 - t.mbits) t.lowExp

/-- |c − x| is at most k × 2^e. -/
def Fp.near (x c : Fp) (k : Nat) (e : Int) : Bool :=
  match c, sumExact 0 [c, x.neg] with
  | .fin _ _ _, .fin _ m j => !(Fp.lt (.fin false k e) (.fin false m j))
  | _, _ => false

/-- A code is within the bound that a function states for a format and an argument; `x` is the exact result. -/
def FloatFmt.withinBound (t : FloatFmt) (opcode : Nat) (arg x : Fp) (c : Nat) : Bool :=
  match opcode with
  | 0x104 | 0x105 => (c = t.round 2 false x || c = t.round 3 false x) && x.near (t.value c) 1 (t.ulpExp x)
  | 0x107 | 0x10B => x.near (t.value c) 2 (t.ulpExp x)
  | 0x108 =>
    if Fp.lt arg (.fin false 1 (-1)) || Fp.lt (.fin false 1 1) arg then x.near (t.value c) 2 (t.ulpExp x)
    else x.near (t.value c) 1 (-22)
  | _ => x.near (t.value c) 1 (-22)

/-- No bound is used: the exact result is a code, or it leaves the format's normal range (R137). -/
def FloatFmt.exactResult (t : FloatFmt) (opcode : Nat) (x : Fp) : Bool :=
  match x with
  | .fin _ m e =>
    m = 0 || x.log2 < t.minExp ||
      (opcode != 0x109 && opcode != 0x10A &&
        ((t.value (t.round 1 false (.fin false m e))).same (.fin false m e) ||
          decide (t.maxCode false < t.round 0 false (.fin false m e))))
  | _ => true

/-- A special function on one code. F32 and F64 results other than square roots are free within their bound. A square root
rounds in RM in every format (log entry 74). -/
def specialResult (f : Fields) (opcode raw : Nat) : Nat :=
  let t := fmtOf f
  let arg := t.value raw
  let x := specialValue opcode arg
  let nearest := t.round f.rm.toNat f.sat x
  if f.width = .h ∨ opcode = 0x106 ∨ arg.isZero ∨ t.exactResult opcode x then nearest
  else
    let c := Config.specialCode opcode f.width.bits raw % 2 ^ f.width.bits
    if t.withinBound opcode arg x c then c else nearest

/-- A special function. -/
def specialOp (f : Fields) (opcode : Nat) : Body := floatOp f fun a _ _ => specialResult f opcode a

def execFrcp (f : Fields) : State → Host.Outcome State Fault Refusal := run (.frcp f) f (specialOp f 0x104)
def execFrsq (f : Fields) : State → Host.Outcome State Fault Refusal := run (.frsq f) f (specialOp f 0x105)
def execFsqrt (f : Fields) : State → Host.Outcome State Fault Refusal := run (.fsqrt f) f (specialOp f 0x106)
def execFexp2 (f : Fields) : State → Host.Outcome State Fault Refusal := run (.fexp2 f) f (specialOp f 0x107)
def execFlog2 (f : Fields) : State → Host.Outcome State Fault Refusal := run (.flog2 f) f (specialOp f 0x108)
def execFsin (f : Fields) : State → Host.Outcome State Fault Refusal := run (.fsin f) f (specialOp f 0x109)
def execFcos (f : Fields) : State → Host.Outcome State Fault Refusal := run (.fcos f) f (specialOp f 0x10A)
def execFtanh (f : Fields) : State → Host.Outcome State Fault Refusal := run (.ftanh f) f (specialOp f 0x10B)

end Sys2Proof.Machine
end

