-- ==== Sys2Proof/Machine/Convert.lean ====
section
/-! DEFINITION. The conversions and exponent instructions of group 0x4 (R135, R136, R139 to R141). -/

namespace Sys2Proof.Machine

/-! ### FCVT -/

/-- One element converted between two element encodings (R54 to R57). -/
def convertElem (src dst rm : Nat) (sat : Bool) (raw : Nat) : Nat :=
  if isIntCode src && isIntCode dst then fit (intFmt dst).1 (intFmt dst).2 sat (intValue src raw)
  else convert dst rm sat (valueOf src raw)

/-- The start position of FCVT. -/
def cvtStart (f : Fields) : Nat := f.imm.toNat / 16 % 16

/-- The limit on the start position (R135). -/
def cvtOk (f : Fields) : Bool :=
  let s := cvtStart f
  let ws := cvtWidth (cvtSrc f)
  let wd := cvtWidth f.t.toNat
  let n := 64 / max ws wd
  if ws < wd then s + n ≤ 64 / ws else if ws = wd then s = 0 else s + n ≤ 64 / wd

/-- FCVT of one value, `old` being D's old value (R135). -/
def cvtValue (f : Fields) (a old : Word64) : Word64 :=
  let s := cvtStart f
  let ws := cvtWidth (cvtSrc f)
  let wd := cvtWidth f.t.toNat
  let n := 64 / max ws wd
  let conv := fun k => convertElem (cvtSrc f) f.t.toNat f.rm.toNat f.sat (elem a ws k)
  if ws < wd then packElems wd (fun k => conv (s + k)) n
  else if ws = wd then packElems wd conv n
  else packElems wd (fun k => if s ≤ k ∧ k < s + n then conv (k - s) else elem old wd k) (64 / wd)

def cvtBody (f : Fields) : Body := fun s g =>
  if cvtOk f then computed f (fun x l => cvtValue f (x.opnd f f.a l) (x.opnd f f.d l)) s g
  else trapActive s g f causeIllegalModifier (BitVec.ofNat 64 (cvtStart f))

/-! ### Rounding to integers (R136) -/

/-- FRND of one code. -/
def roundCode (t : FloatFmt) (rm raw : Nat) : Nat :=
  match t.value raw with
  | .nan => t.qnan
  | .inf _ => raw
  | .fin n m e =>
    let k := roundInt rm (.fin n m e)
    if m = 0 then raw else t.round rm false (.fin n k.natAbs 0)

def execFcvt (f : Fields) : State → Host.Outcome State Fault Refusal := run (.fcvt f) f (cvtBody f)
def execFrnd (f : Fields) : State → Host.Outcome State Fault Refusal :=
  run (.frnd f) f (floatOp f fun a _ _ => roundCode (fmtOf f) f.rm.toNat a)
def execFtoi (f : Fields) : State → Host.Outcome State Fault Refusal :=
  run (.ftoi f) f (floatOp f fun a _ _ => toInteger f.width.bits f.x f.rm.toNat ((fmtOf f).value a))

def execItof (f : Fields) : State → Host.Outcome State Fault Refusal :=
  run (.itof f) f (elemOp f fun a _ _ =>
    (fmtOf f).round f.rm.toNat f.sat (ofInt (if f.x then (a : Int) else signed f.width.bits a)))

/-! ### Exponents -/

/-- e(x) (R139). -/
def exponentOf (x : Fp) : Int :=
  match x with
  | .nan => 1023
  | .inf _ => 1024
  | .fin n m e => if m = 0 then -1022 else max (Fp.log2 (.fin n m e)) (-1022)

/-- XMAX of one lane (R139). -/
def xmaxLane (f : Fields) (x : Weave) (l : Nat) : Word64 :=
  let w := f.width.bits
  let a := x.elemOpnd f f.a w l
  let b := x.floatOpnd f f.b w l
  packElems w (fun k => wrapInt w (max (signed w (elem a w k)) (exponentOf ((fmtOf f).value (elem b w k))))) f.width.count

/-- XSCALE of one code (R140). Beyond ±5000 the exponent makes no difference to any format. -/
def scaleCode (t : FloatFmt) (rm : Nat) (sat : Bool) (raw : Nat) (n : Int) : Nat :=
  match t.value raw with
  | .inf _ => raw
  | .fin _ 0 _ => raw
  | x => t.round rm sat (x.shift (max (-5000) (min 5000 n)))

/-- XSCALE of one lane (R140). -/
def xscaleLane (f : Fields) (x : Weave) (l : Nat) : Word64 :=
  let w := f.width.bits
  let a := x.floatOpnd f f.a w l
  let b := x.elemOpnd f f.b w l
  packElems w (fun k => scaleCode (fmtOf f) f.rm.toNat f.sat (elem a w k) (signed w (elem b w k))) f.width.count

/-- The mantissa of XSPLIT (R141). -/
def splitMantissa (t : FloatFmt) (raw : Nat) : Nat :=
  match t.value raw with
  | .nan => t.qnan
  | .inf _ => raw
  | .fin n m e => if m = 0 then raw else t.round 0 false (.fin n m (e - Fp.log2 (.fin n m e)))

/-- The exponent of XSPLIT (R141). -/
def splitExponent (t : FloatFmt) (raw : Nat) : Int :=
  match t.value raw with
  | .nan => 1023
  | .inf _ => 1024
  | .fin n m e => if m = 0 then 0 else Fp.log2 (.fin n m e)

/-- XSPLIT (R141): D, then C, so a register named twice holds e. -/
def xsplitBody (f : Fields) : Body := fun s g =>
  let w := f.width.bits
  let t := fmtOf f
  .done (s.eachWeave g fun _ m x =>
    let act := x.active f m
    let a := x.floatOpnd f f.a w
    let man := fun l => packElems w (fun k => splitMantissa t (elem (a l) w k)) f.width.count
    let ex := fun l => packElems w (fun k => wrapInt w (splitExponent t (elem (a l) w k))) f.width.count
    (x.dest f.d act man (man 0)).dest f.c act ex (ex 0)) g.next

def execXmax (f : Fields) : State → Host.Outcome State Fault Refusal := run (.xmax f) f (computed f (xmaxLane f))
def execXscale (f : Fields) : State → Host.Outcome State Fault Refusal := run (.xscale f) f (computed f (xscaleLane f))
def execXsplit (f : Fields) : State → Host.Outcome State Fault Refusal := run (.xsplit f) f (xsplitBody f)

end Sys2Proof.Machine
end

