-- ==== Sys2Proof/Machine/Copy.lean ====
section
/-! DEFINITION. Group 0xB but for JOBSUB: copies and watermarks (R205 to R221), and how copies land (R287 to R298, R330,
R372). -/

namespace Sys2Proof.Machine

/-! ### Reads of the engines (R215, R318) -/

/-- What a source read finds. -/
inductive Sourced where
  | bytes (bs : List Byte)
  /-- addresses on the distinct pages that are missing, the first address first -/
  | missing (vas : List Nat)
  | refused (va : Nat)
  | poison (va : Nat)
  /-- the page moves, or stores to it stand in the side log -/
  | wait
  deriving DecidableEq, Repr

/-- A byte that is dirty in the L1 of the core that an engine works for. -/
def State.dirtyInL1 (s : State) (w : Walker) (pa : Nat) : Option Byte :=
  if w.cached then
    (Map.find (s.core w.core).l1 (lineOf pa)).bind fun l =>
      if l.dirty.contains (pa % 128) then l.bytes.getD (pa % 128) none else none
  else none

/-- Such a byte stands in a line of the L1 whose codeword is poisoned. -/
def State.dirtyToxic (s : State) (w : Walker) (pa : Nat) : Bool :=
  (s.dirtyInL1 w pa).isSome && (s.core w.core).toxicL1.contains (lineOf pa)

/-- A byte as an engine reads it: dirty in the issuing core's L1, or at its home (R318). -/
def State.engineByte (s : State) (w : Walker) (pa : Nat) : Byte × State :=
  match s.dirtyInL1 w pa with
  | some b => (b, s)
  | none =>
    let s := s.homeTouch none (lineOf pa)
    (Memory.read s.mem pa, s)

/-- A byte of a translated page. -/
def State.sourceByte (s : State) (w : Walker) (t : Translation) (va : Nat) : Byte × State :=
  if t.stored (t.pa va) then s.engineByte w (t.pa va)
  else
    let (bs, s) := s.outsideRead 1
    (bs.headD 0, s)

/-- Bytes read by an engine for a context, each through its translation. -/
def State.sourceBytes (s : State) (w : Walker) (va : Nat) : Nat → Sourced × State
  | 0 => (.bytes [], s)
  | n + 1 =>
    match s.sourceBytes w va n with
    | (.bytes bs, s) =>
      let a := (va + n) % 2 ^ 56
      match s.reach w a with
      | (.poison pa, s) => (.poison pa, s)
      | (.missing _, s) => (.missing [a], s)
      | (.refused, s) => (.refused a, s)
      | (.page t, s) =>
        if !s.permits t .read (t.pa a) 1 then (.refused a, s)
        else if s.movesFor w.asid t || s.logged w a then (.wait, s)
        else if t.stored (t.pa a) && (s.poisoned (t.pa a) 1 || s.dirtyToxic w (t.pa a)) then (.poison a, s)
        else
          let (b, s) := (s.answered w.asid t).sourceByte w t a
          (.bytes (bs ++ [b]), s)
    | other => other

/-! ### Layout records (R207) -/

structure Layout where
  base : Nat
  pad : Nat
  esize : Nat
  ndim : Nat
  ragged : Bool
  box : List Nat
  stride : List Int
  rowOff : Nat
  deriving DecidableEq, Repr

/-- The product of the box sizes below a dimension. -/
def boxProduct (box : List Nat) (d : Nat) : Nat := (box.take d).foldl (· * ·) 1

/-- The bytes of an element and of the box. -/
def Layout.elem (y : Layout) : Nat := 2 ^ y.esize
def Layout.bytes (y : Layout) : Nat := y.elem * boxProduct y.box y.ndim

def Layout.ofBytes (bs : List Byte) : Layout :=
  let field := fun off n => natOfBytes ((bs.drop off).take n)
  { base := field 0 8, pad := field 8 8, esize := field 0x10 1, ndim := field 0x11 1, ragged := bit (field 0x12 1) 0
    box := (List.range 5).map fun d => field (0x14 + 2 * d) 2
    stride := (List.range 5).map fun d => signed 32 (field (0x20 + 4 * d) 4)
    rowOff := field 0x38 8 }

/-- Every field lies within R207 and R208. -/
def layoutOk (bs : List Byte) : Bool :=
  let y := Layout.ofBytes bs
  let field := fun off n => natOfBytes ((bs.drop off).take n)
  let used := fun d => decide (d < y.ndim)
  y.esize ≤ 3 && 1 ≤ y.ndim && y.ndim ≤ 5 && field 0x12 1 ≤ 1 && field 0x13 1 == 0 && field 0x1E 2 == 0 && field 0x34 4 == 0 &&
    y.base < 2 ^ 56 && y.base % y.elem == 0 && y.pad < 2 ^ (8 * y.elem) &&
    ((List.range 5).all fun d => if used d then y.box.getD d 0 != 0 else y.box.getD d 0 == 0 && y.stride.getD d 0 == 0) &&
    y.bytes < 2 ^ 32 && (if y.ragged then y.ndim == 2 && y.rowOff % 8 == 0 else y.rowOff == 0)

/-- The index of box element j, dimension d. -/
def Layout.index (y : Layout) (j d : Nat) : Nat := j / boxProduct y.box d % y.box.getD d 1

/-- A signed coordinate of the vector. -/
def coordOf (coords : List (BitVec 32)) (d : Nat) : Int := (coords.getD d 0).toInt

/-- The address of an element of a dense box (R208). -/
def Layout.source (y : Layout) (coords : List (BitVec 32)) (j : Nat) : Nat :=
  let terms := (List.range y.ndim).map fun d => (coordOf coords d + y.index j d) * y.stride.getD d 0
  wrapInt 56 (y.base + y.elem * terms.sum)

/-- Two reads made together; where both pages are missing, both are named (R324). -/
def State.readPair (s : State) (w : Walker) (a b n : Nat) : Sourced × Sourced × State :=
  let (x, s) := s.sourceBytes w a n
  let (y, s) := s.sourceBytes w b n
  match x, y with
  | .missing p, .missing q => (.missing (p ++ q.filter fun v => !p.any fun u => pageOf u == pageOf v), y, s)
  | _, _ => (x, y, s)

/-- The element of a box: its bytes, or what keeps them from being read. The length of a row is a difference of counts: it is
negative where they decrease, and every position of such a row is a pad position (R208). -/
def State.boxElement (s : State) (w : Walker) (y : Layout) (coords : List (BitVec 32)) (j : Nat) : Sourced × State :=
  if !y.ragged then s.sourceBytes w (y.source coords j) y.elem
  else
    let r := coordOf coords 1 + y.index j 1
    let c := coordOf coords 0 + y.index j 0
    match s.readPair w (wrapInt 56 (y.rowOff + 8 * r)) (wrapInt 56 (y.rowOff + 8 * r + 8)) 8 with
    | (.bytes first, .bytes last, s) =>
      let start : Int := natOfBytes first
      let len : Int := natOfBytes last - start
      if 0 ≤ c ∧ c < len then s.sourceBytes w (wrapInt 56 (y.base + y.elem * (start + c * y.stride.getD 0 0))) y.elem
      else (.bytes (bytesOfNat y.elem y.pad), s)
    | (.bytes _, other, s) => (other, s)
    | (other, _, s) => (other, s)

/-! ### Issue (R206, R209, R210, R216) -/

/-- The bits of a watermark register (R24). -/
def Watermark.word (w : Watermark) : Word64 :=
  BitVec.ofNat 64 (w.landed.toNat + (if w.active then 2 ^ 32 else 0) + (if w.frozen then 2 ^ 33 else 0) +
    (if w.failed then 2 ^ 34 else 0) + w.slot.toNat * 2 ^ 40)

def wmNamed : Operand → Option Nat
  | .w n => some n.toNat
  | _ => none

def State.watermark (s : State) (t n : Nat) : Watermark := Map.at (s.team t).wm {} n

/-- The record at an address, read by a weave under checks 1 and 2 of R209: its bytes, or how the instruction stops. -/
def State.readRecord (s : State) (u : Nat) (act : Mask) (pc : Slot) (va : Nat) : Except One (List Byte × State) :=
  let e := s.site (teamOfWeave u)
  let x : Access := { weave := u, lane := (lanesOf act).headD 0, lanes := act, addr := va, bytes := 64 }
  match s.checkAccesses e spaceG 64 .read false pc [x] with
  | .trap s (q :: _) => .error (.trap s q)
  | .trap s [] | .pass s [] => .error (.wait s)
  | .stall => .error (.wait s)
  | .pass s ((_, .page t va) :: _) =>
    .ok ((List.range 64).foldl (fun r k =>
      let (b, s) := r.2.sourceByte e.walker t (va + k)
      (r.1 ++ [b], s)) ([], s))
  | .pass s _ => .error (.wait s)

/-- What a copy instruction asks for, once its record and coordinates are known. -/
structure CopyAsk where
  multicast : Bool
  space : Nat
  layout : Layout
  record : List Byte
  coords : List (BitVec 32)
  doff : Nat
  mask : Nat
  barrier : Option Nat
  deriving DecidableEq, Repr

/-- The number of coordinate values a copy takes (R206). -/
def coordCount (multicast bar : Bool) (ndim : Nat) : Nat := ndim + 1 + (if multicast then 1 else 0) + (if bar then 1 else 0)

/-- The scalar registers that hold a number of coordinate values. -/
def coordRun (first count : Nat) : List Nat := span first ((count + 1) / 2)

/-- The coordinate vector in a wave's scalar registers. -/
def Weave.coordinates (w : Weave) (first count : Nat) : List (BitVec 32) :=
  (List.range count).map fun j => BitVec.ofNat 32 ((w.sread (first + j / 2)).toNat / 2 ^ (32 * (j % 2)))

def askOf (multicast bar : Bool) (space imm : Nat) (bs : List Byte) (coords : List (BitVec 32)) : CopyAsk :=
  let y := Layout.ofBytes bs
  let after := fun k => (coords.getD (y.ndim + k) 0).toNat
  { multicast := multicast, space := space, layout := y, record := bs, coords := coords, doff := imm % 2 ^ 27 + after 0
    mask := if multicast then after 1 else 0
    barrier := if bar then some (after (if multicast then 2 else 1)) else none }

/-- The first offset of the box that no member's memory holds (check 6 of R209). -/
def State.unmapped (s : State) (e : Site) (low n : Nat) : Option Nat :=
  let size := max 1 e.kernel.cluster
  let parts := span (low / size) ((low + n - 1) / size + 1 - low / size)
  (parts.find? fun k => (s.contribution e (k * size)).isNone).map fun k => max low (k * size)

/-- The in-gang index that group bit k of a team names. -/
def State.groupIndex (s : State) (t k : Nat) : Nat := (s.team t).index / 32 * 32 + k

/-- A team of the gang has this index, whether or not it has ended. -/
def State.teamExists (s : State) (gang index : Nat) : Bool := s.teams.any fun t => t.2.gang = gang && t.2.index = index

/-- Check 8 of R209: the barrier object of an engine command. -/
def State.barrierTrap (s : State) (u : Nat) (act : Mask) (e : Site) (off : Nat) : Option TrapReq :=
  if off % 16 ≠ 0 then some ⟨u, causeMisaligned, BitVec.ofNat 64 off, act⟩
  else if s.spaceBytes e spaceS < off + 16 then some ⟨u, causeScratchBounds, BitVec.ofNat 64 off, act⟩
  else none

/-- Checks 4 to 8 of R209. -/
def State.copyTrap (s : State) (u : Nat) (act : Mask) (e : Site) (q : CopyAsk) : Option TrapReq :=
  let trap := fun (cause : Byte) (a : Nat) => some (⟨u, cause, BitVec.ofNat 64 a, act⟩ : TrapReq)
  let limit := s.spaceBytes e q.space
  let n := q.layout.bytes
  firstTrap
    [ if q.doff % q.layout.elem ≠ 0 then trap causeMisaligned q.doff else none,
      if limit < q.doff + n then trap causeScratchBounds (max q.doff limit) else none,
      if q.space = spaceC then (s.unmapped e q.doff n).bind (trap causeNotMember) else none,
      if q.multicast &&
          (!(s.team e.team).joined ||
            (List.range 24).any fun k => bit q.mask k && !s.teamExists e.gang (s.groupIndex e.team k)) then
        trap causeMulticast q.mask else none,
      q.barrier.bind (s.barrierTrap u act e) ]

/-- The targets of a copy, and the mask of those skipped (R216). -/
def State.copyTargets (s : State) (e : Site) (q : CopyAsk) : List Nat × BitVec 24 :=
  if !q.multicast then ([e.team], 0)
  else
    let named := (List.range 24).filter fun k => bit q.mask k
    let live := named.filter fun k => (s.window e).members.getLsbD k && (s.teamAt e.gang (s.groupIndex e.team k)).isSome
    (live.filterMap fun k => s.teamAt e.gang (s.groupIndex e.team k),
      named.foldl (fun m k => if live.contains k then m else m ||| BitVec.twoPow 24 k) 0)

/-- Failed copies on the registers that a new copy binds give them up (R297). -/
def State.releaseFailed (s : State) (targets : List Nat) (wm : Nat) : State :=
  let copies := s.copies.map fun c : Nat × Copy =>
    if !c.2.active && c.2.wm = wm then (c.1, { c.2 with targets := c.2.targets.filter fun t => !targets.contains t }) else c
  { s with copies := copies.filter fun c : Nat × Copy => c.2.active || !c.2.targets.isEmpty }

/-- The active-copy slots of a core that no copy holds. -/
def State.freeSlots (s : State) (c : Nat) : List Nat :=
  let held := (s.copies.filter fun k => k.2.core = c && !k.2.saved).map fun k => k.2.slot
  (List.range 64).filter fun n => !held.contains n

/-- A copy bound to one of the free slots; the manual does not say which. -/
def State.bindCopy (s : State) (c : Copy) : Option State :=
  let s := s.releaseFailed c.targets c.wm
  match s.freeSlots c.core with
  | [] => none
  | slots =>
    let (x, s) := s.free
    let c := { c with slot := slots.getD (x.toNat % slots.length) 0, issued := s.clock }
    some (s.putCopy (Map.next s.copies) c)

/-- A checked copy waits, binds, or ends at once (R210, R216). -/
def State.startCopy (s : State) (u wm : Nat) (tok : Option Nat) (pc : Slot) (e : Site) (q : CopyAsk) : One :=
  let (targets, skipped) := s.copyTargets e q
  if targets.isEmpty then
    .ok (s.giveToken u tok (token (if skipped = 0 then statusDone else statusSkipped) 0 skipped.toNat))
  else if targets.any fun t => (s.watermark t wm).active then .wait s
  else
    let c : Copy :=
      { core := e.core, team := e.team, weave := u, slice := e.slice, asid := e.asid, wm := wm, token := tok, space := q.space
        doff := q.doff, nbytes := q.layout.bytes, record := q.record, coords := q.coords, targets := targets
        skipped := skipped, barrier := q.barrier, pc := pc }
    match s.bindCopy c with
    | none => .wait s
    | some s => .ok s

/-- CPY, CPYM or CPYR in one weave. The coordinates are read once the record has given their number (R206, R209, R214). -/
def copyOne (f : Fields) (multicast ragged : Bool) (s : State) (g : Group) (u : Nat) (act : Mask) : One :=
  let e := s.site g.team
  let w := s.weave u
  let va := (w.opnd f f.a 0).toNat
  match s.readRecord u act g.pc va with
  | .error o => o
  | .ok (bs, s) =>
    let first := (scalarNamed f.b).getD 0
    let count := coordCount multicast f.x (Layout.ofBytes bs).ndim
    let run := coordRun first count
    let illegal : TrapReq := ⟨u, causeIllegalOperand, BitVec.ofNat 64 va, act⟩
    if !layoutOk bs || 64 < first + run.length || (Layout.ofBytes bs).ragged != ragged then .trap s illegal
    else if run.any (s.pendingToken u) then .wait s
    else
      match run.find? w.poisonS.contains with
      | some n => .trap s ⟨u, causePoison, BitVec.ofNat 64 (0x80 + n), act⟩
      | none =>
        let q := askOf multicast f.x f.t.toNat f.imm.toNat bs (w.coordinates first count)
        if 2 ^ 24 ≤ q.mask then .trap s illegal
        else
          match s.copyTrap u act e q with
          | some r => .trap s r
          | none => s.startCopy u ((wmNamed f.c).getD 0) (scalarNamed f.d) g.pc e q

/-! ### Landing (R211, R291, R372) -/

/-- The walker of a copy's source reads. -/
def Copy.walker (c : Copy) : Walker := { asid := c.asid, slice := some c.slice, core := c.core }

/-- A staging copy's next unit: source address, offset, size (R372). -/
def stagingUnit (landed : Nat) : List (Nat × Nat × Nat) → Option (Nat × Nat × Nat)
  | [] => none
  | (va, bytes, soff) :: rest =>
    if landed < bytes then some (va + landed, soff + landed, min 8 (bytes - landed)) else stagingUnit (landed - bytes) rest

/-- The offset and size of what a copy lands next. -/
def Copy.nextUnit (c : Copy) : Nat × Nat :=
  if c.ranges.isEmpty then (c.doff + c.landed, (Layout.ofBytes c.record).elem)
  else
    match stagingUnit c.landed c.ranges with
    | some (_, off, n) => (off, n)
    | none => (0, 0)

/-- Two copies of one team land in one view of it: in .s, in the memory of a common target (R291, R293). -/
def Copy.sharesView (a b : Copy) : Bool :=
  a.space = b.space && a.team = b.team && (a.space != spaceS || a.targets.any b.targets.contains)

/-- The order of the copies of a team: by the clock of their issue, then compute weaves before shadow waves and by WEAVEID, then
as they were bound (R291). -/
def Copy.order (c : Copy) (k : Nat) : List Nat := [c.issued, c.weave % 128, k]

/-- An earlier copy of the team has still to land what this one would land next (R291). -/
def State.overlapHeld (s : State) (k : Nat) (c : Copy) : Bool :=
  let (off, n) := c.nextUnit
  s.copies.any fun a => lexBefore (a.2.order a.1) (c.order k) && a.2.active && a.2.sharesView c && (span off n).any a.2.unlanded

/-- The source of the next unit. -/
def State.copySource (s : State) (c : Copy) : Sourced × State :=
  if c.ranges.isEmpty then
    let y := Layout.ofBytes c.record
    s.boxElement c.walker y c.coords (c.landed / y.elem)
  else
    match stagingUnit c.landed c.ranges with
    | some (va, _, n) => s.sourceBytes c.walker va n
    | none => (.wait, s)

/-- The cells an offset of a copy stands for, one for each target. The bytes for a team that has ended are discarded (R272);
a team that left its group since the issue still receives them (R283). -/
def State.landingCells (s : State) (c : Copy) (off : Nat) : List Nat :=
  if c.space = spaceS then c.targets.map fun t => onChip .scratch t + off
  else if c.targets.isEmpty then []
  else
    let e := s.site c.team
    if c.space = spaceC then
      let size := max 1 e.kernel.cluster
      ((s.teamAt e.gang (s.groupIndex c.team (off / size))).map fun t => onChip .cluster t + off % size).toList
    else [s.cellOf e 0 0 c.space off]

/-- A box covers a whole line of its destination. -/
def Copy.coversLine (c : Copy) (off : Nat) : Bool :=
  let low := off / 128 * 128
  if c.ranges.isEmpty then decide (c.doff ≤ low) && decide (low + 128 ≤ c.doff + c.nbytes)
  else c.ranges.any fun r => decide (r.2.2 ≤ low) && decide (low + 128 ≤ r.2.2 + r.2.1)

/-- Landing would write part of a poisoned line (R441). -/
def State.landsOnPoison (s : State) (c : Copy) (off n : Nat) : Bool :=
  !c.coversLine off && (s.landingCells c off).any fun a => s.poisoned a n

/-- Bytes landed at a cell; the last bytes of a line that the box covers end its poison. -/
def State.landBytes (s : State) (c : Copy) (off : Nat) (bs : List Byte) : State :=
  let whole := c.coversLine off && (off + bs.length) % 128 = 0
  (s.landingCells c off).foldl
    (fun s a =>
      let s := s.putOnChip a bs
      if whole then { s with poison := setDrop s.poison (lineOf a) } else s) s

/-- A copy's countdown on its barrier objects (R217). -/
def State.copyCountdown (s : State) (c : Copy) (units : Nat) : State :=
  match c.barrier with
  | none => s
  | some off => c.targets.foldl (fun s t => s.updateBarrier (onChip .scratch t + off) fun b => b.countDown false units) s

/-- A copy freezes at missing pages, and asks for them (R212, R330). Without room for the reports it stays frozen, and asks
when it next tries (R326). -/
def State.freeze (s : State) (k : Nat) (c : Copy) (vas : List Nat) : State :=
  let s := s.putCopy k { c with frozen := true, pages := vas.map pageOf, tried := s.clock }
  let asked := vas.foldl
    (fun (s : State) va =>
      s.requestPage c.walker
        { kind := 1, cause := 0x0A, flags := flagCopy, team := (s.team c.team).teamId, addr := va
          weave := if c.ranges.isEmpty then (s.weave c.weave).weaveId else 0xFFFF
          pc := if c.ranges.isEmpty then c.pc.toNat else 0xFFFFFFFFFFFFFFFF, gang := (s.gang (s.team c.team).gang).gangId }) s
  if asked.roomFor then asked else s

/-- The next unit lands in a claimed bank (R381). -/
def State.landsInClaim (s : State) (c : Copy) : Bool :=
  let (off, n) := c.nextUnit
  (s.landingCells c off).any fun a => s.cellsClaimed a n

/-- A copy may land: in flight, not frozen, its gang not saved, bytes left, no earlier copy in its way, no claimed bank. -/
def State.landable (s : State) (k : Nat) (c : Copy) : Bool :=
  c.active && !c.frozen && !c.saved && c.landed < c.nbytes && !s.overlapHeld k c && !s.landsInClaim c

/-- The next element lands (R211). -/
def State.landNext (s : State) (k : Nat) (c : Copy) : State :=
  let (off, n) := c.nextUnit
  match s.copySource c with
  | (.wait, _) => s
  | (.missing vas, s) => s.freeze k c vas
  | (.refused _, s) => s.endCopy k statusFault
  | (.poison _, s) => s.endCopy k statusPoison
  | (.bytes bs, s) =>
    if s.landsOnPoison c off n then s.endCopy k statusPoison
    else
      let s := s.landBytes c off bs
      let s := s.copyCountdown c (unitsBetween c.landed (c.landed + n) c.nbytes)
      s.putCopy k { c with landed := c.landed + n }

/-- COPY_LAND_ELEMENT (R211); nothing happens where the copy cannot land, or where a report of its walk finds no room (R326). -/
def execCopyLandElement (k : Nat) (s : State) : Host.Outcome State Fault Refusal :=
  match Map.find s.copies k with
  | some c =>
    let t := s.landNext k c
    .next (if s.landable k c && t.roomFor then t else s)
  | none => .next s

/-- COPY_WALK_RETRY (R330): a walk that succeeds ends the freezing; one that finds no permission is met when the element
lands. -/
def execCopyWalkRetry (k : Nat) (s : State) : Host.Outcome State Fault Refusal :=
  match Map.find s.copies k with
  | some c =>
    if c.active && c.frozen && !c.saved then
      let t := match s.copySource c with
        | (.missing vas, s) => s.freeze k c vas
        | (_, s) => s.putCopy k { c with frozen := false }
      .next (if t.roomFor then t else s)
    else .next s
  | none => .next s

/-- COPY_COMPLETE (R211, R216). -/
def execCopyComplete (k : Nat) (s : State) : Host.Outcome State Fault Refusal :=
  match Map.find s.copies k with
  | some c =>
    .next (if c.active && !c.saved && c.landed = c.nbytes then
      s.endCopy k (if c.skipped = 0 then statusDone else statusSkipped) else s)
  | none => .next s

/-! ### Watermarks (R218 to R220) -/

/-- A value given to D in one weave. -/
def giveOne (f : Fields) (s : State) (u : Nat) (act : Mask) (x : Word64) : One :=
  .ok (s.changeWeave u fun w => w.give f.d act x)

/-- The active copy that a team's watermark register follows. -/
def State.boundCopy (s : State) (t n : Nat) : Option Nat :=
  (s.copies.find? fun c => c.2.active && c.2.wm = n && c.2.targets.contains t).map Prod.fst

/-- The copy bound to a watermark register. -/
def State.boundTo (s : State) (t n : Nat) : Option Copy := (s.boundCopy t n).bind (Map.find s.copies)

/-- CPYQ's value: of a copy in flight, its token with PENDING (R218). A staging copy writes no token (R372), so what CPYQ gives
after one has completed is open. -/
def State.queriedToken (s : State) (t n : Nat) : Word64 × State :=
  let w := s.watermark t n
  match w.active, Map.find (s.team t).tokens n, Map.find (s.team t).wm n with
  | true, _, _ => (token 0 w.landed.toNat (((s.boundTo t n).map fun c => c.skipped.toNat).getD 0), s)
  | false, some x, _ => (x, s)
  | false, none, none => (0, s)
  | false, none, some _ => s.free

def wmBody (f : Fields) (one : State → Nat → Nat → Mask → Nat → One) : Body :=
  weaveForm f fun s g u act =>
    match wmNamed f.a with
    | some n => one s g.team u act n
    | none => .ok s

/-- WMWAIT in one weave (R219). -/
def wmwaitOne (f : Fields) (g : Group) (s : State) (t u : Nat) (act : Mask) (n : Nat) : One :=
  let w := s.watermark t n
  let want := ((s.weave u).opnd f f.b 0).toNat % 2 ^ 32
  let key := waitKey g.pc act
  if w.landed.toNat < want ∧ w.active then .wait (s.parkOn g u key (g.lanes u) 0)
  else giveOne f (s.changeWeave u fun w => w.leaveWait key) u act (if want ≤ w.landed.toNat then 1 else 0)

def execCpy (f : Fields) : State → Host.Outcome State Fault Refusal :=
  run (.cpy f) f (weaveForm f (copyOne f false false))
def execCpym (f : Fields) : State → Host.Outcome State Fault Refusal :=
  run (.cpym f) f (weaveForm f (copyOne f true false))
def execCpyr (f : Fields) : State → Host.Outcome State Fault Refusal :=
  run (.cpyr f) f (weaveForm f (copyOne f false true))
/-- WMRD (R218). -/
def execWmrd (f : Fields) : State → Host.Outcome State Fault Refusal :=
  run (.wmrd f) f (wmBody f fun s t u act n => giveOne f s u act (s.watermark t n).word)
/-- WMWAIT (R219). -/
def execWmwait (f : Fields) : State → Host.Outcome State Fault Refusal :=
  run (.wmwait f) f fun s g => wmBody f (wmwaitOne f g) s g
/-- CPYQ (R218). -/
def execCpyq (f : Fields) : State → Host.Outcome State Fault Refusal :=
  run (.cpyq f) f (wmBody f fun s t u act n =>
    let (x, s) := s.queriedToken t n
    giveOne f s u act x)
/-- CPYC (R220). -/
def execCpyc (f : Fields) : State → Host.Outcome State Fault Refusal :=
  run (.cpyc f) f (wmBody f fun s t u act n =>
    match s.boundCopy t n with
    | some k => giveOne f (s.endCopy k statusCancelled) u act 1
    | none => giveOne f s u act 0)

end Sys2Proof.Machine
end

