-- ==== Sys2Proof/Machine/Quant.lean ====
section
/-! DEFINITION. Group 0x5: quantisation and sparsity (R142 to R148, R62, R63). -/

namespace Sys2Proof.Machine

/-- The storage width of the codes of a format 5 to 15 (R143). -/
def quantWidth (code : Nat) : Nat :=
  if code = 15 then 2 else if code = 9 ∨ (12 ≤ code ∧ code ≤ 14) then 4 else 8

/-- The start position (R143). -/
def quantStart (f : Fields) : Nat := f.imm.toNat % 32

/-- The number of codes that an instruction reads or writes (R143 to R146). -/
def quantCount (f : Fields) : Nat := if f.x then 16 else f.width.count

def quantOk (f : Fields) : Bool := quantStart f + quantCount f ≤ 64 / quantWidth f.t.toNat

/-- The floating format at a width: F64, F32 or H16 (R144, R146). -/
def quantFmt (f : Fields) : FloatFmt :=
  match f.width with
  | .d => f64Fmt
  | .w => f32Fmt
  | _ => h16Fmt

/-- The factor and the zero point of B (R143). -/
def quantFactor (b : Word64) : Fp := f32Fmt.value (b.toNat % 2 ^ 32)
def zeroPoint (code : Nat) (b : Word64) : Int :=
  if code = 11 then bits b.toNat 39 32 else if code = 13 then bits b.toNat 35 32 else 0

/-- A code of an element quantised by QPACK (R144). -/
def quantise (f : Fields) (raw : Nat) (b : Word64) : Nat :=
  let code := f.t.toNat
  let p := ((quantFmt f).value raw).mul (quantFactor b)
  let t := if code = 11 ∨ code = 13 then sumExact f.rm.toNat [p, ofInt (zeroPoint code b)] else p
  convert code f.rm.toNat f.sat t

/-- QPACK of one value (R144). -/
def qpackValue (f : Fields) (a b old : Word64) : Word64 :=
  let ws := quantWidth f.t.toNat
  let s := quantStart f
  let new := fun i => if f.x then elem a 4 i % 4 else quantise f (elem a f.width.bits i) b
  packElems ws (fun k => if s ≤ k ∧ k < s + quantCount f then new (k - s) else elem old ws k) (64 / ws)

/-- The bits of a code in its container: the two top bits of a 6-bit code's byte are ignored (R49, R143). -/
def codeBits (code : Nat) : Nat := if code = 7 ∨ code = 8 then 6 else quantWidth code

/-- QUNPK of one value (R145): each code, zero-extended. -/
def qunpkValue (f : Fields) (a : Word64) : Word64 :=
  let s := quantStart f
  if f.x then packElems 4 (fun k => elem a 2 (s + k)) 16
  else
    packElems f.width.bits (fun k => elem a (quantWidth f.t.toNat) (s + k) % 2 ^ codeBits f.t.toNat) f.width.count

/-- The value of a code less its zero point (R146). -/
def dequantised (code raw : Nat) (b : Word64) : Fp :=
  if code = 11 ∨ code = 13 then ofInt (intValue code raw - zeroPoint code b) else valueOf code raw

/-- QDEQ of one value (R146). -/
def qdeqValue (f : Fields) (a b : Word64) : Word64 :=
  let ws := quantWidth f.t.toNat
  packElems f.width.bits
    (fun k => (quantFmt f).round f.rm.toNat f.sat
      ((dequantised f.t.toNat (elem a ws (quantStart f + k)) b).mul (quantFactor b)))
    f.width.count

/-- The three instructions with their start-position trap (R143). -/
def quantBody (f : Fields) (val : Word64 → Word64 → Word64 → Word64) : Body := fun s g =>
  if quantOk f then computed f (fun x l => val (x.opnd f f.a l) (x.opnd f f.b l) (x.opnd f f.d l)) s g
  else trapActive s g f causeIllegalModifier (BitVec.ofNat 64 (quantStart f))

/-! ### Sparse groups -/

/-- N of a T field: 4, 3 or 6 (R142). -/
def storedCount (t : BitVec 4) : Nat := if t = 0 then 4 else if t = 1 then 3 else 6

/-- The byte at a position of a group of 12 (R147). -/
def groupByte (a b : Word64) (j : Nat) : Nat := if j < 8 then elem a 8 j else elem b 8 (j - 8)

/-- The magnitude of a byte (R147). -/
def magnitude (int : Bool) (x : Nat) : Nat := if int then (signed 8 x).natAbs else x % 128

/-- A position is among the N kept: fewer than N positions come before it in the order of greater magnitude first, ties to
the lower position. Positions of magnitude 0 come last, the lowest first, so they fill the spare places (R147). -/
def kept (n : Nat) (mag : Nat → Nat) (j : Nat) : Bool :=
  ((List.range 12).filter fun i => mag j < mag i || (mag i = mag j && i < j)).length < n

/-- The kept positions, ascending. -/
def keptPositions (f : Fields) (a b : Word64) : List Nat :=
  (List.range 12).filter (kept (storedCount f.t) fun j => magnitude f.x (groupByte a b j))

/-- SPSEL of one lane: stored bytes, and position codes (R147). -/
def spselBytes (f : Fields) (a b : Word64) : Word64 :=
  let ps := keptPositions f a b
  packElems 8 (fun j => if j < ps.length then groupByte a b (ps.getD j 0) else 0) 8

def spselCodes (f : Fields) (a b : Word64) : Word64 :=
  let ps := keptPositions f a b
  packElems 4 (fun j => if j < ps.length then ps.getD j 0 else 0) 16

/-- The position codes of a group ascend strictly within 0 to 11 (R63). -/
def ascending (n : Nat) (code : Nat → Nat) : Bool :=
  (List.range n).all fun j => code j < 12 && (j = 0 || code (j - 1) < code j)

/-- The byte at a dense position (R148). -/
def denseByte (n : Nat) (stored : Nat → Nat) (code : Nat → Nat) (p : Nat) : Nat :=
  match (List.range n).find? fun j => code j = p with
  | some j => stored j
  | none => 0

/-- SPEXP of one lane: dense positions 0 to 7, and 8 to 11 (R148). -/
def spexpPart (f : Fields) (a b : Word64) (low n : Nat) : Word64 :=
  packElems 8 (fun k => if k < n then denseByte (storedCount f.t) (elem a 8) (elem b 4) (low + k) else 0) 8

/-- The two results of SPSEL or SPEXP: D, then C. -/
def twoResults (f : Fields) (first second : Word64 → Word64 → Word64) : Body := fun s g =>
  .done (s.eachWeave g fun _ m x =>
    let act := x.active f m
    let d := fun l => first (x.opnd f f.a l) (x.opnd f f.b l)
    let c := fun l => second (x.opnd f f.a l) (x.opnd f f.b l)
    (x.dest f.d act d 0).dest f.c act c 0) g.next

/-- SPEXP (R148). -/
def spexpBody (f : Fields) : Body := fun s g =>
  let bad := (s.activeLanes g f).filterMap fun (u, l) =>
    if ascending (storedCount f.t) (elem ((s.weave u).opnd f f.b l) 4) then none else some (⟨u, l, laneBit l, 0⟩ : Failure)
  match trapsOf causeIllegalOperand bad with
  | q :: qs => .traps s g (q :: qs)
  | [] => twoResults f (fun a b => spexpPart f a b 0 8) (fun a b => spexpPart f a b 8 4) s g

def execQpack (f : Fields) : State → Host.Outcome State Fault Refusal := run (.qpack f) f (quantBody f (qpackValue f))
def execQunpk (f : Fields) : State → Host.Outcome State Fault Refusal := run (.qunpk f) f (quantBody f fun a _ _ => qunpkValue f a)
def execQdeq (f : Fields) : State → Host.Outcome State Fault Refusal := run (.qdeq f) f (quantBody f fun a b _ => qdeqValue f a b)
def execSpsel (f : Fields) : State → Host.Outcome State Fault Refusal := run (.spsel f) f (twoResults f (spselBytes f) (spselCodes f))
def execSpexp (f : Fields) : State → Host.Outcome State Fault Refusal := run (.spexp f) f (spexpBody f)

end Sys2Proof.Machine
end

