-- ==== Sys2Proof/Machine/Tiles.lean ====
section
/-! DEFINITION. Accumulator tiles, and group 0xE: accumulator and operand-buffer instructions (R27, R241, R242, R251 to
R256). -/

namespace Sys2Proof.Machine

/-! ### Tiles as rows (R27, R241) -/

/-- The number of a tile's element 0 in a team's accumulators. -/
def tileBase (tile : Nat) : Nat := tile * 4096

/-- `n` elements from `low` on of entries that start there. -/
def denseFrom : Nat → Nat → Map (BitVec 32) → List (BitVec 32)
  | 0, _, _ => []
  | n + 1, low, [] => 0 :: denseFrom n (low + 1) []
  | n + 1, low, (k, x) :: rest =>
    if k = low then x :: denseFrom n (low + 1) rest else 0 :: denseFrom n (low + 1) ((k, x) :: rest)

/-- The entries of a range of elements. -/
def elementsIn (m : Map (BitVec 32)) (low n : Nat) : Map (BitVec 32) := m.filter fun e => low ≤ e.1 && e.1 < low + n

/-- `n` elements from `low` on. -/
def readElements (m : Map (BitVec 32)) (low n : Nat) : List (BitVec 32) := denseFrom n low (elementsIn m low n)

/-- The elements from `low` on replaced; a zero takes no entry. -/
def writeElements (m : Map (BitVec 32)) (low : Nat) (xs : List (BitVec 32)) : Map (BitVec 32) :=
  let new := (xs.zipIdx.map fun e => (low + e.2, e.1)).filter fun e => e.2 != 0
  (m.filter fun e => e.1 < low) ++ new ++ (m.filter fun e => low + xs.length ≤ e.1)

/-- The 64 elements of row `r` of a tile. -/
def Team.row (m : Team) (tile r : Nat) : List (BitVec 32) := readElements m.tiles (tileBase tile + 64 * r) 64

def rowKey (tile r : Nat) : Nat := tile * 64 + r

/-- Rows written: they count for the next cut and the next save (R252, R427, R380). -/
def Team.markRows (m : Team) (keys : List Nat) : Team :=
  { m with dirtyRows := setUnion m.dirtyRows keys, savedRows := setUnion m.savedRows keys }

/-- Row `r` of a tile replaced; a row written whole has lost its poison (R441). -/
def Team.setRow (m : Team) (tile r : Nat) (xs : List (BitVec 32)) (whole : Bool) : Team :=
  { m.markRows [rowKey tile r] with
    tiles := writeElements m.tiles (tileBase tile + 64 * r) xs
    poisonRows := if whole then setDrop m.poisonRows (rowKey tile r) else m.poisonRows }

/-- One of the rows is poisoned. -/
def Team.toxic (m : Team) (tile : Nat) (rows : List Nat) : Bool := rows.any fun r => m.poisonRows.contains (rowKey tile r)

def tileOf : Operand → Nat
  | .a n => n.toNat
  | _ => 0

/-- The trap of consuming a poisoned tile row: TRAPADDR is the tile's operand code (R440). -/
def tilePoison (u tile : Nat) (lanes : Mask) : TrapReq := ⟨u, causePoison, BitVec.ofNat 64 (0xF0 + tile), lanes⟩

/-- Row i's value of a per-row vector register of a weave (R242). -/
def rowValue (lane : Nat → Word64) (i : Nat) : Nat := elem (lane (i / 2)) 32 (i % 2)

/-! ### ACCZ, ACCSC and ACCX (R252) -/

def acczOne (f : Fields) (s : State) (g : Group) (_ : Nat) (_ : Mask) : One :=
  let tile := tileOf f.d
  .ok (s.changeTeam g.team fun m =>
    let keys := (List.range 64).map (rowKey tile)
    { m.markRows keys with
      tiles := m.tiles.filter fun e => e.1 / 4096 ≠ tile
      poisonRows := m.poisonRows.filter fun k => !keys.contains k })

/-- The elements of a row that a mask of lanes touches, changed. -/
def changeRow (act : Mask) (g : BitVec 32 → BitVec 32) (row : List (BitVec 32)) : List (BitVec 32) :=
  row.zipIdx.map fun e => if act.getLsbD (e.2 / 2) then g e.1 else e.1

/-- An in-place change of a tile: row i where lane i div 2 is active, positions 2l and 2l + 1 of each active lane l. -/
def scaleTile (f : Fields) (change : BitVec 32 → Nat → BitVec 32) (s : State) (g : Group) (u : Nat) (act : Mask) : One :=
  let tile := tileOf f.d
  let rows := (List.range 64).filter fun r => act.getLsbD (r / 2)
  if (s.team g.team).toxic tile rows then .trap s (tilePoison u tile act)
  else
    let w := s.weave u
    .ok (s.changeTeam g.team fun m =>
      rows.foldl (fun m r =>
        m.setRow tile r (changeRow act (fun e => change e (rowValue (w.opnd f f.a) r)) (m.row tile r)) false) m)

def accscOne (f : Fields) : State → Group → Nat → Mask → One :=
  scaleTile f fun e x =>
    BitVec.ofNat 32 (f32Fmt.round f.rm.toNat f.sat ((f32Fmt.value e.toNat).mul (f32Fmt.value x)))

def accxOne (f : Fields) : State → Group → Nat → Mask → One :=
  scaleTile f fun e x => BitVec.ofNat 32 (scaleCode f32Fmt f.rm.toNat f.sat e.toNat (signed 32 x))

/-! ### Moves between tiles, registers and scratchpad (R252) -/

/-- Lane l's positions of a row as one 64-bit value. -/
def lanePair (row : List (BitVec 32)) (l : Nat) : Word64 := (row.getD (2 * l + 1) 0) ++ (row.getD (2 * l) 0)

/-- A row with the positions of the active lanes replaced. -/
def mergeRow (act : Mask) (val : Nat → Word64) (row : List (BitVec 32)) : List (BitVec 32) :=
  row.zipIdx.map fun e => if act.getLsbD (e.2 / 2) then BitVec.ofNat 32 (elem (val (e.2 / 2)) 32 (e.2 % 2)) else e.1

def accrdOne (f : Fields) (s : State) (g : Group) (u : Nat) (act : Mask) : One :=
  let tile := tileOf f.a
  let n := f.rowsShort
  let m := s.team g.team
  if m.toxic tile (span f.row n) then .trap s (tilePoison u tile act)
  else
    .ok (s.changeWeave u fun w => w.destBlock f.d n act fun r => lanePair (m.row tile (f.row + r)))

/-- Rows of a tile written by lanes, unless they must merge into poison. -/
def writeRows (s : State) (t u tile row n : Nat) (act : Mask) (val : Nat → Nat → Word64) : One :=
  let whole : Bool := act = BitVec.allOnes 32
  if !whole && (s.team t).toxic tile (span row n) then .trap s (tilePoison u tile act)
  else
    .ok (s.changeTeam t fun m =>
      (List.range n).foldl (fun m r => m.setRow tile (row + r) (mergeRow act (val r) (m.row tile (row + r))) whole) m)

def accwrOne (f : Fields) (s : State) (g : Group) (u : Nat) (act : Mask) : One :=
  let base := (vectorNamed f.a).getD 0
  let w := s.weave u
  writeRows s g.team u (tileOf f.d) f.row f.rowsShort act fun r l => w.vread (base + r) l

/-- The checks of an offset for `n` rows in .s: MISALIGNED, then SCRATCH_BOUNDS, over every lane. -/
def rowsTrap (limit u n off : Nat) : Option TrapReq :=
  let fails := fun l => (List.range n).any fun r => limit < off + 256 * r + 8 * l + 8
  let lanes := (List.range 32).filter fails
  if off % 8 ≠ 0 then some ⟨u, causeMisaligned, BitVec.ofNat 64 off, BitVec.allOnes 32⟩
  else
    match lanes with
    | [] => none
    | l :: _ =>
      let first := (List.range n).findSome? fun r =>
        let a := off + 256 * r + 8 * l
        if limit < a + 8 then some (max a limit) else none
      some ⟨u, causeScratchBounds, BitVec.ofNat 64 (first.getD 0), maskOf lanes⟩

/-- The accesses of `n` rows, row by row. -/
def rowAccesses (u n off : Nat) (act : Mask) : List Access :=
  (List.range n).flatMap fun r =>
    (lanesOf act).map fun l => { weave := u, lane := l, lanes := laneBit l, addr := off + 256 * r + 8 * l, bytes := 8 }

def accstOne (f : Fields) (s : State) (g : Group) (u : Nat) (act : Mask) : One :=
  let e := s.site g.team
  let tile := tileOf f.a
  let n := f.rowsLong
  let off := ((s.weave u).opnd f f.b 0).toNat
  let m := s.team g.team
  match rowsTrap (s.spaceBytes e spaceS) u n off with
  | some q => .trap s q
  | none =>
    match s.checkAccesses e spaceS 8 .write true g.pc (rowAccesses u n off act) with
    | .stall => .wait s
    | .trap s (q :: _) => .trap s q
    | .trap s [] => .wait s
    | .pass s places =>
      if m.toxic tile (span f.row n) then .trap s (tilePoison u tile act)
      else
        .ok (places.foldl (fun s x =>
          let r := (x.1.addr - off) / 256
          s.writePlace e x.2 (bytesOfNat 8 (lanePair (m.row tile (f.row + r)) x.1.lane).toNat) {}) s)

def accldOne (f : Fields) (s : State) (g : Group) (u : Nat) (act : Mask) : One :=
  let e := s.site g.team
  let n := f.rowsLong
  let off := ((s.weave u).opnd f f.a 0).toNat
  match rowsTrap (s.spaceBytes e spaceS) u n off with
  | some q => .trap s q
  | none =>
    match s.checkAccesses e spaceS 8 .read false g.pc (rowAccesses u n off act) with
    | .stall => .wait s
    | .trap s (q :: _) => .trap s q
    | .trap s [] => .wait s
    | .pass s _ =>
      let at_ := fun r l => BitVec.ofNat 64 (Memory.readNat s.mem (onChip .scratch g.team + off + 256 * r + 8 * l) 8)
      writeRows s g.team u (tileOf f.d) f.row n act at_

/-! ### The operand buffer (R253 to R256) -/

/-- The cell of a place in a team's part of the operand buffer. -/
def opbufCell (t base : Nat) : Nat := onChip .opbuf t + base

/-- The lowest free handle. -/
def Team.freeHandle (m : Team) : Option Nat := (List.range 16).find? fun h => (Map.find m.reservations h).isNone

/-- A value that no rule gives the trap of an instruction. -/
def openTrap (s : State) (u : Nat) (cause : Byte) (act : Mask) : One :=
  let (a, s) := s.free
  .trap s ⟨u, cause, a, act⟩

/-- A fresh reservation reads as zero: lines wholly in it are unwritten, and copies of them in the save area count for nothing
(R256, R380). -/
def State.zeroReserved (s : State) (t base size : Nat) : State :=
  let section_ := (s.site t).kernel.secOpbuf
  let fresh := fun off => decide (section_ + base ≤ off) && decide (off + 128 ≤ section_ + base + size)
  (s.zeroOnChip (opbufCell t base) size).changeTeam t fun m => { m with inArea := m.inArea.filter fun off => !fresh off }

/-- A team's reservations moved together, one after another, so that what is free of the team's part of the buffer is one range.
No instruction names an offset in it (R253); the copies in the save area of the lines that move count for nothing. -/
def State.compactReservations (s : State) (t : Nat) : State :=
  let section_ := (s.site t).kernel.secOpbuf
  let loads := (s.team t).reservations.map fun r => Memory.readBytes s.mem (opbufCell t r.2.base) r.2.bytes
  let bad := (s.team t).reservations.map fun r => (linesOf (opbufCell t r.2.base) r.2.bytes).filter s.poison.contains
  let s := (s.team t).reservations.foldl (fun (s : State) r => s.zeroOnChip (opbufCell t r.2.base) r.2.bytes) s
  (((s.team t).reservations.zip (loads.zip bad)).foldl
    (fun (x : State × Nat) (r : (Nat × Reservation) × List Byte × List Nat) =>
      let old := opbufCell t r.1.2.base
      let new := opbufCell t x.2
      let toxic := (linesOf new r.1.2.bytes).filter fun ln =>
        r.2.2.any fun b => b * 128 + new < ln * 128 + 128 + old && ln * 128 + old < b * 128 + 128 + new
      let s := x.1.putOnChip new r.2.1
      let s := { s with poison := setUnion s.poison toxic }
      (s.changeTeam t fun m => { m with reservations := Map.put m.reservations r.1.1 { r.1.2 with base := x.2 } }, x.2 + r.1.2.bytes))
    (s, 0)).1.changeTeam t fun m => { m with inArea := m.inArea.filter fun off => !(section_ ≤ off && off < section_ + opbufBytes) }

/-- The offset of a new reservation among its team's. Where none of the size is free they move together first. -/
def State.offsetFor (s : State) (t at_ size : Nat) : Nat × State :=
  match (s.team t).offsetFor at_ size with
  | some base => (base, s)
  | none => (((s.team t).reservations.map fun r => r.2.bytes).sum, s.compactReservations t)

def obresOne (f : Fields) (s : State) (g : Group) (u : Nat) (act : Mask) : One :=
  let w := s.weave u
  let size := (w.opnd f f.a 0).toNat
  let core := (s.team g.team).core
  if size % 64 ≠ 0 ∨ size < 64 ∨ opbufBytes < size then openTrap s u causeIllegalOperand act
  else
    match (s.team g.team).freeHandle, s.opbufPlace core g.team size with
    | some h, some at_ =>
      let (base, s) := s.offsetFor g.team at_ size
      let r : Reservation := { base := base, bytes := size, record := w.opnd f f.b 0, place := [(at_, size)] }
      let s := s.claimBanks core (s.team g.team).gang .opbuf (banksOf at_ size)
      let s := s.zeroReserved g.team base size
      giveOne f (s.changeTeam g.team fun m => { m with reservations := Map.put m.reservations h r }) u act (BitVec.ofNat 64 h)
    | _, _ => giveOne f s u act (BitVec.allOnes 64)

/-- The reservation that a handle value names (R253). -/
def State.reservation (s : State) (t : Nat) (h : Word64) : Option Reservation :=
  if h.toNat < 16 then Map.find (s.team t).reservations h.toNat else none

/-- An instruction on the reservation that A names. -/
def handleOne (f : Fields) (one : State → Nat → Nat → Mask → Nat → Reservation → One) (s : State) (g : Group) (u : Nat)
    (act : Mask) : One :=
  let h := (s.weave u).opnd f f.a 0
  match s.reservation g.team h with
  | some r => if s.cellsClaimed (opbufCell g.team r.base) r.bytes then .wait s else one s g.team u act h.toNat r
  | none => openTrap s u causeReservation act

/-- OBREL waits for a matrix operation that names the reservation (R247). -/
def obrelOne (s : State) (t _u : Nat) (_act : Mask) (h : Nat) (_ : Reservation) : One :=
  if s.mats.any fun m => m.2.team = t && m.2.reservations.contains h then .wait s
  else .ok (s.changeTeam t fun m => { m with reservations := Map.drop m.reservations h })

def obOffset (f : Fields) : Nat := f.imm.toNat % 65536

def offsetTrap (f : Fields) (u : Nat) (act : Mask) (r : Reservation) : Option TrapReq :=
  if obOffset f % 8 ≠ 0 ∨ r.bytes < obOffset f + 256 then some ⟨u, causeReservation, BitVec.ofNat 64 (obOffset f), act⟩
  else none

/-- OBWR and OBRD (R256). -/
def obwrOne (f : Fields) (s : State) (t u : Nat) (act : Mask) (h : Nat) (r : Reservation) : One :=
  let w := s.weave u
  if f.x then
    .ok (s.changeTeam t fun m => { m with reservations := Map.put m.reservations h { r with record := w.opnd f f.b 0 } })
  else
    match offsetTrap f u act r with
    | some q => .trap s q
    | none =>
      .ok ((lanesOf act).foldl
        (fun s l => s.putOnChip (opbufCell t r.base + obOffset f + 8 * l) (bytesOfNat 8 (w.opnd f f.b l).toNat)) s)

def obrdOne (f : Fields) (s : State) (t u : Nat) (act : Mask) (_ : Nat) (r : Reservation) : One :=
  if f.x then giveOne f s u act r.record
  else
    match offsetTrap f u act r with
    | some q => .trap s q
    | none =>
      let cell := fun l => opbufCell t r.base + obOffset f + 8 * l
      match (lanesOf act).findSome? fun l => s.firstPoison (cell l) 8 with
      | some a => .trap s ⟨u, causePoison, BitVec.ofNat 64 (a - opbufCell t r.base), act⟩
      | none =>
        let at_ := fun l => BitVec.ofNat 64 (Memory.readNat s.mem (cell l) 8)
        .ok (s.changeWeave u fun w => w.dest f.d act at_ 0)

def execAccz (f : Fields) : State → Host.Outcome State Fault Refusal := run (.accz f) f (weaveForm f (acczOne f))
def execAccsc (f : Fields) : State → Host.Outcome State Fault Refusal := run (.accsc f) f (weaveForm f (accscOne f))
def execAccx (f : Fields) : State → Host.Outcome State Fault Refusal := run (.accx f) f (weaveForm f (accxOne f))
def execAccrd (f : Fields) : State → Host.Outcome State Fault Refusal := run (.accrd f) f (weaveForm f (accrdOne f))
def execAccwr (f : Fields) : State → Host.Outcome State Fault Refusal := run (.accwr f) f (weaveForm f (accwrOne f))
def execAccst (f : Fields) : State → Host.Outcome State Fault Refusal := run (.accst f) f (weaveForm f (accstOne f))
def execAccld (f : Fields) : State → Host.Outcome State Fault Refusal := run (.accld f) f (weaveForm f (accldOne f))
def execObres (f : Fields) : State → Host.Outcome State Fault Refusal := run (.obres f) f (weaveForm f (obresOne f))
def execObrel (f : Fields) : State → Host.Outcome State Fault Refusal := run (.obrel f) f (weaveForm f (handleOne f obrelOne))
def execObwr (f : Fields) : State → Host.Outcome State Fault Refusal := run (.obwr f) f (weaveForm f (handleOne f (obwrOne f)))
def execObrd (f : Fields) : State → Host.Outcome State Fault Refusal := run (.obrd f) f (weaveForm f (handleOne f (obrdOne f)))

end Sys2Proof.Machine
end

