-- ==== Sys2Proof/Machine/Matrix.lean ====
section
/-! DEFINITION. Group 0xD: matrix operations (R62 to R65, R239 to R250, R257). -/

namespace Sys2Proof.Machine

/-! ### What a word asks for (R243, R257) -/

/-- One operand of a matrix operation: its format code, and for a scaled form its reservation (R51, R257). -/
structure MatSide where
  fmt : Nat
  handle : Nat := 0
  reservation : Reservation := {}
  deriving DecidableEq, Repr

/-- The kind of a matrix operation. -/
inductive MatKind where
  | plain
  /-- sparse A with N stored elements in each group of 12 -/
  | sparse (n : Nat)
  | reserved
  /-- B from scratchpad -/
  | fromMemory
  deriving DecidableEq, Repr

/-- A matrix operation with its formats known. -/
structure MatAsk where
  kind : MatKind
  a : MatSide
  b : MatSide
  kpos : Nat := 0
  deriving DecidableEq, Repr

/-- A field of a reservation record (R254). -/
def Reservation.fmt (r : Reservation) : Nat := bits r.record.toNat 4 0
def Reservation.glen (r : Reservation) : Nat := bits r.record.toNat 7 5
def Reservation.soff (r : Reservation) : Nat := bits r.record.toNat 31 16
def Reservation.zoff (r : Reservation) : Nat := bits r.record.toNat 47 32
def Reservation.count (r : Reservation) : Nat := bits r.record.toNat 63 48

/-- K of a pair of storage widths (R239), 96 for a sparse operation (R62). -/
def MatAsk.depth (q : MatAsk) : Nat :=
  match q.kind with
  | .sparse _ => 96
  | _ => 256 / max (storageWidth q.a.fmt) (storageWidth q.b.fmt)

/-- A group's length in a scaled form (R51). -/
def groupLength (fmt : Nat) : Nat := 32 * 2 ^ ((fmt - 16) % 3)

/-- The element encoding of a format code (R51). -/
def elementCode (fmt : Nat) : Nat := if fmt < 16 then fmt else if fmt < 19 then 11 else if fmt < 22 then 13 else if fmt < 25 then 14 else 15

/-- The sum classes of R64. -/
inductive SumClass where
  | integer | exact | blocks | steps | double
  deriving DecidableEq, Repr

def sumClass (fa fb : Nat) : SumClass :=
  let w := max (storageWidth fa) (storageWidth fb)
  if isIntFormat fa && isIntFormat fb then .integer
  else if w ≤ 8 then .exact
  else if w = 16 then .blocks
  else if w = 32 then .steps
  else .double

def MatAsk.cls (q : MatAsk) : SumClass := sumClass q.a.fmt q.b.fmt

/-- The registers of a fragment of rows of `n` bytes (R240). -/
def rowsRun (base n : Nat) : List Nat := span base ((64 * n + 255) / 256)

/-- Bytes of a row of each operand as it is stored (R240, R245). -/
def MatAsk.rowBytesA (q : MatAsk) : Nat :=
  match q.kind with
  | .sparse n => 8 * n
  | _ => q.depth * storageWidth q.a.fmt / 8

def MatAsk.rowBytesB (q : MatAsk) : Nat := q.depth * storageWidth q.b.fmt / 8

/-- N of MMAS (R243). -/
def sparseCount (f : Fields) : Nat :=
  match (f.imm.extractLsb' 16 2).toNat with
  | 0 => 4
  | 1 => 3
  | _ => 6

def metaReg (f : Fields) : Nat := (f.imm.extractLsb' 8 7).toNat
def handleReg (f : Fields) : Nat := (f.imm.extractLsb' 0 6).toNat
def kposOf (f : Fields) : Nat := (f.imm.extractLsb' 8 16).toNat

/-- The runs of v registers: A, B, metadata, scales (R244). -/
def MatAsk.runA (q : MatAsk) (f : Fields) : List Nat := rowsRun ((vectorNamed f.a).getD 0) q.rowBytesA
def MatAsk.runB (q : MatAsk) (f : Fields) : List Nat :=
  match q.kind with
  | .fromMemory => []
  | _ => rowsRun ((vectorNamed f.b).getD 0) q.rowBytesB
def MatAsk.runMeta (q : MatAsk) (f : Fields) : List Nat :=
  match q.kind with
  | .sparse n => rowsRun (metaReg f) (4 * n)
  | _ => []
def MatAsk.runs (q : MatAsk) (f : Fields) : List Nat :=
  q.runA f ++ q.runB f ++ q.runMeta f ++ (if f.t = 1 then [f.sv] else [])

/-! ### Fragments (R240, R246) -/

/-- The bytes of a run of registers; a lane that is vacant or outside S reads as zero. -/
def fragment (w : Weave) (set : Mask) (run : List Nat) : List Byte :=
  run.flatMap fun n =>
    (List.range 32).flatMap fun l => bytesOfNat 8 (if set.getLsbD l then w.vread n l else 0).toNat

/-- The rows of a fragment. -/
def rowsOf (bs : List Byte) (n : Nat) : List (List Byte) := (List.range 64).map fun i => (bs.drop (n * i)).take n

/-- The codes of a row of storage width `w`. -/
def rowCodes (w : Nat) (row : List Byte) : List Nat :=
  if w = 4 then row.flatMap fun b => [b.toNat % 16, b.toNat / 16]
  else (List.range (row.length * 8 / w)).map fun k => natOfBytes ((row.drop (k * (w / 8))).take (w / 8))

/-- The position codes of a row's metadata (R62). -/
def positionCodes (row : List Byte) : List Nat := rowCodes 4 row

/-- The codes of a group that break R63: those of 12 to 15, and both of a pair that does not ascend. -/
def badCodes (n : Nat) (codes : List Nat) : List Nat :=
  (List.range n).filter fun j =>
    12 ≤ codes.getD j 0 || (0 < j && codes.getD j 0 ≤ codes.getD (j - 1) 0) ||
      (j + 1 < n && codes.getD (j + 1) 0 ≤ codes.getD j 0)

/-- The lanes that carry offending metadata. -/
def badMetadata (n : Nat) (bs : List Byte) : Mask :=
  let bad := (List.range 64).flatMap fun i =>
    let codes := positionCodes ((bs.drop (4 * n * i)).take (4 * n))
    (List.range 8).flatMap fun g => (badCodes n ((codes.drop (n * g)).take n)).map fun j => 4 * n * i + (n * g + j) / 2
  maskOf (bad.map fun o => o % 256 / 8)

/-- A sparse row expanded to 96 codes (R62). -/
def expandRow (n : Nat) (stored positions : List Nat) : List Nat :=
  (List.range 96).map fun p =>
    let g := p / 12
    match (List.range n).find? fun j => positions.getD (n * g + j) 12 = p % 12 with
    | some j => stored.getD (n * g + j) 0
    | none => 0

/-- The scale and zero point of group g of a row (R51, R257). -/
def State.groupScale (s : State) (t : Nat) (x : MatSide) (i g : Nat) : Fp × Int :=
  let r := x.reservation
  let cell := opbufCell t r.base
  let scale := h16Fmt.value (Memory.readNat s.mem (cell + r.soff + 2 * (i * r.count + g)) 2)
  let point := (Memory.read s.mem (cell + r.zoff + i * r.count + g)).toNat
  (scale, if x.fmt < 19 then (point : Int) else if x.fmt < 22 then (point % 16 : Nat) else 0)

/-- The exact values of a row of codes (R47 to R52). -/
def State.rowValues (s : State) (t : Nat) (q : MatAsk) (x : MatSide) (i : Nat) (codes : List Nat) : List Fp :=
  if x.fmt < 16 then codes.map (valueOf x.fmt)
  else
    let g := groupLength x.fmt
    codes.zipIdx.map fun c =>
      let (scale, point) := s.groupScale t x i ((q.kpos + c.2) / g)
      let element := if x.fmt < 22 then ofInt (intValue (elementCode x.fmt) c.1 - point) else valueOf (elementCode x.fmt) c.1
      element.mul scale

/-! ### Sums (R64, R65) -/

/-- Lists of 16. -/
def sixteens (xs : List Fp) : List (List Fp) := (List.range (xs.length / 16)).map fun j => (xs.drop (16 * j)).take 16

/-- The new code of an element from the incoming one and the two rows of values. -/
def sumElement (cls : SumClass) (rm : Nat) (sat : Bool) (c0 : Nat) (a b : List Fp) : Nat :=
  let prods := List.zipWith Fp.mul a b
  match cls with
  | .integer => fit 32 false sat (signed 32 c0 + (prods.map (roundInt 0)).sum)
  | .exact => f32Fmt.round rm sat (sumExact rm (f32Fmt.value c0 :: prods))
  | .blocks => (sixteens prods).foldl (fun c block => addCodes f32Fmt rm sat c (f32Fmt.round rm sat (sumExact rm block))) c0
  | .steps => prods.foldl (fun c p => f32Fmt.round rm sat (sumExact rm [f32Fmt.value c, p])) c0
  | .double => prods.foldl (fun c p => f64Fmt.round rm sat (sumExact rm [f64Fmt.value c, p])) c0

/-- The incoming accumulator code (R246). -/
def incoming (f : Fields) (cls : SumClass) (c scale : Nat) : Nat :=
  let t := if cls = .double then f64Fmt else f32Fmt
  if f.x then 0
  else if f.t = 1 then t.round f.rm.toNat f.sat ((t.value c).mul (f32Fmt.value scale))
  else c

/-- The element codes of row i: of the tile, or of the pair in the F64 class (R241). -/
def Team.codes (m : Team) (cls : SumClass) (tile i : Nat) : List Nat :=
  if cls = .double then
    let words := m.row tile i ++ m.row (tile + 1) i
    (List.range 64).map fun j => (words.getD (2 * j) 0).toNat + (words.getD (2 * j + 1) 0).toNat * 2 ^ 32
  else (m.row tile i).map fun x => x.toNat

/-- Row i replaced by codes. -/
def Team.putCodes (m : Team) (cls : SumClass) (tile i : Nat) (codes : List Nat) (whole : Bool) : Team :=
  if cls = .double then
    let words := codes.flatMap fun c => [BitVec.ofNat 32 c, BitVec.ofNat 32 (c / 2 ^ 32)]
    (m.setRow tile i (words.take 64) whole).setRow (tile + 1) i (words.drop 64) whole
  else m.setRow tile i (codes.map (BitVec.ofNat 32)) whole

/-! ### Checks (R244, R257) -/

/-- A trap of the signing set. -/
def setTrap (g : Group) (cause : Byte) (addr : Nat) : Option (List TrapReq) := some (g.allTrap cause (BitVec.ofNat 64 addr))

/-- Checks 1 and 2 of R244 are made where the formats of MMAQ become known. -/
def mmaqSides (s : State) (g : Group) (f : Fields) (w : Weave) : Except (List TrapReq) MatAsk :=
  let sh := w.sread (handleReg f)
  let ha := bits sh.toNat 3 0
  let hb := bits sh.toNat 11 8
  let m := s.team g.team
  let trap := fun (a : Nat) => Except.error (g.allTrap causeReservation (BitVec.ofNat 64 a))
  if sh.toNat ≠ ha + hb * 256 then trap sh.toNat
  else
    match Map.find m.reservations ha, Map.find m.reservations hb with
    | some ra, some rb =>
      if 27 < ra.fmt then trap ha
      else if 27 < rb.fmt then trap hb
      else .ok { kind := .reserved, a := ⟨ra.fmt, ha, ra⟩, b := ⟨rb.fmt, hb, rb⟩, kpos := kposOf f }
    | _, _ => trap sh.toNat

/-- Check 6 of R244 for one record. -/
def recordBad (q : MatAsk) (x : MatSide) : Bool :=
  let r := x.reservation
  if x.fmt < 16 then r.glen != 0
  else
    r.glen != 1 + (x.fmt - 16) % 3 || r.count ≤ (q.kpos + q.depth - 1) / groupLength x.fmt || r.soff % 2 != 0 ||
      r.bytes < r.soff + 128 * r.count || (x.fmt < 22 && r.bytes < r.zoff + 64 * r.count)

/-- Check 6 of R244. -/
def recordsTrap (q : MatAsk) (f : Fields) (g : Group) (sh : Nat) : Option (List TrapReq) :=
  if q.kind ≠ .reserved then none
  else if !pairOk q.a.fmt q.b.fmt || (f.t == 1 && isIntFormat q.a.fmt && isIntFormat q.b.fmt) || q.kpos % q.depth ≠ 0 then
    setTrap g causeReservation sh
  else if recordBad q q.a then setTrap g causeReservation q.a.handle
  else if recordBad q q.b then setTrap g causeReservation q.b.handle
  else none

/-- The scratchpad bytes of MMAM's B. -/
def MatAsk.memoryBytes (q : MatAsk) : Nat := 64 * q.rowBytesB

/-- Checks 3 to 9 of R244, in order. -/
def State.matrixTrap (s : State) (g : Group) (f : Fields) (w : Weave) (q : MatAsk) : Option (List TrapReq) :=
  let e := s.site g.team
  let caps := (s.core e.core).capmask
  let k := e.kernel
  let tile := tileOf f.d
  let sh := (w.sread (handleReg f)).toNat
  let off := (w.opnd f f.b 0).toNat
  let limit := s.spaceBytes e spaceS
  let fromMem : Bool := q.kind = .fromMemory
  [ if !caps.getLsbD q.a.fmt then setTrap g causeFenced q.a.fmt
      else if !caps.getLsbD q.b.fmt then setTrap g causeFenced q.b.fmt else none,
    if q.cls = .double ∧ (tile % 2 = 1 ∨ k.acc ≤ tile + 1) then setTrap g causeAccTile (0xF0 + tile) else none,
    ((q.runs f).find? fun n => k.regs ≤ n).bind (setTrap g causeIllegalOperand),
    recordsTrap q f g sh,
    (match q.kind with
      | .sparse n =>
        let bad := badMetadata n (fragment w (g.lanes (g.weaves.headD 0)) (q.runMeta f))
        if bad = 0 then none else some (g.members.map fun x => ⟨x.1, causeIllegalOperand, 0, bad⟩)
      | _ => none),
    if !fromMem then none
      else if off % 256 ≠ 0 then setTrap g causeMisaligned off
      else if limit < off + q.memoryBytes then setTrap g causeScratchBounds (max off limit)
      else (s.failedByte e.team spaceS off q.memoryBytes).bind (setTrap g causeCopyFailed) ].findSome? id

/-- Poison that the operation would consume: an operand register, the scalar register of MMAM's offset, SH, the tile, a scale, or
a byte of scratchpad (R440). -/
def State.matrixPoison (s : State) (g : Group) (f : Fields) (w : Weave) (q : MatAsk) : Option (List TrapReq) :=
  let tile := tileOf f.d
  let tiles := if q.cls = .double then [tile, tile + 1] else [tile]
  let m := s.team g.team
  let scales := fun (x : MatSide) =>
    if x.fmt < 16 then none
    else
      let r := x.reservation
      let cell := opbufCell g.team r.base
      let groups := span (q.kpos / groupLength x.fmt) ((q.kpos + q.depth - 1) / groupLength x.fmt + 1 - q.kpos / groupLength x.fmt)
      let at_ := (List.range 64).flatMap fun i =>
        groups.flatMap fun j =>
          (r.soff + 2 * (i * r.count + j)) :: if x.fmt < 22 then [r.zoff + i * r.count + j] else []
      at_.find? fun a => s.poisoned (cell + a) 1
  [ ((q.runs f).find? w.poisonV.contains).bind (setTrap g causePoison),
    ((scalarNamed f.b).filter fun n => q.kind = .fromMemory && w.poisonS.contains n).bind fun n => setTrap g causePoison (0x80 + n),
    if q.kind = .reserved && w.poisonS.contains (handleReg f) then setTrap g causePoison (0x80 + handleReg f) else none,
    if f.x then none
      else (tiles.find? fun t => m.toxic t (List.range 64)).bind fun t => setTrap g causePoison (0xF0 + t),
    (scales q.a).bind (setTrap g causePoison), (scales q.b).bind (setTrap g causePoison),
    if q.kind = .fromMemory then
      let off := (w.opnd f f.b 0).toNat
      (s.firstPoison (onChip .scratch g.team + off) q.memoryBytes).bind fun a =>
        setTrap g causePoison (a - onChip .scratch g.team)
      else none ].findSome? id

/-! ### The operation (R246 to R250) -/

/-- The value rows of A and of B. -/
def State.matrixRows (s : State) (t : Nat) (f : Fields) (w : Weave) (set : Mask) (q : MatAsk) : List (List Fp) × List (List Fp) :=
  let wa := storageWidth q.a.fmt
  let wb := storageWidth q.b.fmt
  let stored := (rowsOf (fragment w set (q.runA f)) q.rowBytesA).map (rowCodes wa)
  let dense :=
    match q.kind with
    | .sparse n =>
      let codes := (rowsOf (fragment w set (q.runMeta f)) (4 * n)).map positionCodes
      List.zipWith (expandRow n) stored codes
    | _ => stored
  let bytesB :=
    match q.kind with
    | .fromMemory => Memory.readBytes s.mem (onChip .scratch t + (w.opnd f f.b 0).toNat) q.memoryBytes
    | _ => fragment w set (q.runB f)
  let codesB := (rowsOf bytesB q.rowBytesB).map (rowCodes wb)
  (dense.zipIdx.map fun r => s.rowValues t q q.a r.2 r.1, codesB.zipIdx.map fun r => s.rowValues t q q.b r.2 r.1)

/-- The tile, or pair, after the operation. -/
def State.multiply (s : State) (t : Nat) (f : Fields) (w : Weave) (set : Mask) (q : MatAsk) : Team :=
  let tile := tileOf f.d
  let (rowsA, rowsB) := s.matrixRows t f w set q
  let scale := fun i => if f.t = 1 then rowValue (fun l => if set.getLsbD l then w.vread f.sv l else 0) i else 0
  rowsA.zipIdx.foldl
    (fun m a =>
      let new := List.zipWith (fun c b => sumElement q.cls f.rm.toNat f.sat (incoming f q.cls c (scale a.2)) a.1 b)
        (m.codes q.cls tile a.2) rowsB
      m.putCodes q.cls tile a.2 new f.x) (s.team t)

/-- The clocks that an operation occupies the unit for (R250). -/
def MatAsk.clocks (q : MatAsk) : Nat :=
  match q.kind with
  | .sparse n => 2 * n
  | _ => if q.cls = .double then 64 else if q.cls = .steps && (q.a.fmt == 1 || q.b.fmt == 1) then 32 else 8

/-- The matrix unit of a core is taken. -/
def State.matrixBusy (s : State) (c : Nat) : Bool := s.mats.any fun m => (s.team m.2.team).core = c

/-- The operation issues: the tile takes its result, and the second bank keeps what a withdrawal restores. The members are
held at the slot until it completes (R247, R248). -/
def State.startMatrix (s : State) (g : Group) (f : Fields) (w : Weave) (u : Nat) (set : Mask) (q : MatAsk) : State :=
  let tile := tileOf f.d
  let pair : Bool := q.cls = .double
  let n := if pair then 2 else 1
  let old := s.team g.team
  let c := (convNamed f.c).getD 0
  let op : MatrixOp :=
    { team := g.team, tile := tile, pair := pair, weave := u, convNumber := c, conv := s.conv g.team c, pc := g.pc
      members := set, second := elementsIn old.tiles (tileBase tile) (4096 * n)
      secondPoison := old.poisonRows.filter fun k => tile * 64 ≤ k && k < (tile + n) * 64
      marked := (w.hintDead f set).dead.filter fun n => !w.dead.contains n
      reads := (q.runs f).map (regKey u)
      reservations := if q.kind = .reserved then [q.a.handle, q.b.handle] else []
      ends := s.clock + q.clocks }
  let new := s.multiply g.team f w set q
  { (s.changeTeam g.team (fun _ => new)).changeWeave u fun w => w.hintDead f set with mats := Map.put s.mats (Map.next s.mats) op }

/-- What a matrix operation would touch in a claimed bank: the registers of its runs, both tiles of a pair, the fragment in
scratchpad, and its reservations (R381). -/
def State.matrixClaimed (s : State) (g : Group) (f : Fields) (w : Weave) (u : Nat) (q : MatAsk) : Bool :=
  !(s.core (s.team g.team).core).claims.isEmpty &&
    (((q.runs f).any fun n => s.claimHolds g.team (.vreg u n)) || (q.cls = .double && s.tileClaimed g.team (tileOf f.d + 1)) ||
      (q.kind = .fromMemory && s.cellsClaimed (onChip .scratch g.team + (w.opnd f f.b 0).toNat) q.memoryBytes) ||
      (q.kind = .reserved && [q.a, q.b].any fun x => s.cellsClaimed (opbufCell g.team x.reservation.base) x.reservation.bytes))

/-- A matrix operation whose formats are known. The checks of R244 stand before the poison of the registers that they read (log
entry 72). -/
def matrixWith (f : Fields) (q : MatAsk) : Body := fun s g =>
  let u := g.weaves.headD 0
  let w := s.weave u
  let e := s.site g.team
  let barred : Bool := f.neg && f.guard == 7
  match if barred then none else s.matrixTrap g f w q with
  | some reqs => .traps s g reqs
  | none =>
    if !s.anyActive g f then .done s g.next
    else if q.kind = .fromMemory && s.holds e.team spaceS (w.opnd f f.b 0).toNat q.memoryBytes then .stall
    else if s.matrixBusy e.core || s.matrixClaimed g f w u q then .stall
    else
      match s.matrixPoison g f w q with
      | some reqs => .traps s g reqs
      | none => .done (s.startMatrix g f w u (g.lanes u) q) []

/-- MMA and MMAM name their formats. -/
def plainAsk (f : Fields) (kind : MatKind) : MatAsk := { kind := kind, a := ⟨f.fa, 0, {}⟩, b := ⟨f.fb, 0, {}⟩ }

def mmaqBody (f : Fields) : Body := fun s g =>
  match mmaqSides s g f (s.weave (g.weaves.headD 0)) with
  | .ok q => matrixWith f q s g
  | .error reqs => if f.neg && f.guard == 7 then .done s g.next else .traps s g reqs

/-- MATRIX_COMPLETE (R247): the registers, the tile and the reservations are free, and the members go on. -/
def State.endMatrix (s : State) (k : Nat) (m : MatrixOp) : State :=
  { s with mats := Map.drop s.mats k, groups := s.groups ++ groupOf m.weave (m.members &&& (s.weave m.weave).live) (m.pc + 1) }

def execMatrixComplete (k : Nat) (s : State) : Host.Outcome State Fault Refusal :=
  match Map.find s.mats k with
  | some m => .next (if m.ends ≤ s.clock then s.endMatrix k m else s)
  | none => .next s

/-- An operation withdrawn: the tile and C are as before its issue, and the members stand signed at its slot (R248). -/
def State.withdrawMatrix (s : State) (k : Nat) : State :=
  match Map.find s.mats k with
  | none => s
  | some m =>
    let n := if m.pair then 2 else 1
    let low := tileBase m.tile
    let s := s.changeTeam m.team fun t =>
      { t with
        tiles := (t.tiles.filter fun e => e.1 < low) ++ m.second ++ (t.tiles.filter fun e => low + 4096 * n ≤ e.1)
        poisonRows := (t.poisonRows.filter fun r => !(m.tile * 64 ≤ r && r < (m.tile + n) * 64)) ++ m.secondPoison }
    let s := (s.setConv m.team m.convNumber m.conv).changeWeave m.weave fun w => { w with dead := w.dead.filter fun n => !m.marked.contains n }
    { s with mats := Map.drop s.mats k, groups := s.groups ++ groupOf m.weave m.members m.pc }

def execMma (f : Fields) : State → Host.Outcome State Fault Refusal := run (.mma f) f (matrixWith f (plainAsk f .plain))
def execMmas (f : Fields) : State → Host.Outcome State Fault Refusal :=
  run (.mmas f) f (matrixWith f (plainAsk f (.sparse (sparseCount f))))
def execMmaq (f : Fields) : State → Host.Outcome State Fault Refusal := run (.mmaq f) f (mmaqBody f)
def execMmam (f : Fields) : State → Host.Outcome State Fault Refusal := run (.mmam f) f (matrixWith f (plainAsk f .fromMemory))

end Sys2Proof.Machine
end

