-- ==== Sys2Proof/WellFormed.lean ====
section
/-! DEFINITION. Well-formed instructions: their fields pass the checks of R80 over the tables of `Instr.format`. -/

namespace Sys2Proof

/-- MOV with X = 1 is the row MOV_SUBELEMENT and nothing else is: the two constructors share one opcode (R119). -/
def Instr.formOk : Instr → Bool
  | .mov f => !f.x
  | .movSubelement f => f.x
  | _ => true

/-- An instruction is well formed when its fields pass the checks of R80 in the widest kernel; an event always is. -/
def Instr.wellFormed (i : Instr) : Bool :=
  i.formOk &&
    match i.format, i.fields with
    | some fm, some f => fm.check Env.widest f == none
    | _, _ => true

end Sys2Proof
end

