-- ==== Sys2Proof/Decode.lean ====
section
/-! DEFINITION. The decoder of 96-bit instruction words, total on any bits and rejecting by the causes of R80, and the
encoder beside it. -/

namespace Sys2Proof

/-! ### Operand codes (R75) -/

/-- The operand of a code; the codes 0xEA to 0xEF are reserved. -/
def Operand.ofCode (c : BitVec 8) : Option Operand :=
  if c.extractLsb' 7 1 = 0 then some (.v (c.extractLsb' 0 7))
  else if c.extractLsb' 6 2 = 2 then some (.s (c.extractLsb' 0 6))
  else if c.extractLsb' 3 5 = 0x18 then some (.p (c.extractLsb' 0 3))
  else if c.extractLsb' 3 5 = 0x19 then some (.c (c.extractLsb' 0 3))
  else if c.extractLsb' 4 4 = 0xD then some (.w (c.extractLsb' 0 4))
  else if c.extractLsb' 3 5 = 0x1C then some (.q (c.extractLsb' 0 3))
  else if c = 0xE8 then some .imm
  else if c = 0xE9 then some .zero
  else if c.extractLsb' 4 4 = 0xF then some (.a (c.extractLsb' 0 4))
  else none

/-- The code of an operand. -/
def Operand.code : Operand → BitVec 8
  | .v n => 0#1 ++ n
  | .s n => 2#2 ++ n
  | .p n => 0x18#5 ++ n
  | .c n => 0x19#5 ++ n
  | .w n => 0xD#4 ++ n
  | .q n => 0x1C#5 ++ n
  | .imm => 0xE8
  | .zero => 0xE9
  | .a n => 0xF#4 ++ n

/-! ### The frame of the word (R70, R72, R74) -/

/-- One bit of a word. -/
def bitOf (w : Word96) (n : Nat) : Bool := w.getLsbD n

/-- An operand field. A reserved code reads as ZERO here; `wordOperandsOk` says whether there is one. -/
def wordOperand (w : Word96) (low : Nat) : Operand := (Operand.ofCode (w.extractLsb' low 8)).getD .zero

/-- The operand fields hold no reserved code. -/
def wordOperandsOk (w : Word96) : Bool :=
  [14, 22, 30, 52].all fun low => (Operand.ofCode (w.extractLsb' low 8)).isSome

/-- The fields of a word. -/
def wordFields (w : Word96) : Fields where
  neg := bitOf w 13
  guard := w.extractLsb' 10 3
  d := wordOperand w 14
  a := wordOperand w 22
  b := wordOperand w 30
  c := wordOperand w 52
  width := .ofCode (w.extractLsb' 38 2)
  t := w.extractLsb' 40 4
  rm := w.extractLsb' 44 2
  sat := bitOf w 46
  x := bitOf w 47
  yieldHint := bitOf w 48
  reuse := bitOf w 49
  stream := bitOf w 50
  dead := bitOf w 51
  imm := w.extractLsb' 64 32

/-- OPCODE. -/
def wordOpcode (w : Word96) : Nat := (w.extractLsb' 0 10).toNat

/-- The reserved bits 63 to 60. -/
def wordReserved (w : Word96) : BitVec 4 := w.extractLsb' 60 4

/-! ### Opcodes (R79) -/

/-- Group 0x0 of R79. -/
def Instr.ofGroup0 (index : Nat) (f : Fields) : Option Instr :=
  match index with
  | 0 => some (.iadd f)
  | 1 => some (.isub f)
  | 2 => some (.iadds f)
  | 3 => some (.isubs f)
  | 4 => some (.imul f)
  | 5 => some (.imulh f)
  | 6 => some (.imad f)
  | 7 => some (.idiv f)
  | 8 => some (.irem f)
  | 9 => some (.imin f)
  | 10 => some (.imax f)
  | 11 => some (.iabs f)
  | 12 => some (.ineg f)
  | 13 => some (.iaddc f)
  | 14 => some (.lea f)
  | 15 => some (.idot f)
  | _ => none

/-- Group 0x1 of R79. -/
def Instr.ofGroup1 (index : Nat) (f : Fields) : Option Instr :=
  match index with
  | 0 => some (.andOp f)
  | 1 => some (.orOp f)
  | 2 => some (.xorOp f)
  | 3 => some (.andn f)
  | 4 => some (.notOp f)
  | 5 => some (.shl f)
  | 6 => some (.shr f)
  | 7 => some (.sar f)
  | 8 => some (.rot f)
  | 9 => some (.fshr f)
  | 10 => some (.popc f)
  | 11 => some (.clz f)
  | 12 => some (.ctz f)
  | 13 => some (.brev f)
  | 14 => some (.bfx f)
  | 15 => some (.bfi f)
  | 16 => some (.prmb f)
  | _ => none

/-- Group 0x2 of R79. -/
def Instr.ofGroup2 (index : Nat) (f : Fields) : Option Instr :=
  match index with
  | 0 => some (.icmp f)
  | 1 => some (.sel f)
  | 2 => some (if f.x then .movSubelement f else .mov f)
  | 3 => some (.movi f)
  | 4 => some (.movs f)
  | 5 => some (.movv f)
  | 6 => some (.pset f)
  | 7 => some (.pmov f)
  | 8 => some (.cvti f)
  | _ => none

/-- Group 0x3 of R79. -/
def Instr.ofGroup3 (index : Nat) (f : Fields) : Option Instr :=
  match index with
  | 0 => some (.fadd f)
  | 1 => some (.fsub f)
  | 2 => some (.fmul f)
  | 3 => some (.ffma f)
  | 4 => some (.fmin f)
  | 5 => some (.fmax f)
  | 6 => some (.fcmp f)
  | 7 => some (.fclass f)
  | 8 => some (.fdot2 f)
  | _ => none

/-- Group 0x4 of R79. -/
def Instr.ofGroup4 (index : Nat) (f : Fields) : Option Instr :=
  match index with
  | 0 => some (.fcvt f)
  | 1 => some (.frnd f)
  | 2 => some (.ftoi f)
  | 3 => some (.itof f)
  | 4 => some (.frcp f)
  | 5 => some (.frsq f)
  | 6 => some (.fsqrt f)
  | 7 => some (.fexp2 f)
  | 8 => some (.flog2 f)
  | 9 => some (.fsin f)
  | 10 => some (.fcos f)
  | 11 => some (.ftanh f)
  | 12 => some (.xmax f)
  | 13 => some (.xscale f)
  | 14 => some (.xsplit f)
  | _ => none

/-- Group 0x5 of R79. -/
def Instr.ofGroup5 (index : Nat) (f : Fields) : Option Instr :=
  match index with
  | 0 => some (.qpack f)
  | 1 => some (.qunpk f)
  | 2 => some (.qdeq f)
  | 3 => some (.spsel f)
  | 4 => some (.spexp f)
  | _ => none

/-- Group 0x6 of R79. -/
def Instr.ofGroup6 (index : Nat) (f : Fields) : Option Instr :=
  match index with
  | 0 => some (.perm f)
  | 1 => some (.bcast f)
  | 2 => some (.shfl f)
  | 3 => some (.vote f)
  | 4 => some (.reduce f)
  | 5 => some (.scan f)
  | 6 => some (.matchOp f)
  | _ => none

/-- Group 0x7 of R79. -/
def Instr.ofGroup7 (index : Nat) (f : Fields) : Option Instr :=
  match index with
  | 0 => some (.bra f)
  | 1 => some (.brx f)
  | 2 => some (.call f)
  | 3 => some (.callx f)
  | 4 => some (.ret f)
  | 5 => some (.exit f)
  | 6 => some (.reform f)
  | 7 => some (.trap f)
  | 8 => some (.bpt f)
  | 9 => some (.nop f)
  | _ => none

/-- Group 0x8 of R79. -/
def Instr.ofGroup8 (index : Nat) (f : Fields) : Option Instr :=
  match index with
  | 0 => some (.conv f)
  | 1 => some (.sign f)
  | 2 => some (.pdis f)
  | 3 => some (.pen f)
  | 4 => some (.syield f)
  | 5 => some (.getsys f)
  | 6 => some (.setsys f)
  | 7 => some (.trapret f)
  | 8 => some (.icpref f)
  | 9 => some (.icpin f)
  | 10 => some (.icunpin f)
  | 11 => some (.ckreq f)
  | _ => none

/-- Group 0x9 of R79. -/
def Instr.ofGroup9 (index : Nat) (f : Fields) : Option Instr :=
  match index with
  | 0 => some (.ld f)
  | 1 => some (.st f)
  | 2 => some (.ldm f)
  | 3 => some (.stm f)
  | 4 => some (.pref f)
  | 5 => some (.cctl f)
  | _ => none

/-- Group 0xA of R79. -/
def Instr.ofGroupA (index : Nat) (f : Fields) : Option Instr :=
  match index with
  | 0 => some (.atom f)
  | 1 => some (.acas f)
  | 2 => some (.red f)
  | 3 => some (.fence f)
  | 4 => some (.waitv f)
  | _ => none

/-- Group 0xB of R79. -/
def Instr.ofGroupB (index : Nat) (f : Fields) : Option Instr :=
  match index with
  | 0 => some (.cpy f)
  | 1 => some (.cpym f)
  | 2 => some (.cpyr f)
  | 3 => some (.wmrd f)
  | 4 => some (.wmwait f)
  | 5 => some (.cpyq f)
  | 6 => some (.cpyc f)
  | 7 => some (.jobsub f)
  | _ => none

/-- Group 0xC of R79. -/
def Instr.ofGroupC (index : Nat) (f : Fields) : Option Instr :=
  match index with
  | 0 => some (.binit f)
  | 1 => some (.barr f)
  | 2 => some (.barrx f)
  | 3 => some (.bwait f)
  | 4 => some (.btest f)
  | 5 => some (.cjoin f)
  | 6 => some (.cleave f)
  | 7 => some (.cgen f)
  | 8 => some (.qsend f)
  | 9 => some (.qrecv f)
  | 10 => some (.qpeek f)
  | 11 => some (.spawn f)
  | 12 => some (.steal f)
  | 13 => some (.synct f)
  | _ => none

/-- Group 0xD of R79. -/
def Instr.ofGroupD (index : Nat) (f : Fields) : Option Instr :=
  match index with
  | 0 => some (.mma f)
  | 1 => some (.mmas f)
  | 2 => some (.mmaq f)
  | 3 => some (.mmam f)
  | _ => none

/-- Group 0xE of R79. -/
def Instr.ofGroupE (index : Nat) (f : Fields) : Option Instr :=
  match index with
  | 0 => some (.accz f)
  | 1 => some (.accsc f)
  | 2 => some (.accx f)
  | 3 => some (.accrd f)
  | 4 => some (.accwr f)
  | 5 => some (.accst f)
  | 6 => some (.accld f)
  | 7 => some (.obres f)
  | 8 => some (.obrel f)
  | 9 => some (.obwr f)
  | 10 => some (.obrd f)
  | _ => none

/-- The instruction of an opcode, group times 64 plus index (R79); unlisted opcodes have none. -/
def Instr.ofOpcode (opcode : Nat) (f : Fields) : Option Instr :=
  match opcode / 64 with
  | 0 => Instr.ofGroup0 (opcode % 64) f
  | 1 => Instr.ofGroup1 (opcode % 64) f
  | 2 => Instr.ofGroup2 (opcode % 64) f
  | 3 => Instr.ofGroup3 (opcode % 64) f
  | 4 => Instr.ofGroup4 (opcode % 64) f
  | 5 => Instr.ofGroup5 (opcode % 64) f
  | 6 => Instr.ofGroup6 (opcode % 64) f
  | 7 => Instr.ofGroup7 (opcode % 64) f
  | 8 => Instr.ofGroup8 (opcode % 64) f
  | 9 => Instr.ofGroup9 (opcode % 64) f
  | 10 => Instr.ofGroupA (opcode % 64) f
  | 11 => Instr.ofGroupB (opcode % 64) f
  | 12 => Instr.ofGroupC (opcode % 64) f
  | 13 => Instr.ofGroupD (opcode % 64) f
  | 14 => Instr.ofGroupE (opcode % 64) f
  | _ => none

/-! ### Decoding -/

/-- Check 4 of R80 fails on a reserved operand code after checks 2 and 3. -/
def reservedOperand (found : Option EncFault) : EncFault :=
  match found with
  | some .illegalOpcode => .illegalOpcode
  | some .reservedBits => .reservedBits
  | some .illegalModifier => .illegalModifier
  | _ => .illegalOperand

/-- The checks of R80 over a word whose opcode is listed, in their order, for a wave with the limits `env`. -/
def checkWord (env : Env) (fm : Format) (w : Word96) : Option EncFault :=
  let found := fm.check env (wordFields w)
  if env.isShadow && shadowBarred fm.opcode then some .illegalOpcode
  else if wordReserved w ≠ 0 then some .reservedBits
  else if !wordOperandsOk w then some (reservedOperand found)
  else found

/-- Decoding for a wave with the limits `env`: the instruction, or the first failing check of R80. -/
def decodeFor (env : Env) (w : Word96) : Except EncFault Instr :=
  match Instr.ofOpcode (wordOpcode w) (wordFields w) with
  | none => .error .illegalOpcode
  | some i =>
    match i.format with
    | none => .error .illegalOpcode
    | some fm =>
      match checkWord env fm w with
      | some e => .error e
      | none => .ok i

/-- Decoding under the widest limits: what the word alone decides. -/
def decode (w : Word96) : Except EncFault Instr := decodeFor .widest w

/-- The 96-bit word of twelve bytes, the first the least significant (R71). -/
def wordOfBytes : List Byte → Word96
  | [] => 0
  | b :: rest => b.setWidth 96 ||| (wordOfBytes rest <<< 8)

/-! ### Encoding -/

/-- MOD. -/
def Fields.modBits (f : Fields) : BitVec 10 :=
  BitVec.ofBool f.x ++ BitVec.ofBool f.sat ++ f.rm ++ f.t ++ f.width.code

/-- HINTS. -/
def Fields.hintBits (f : Fields) : BitVec 4 :=
  BitVec.ofBool f.dead ++ BitVec.ofBool f.stream ++ BitVec.ofBool f.reuse ++ BitVec.ofBool f.yieldHint

/-- GUARD. -/
def Fields.guardBits (f : Fields) : BitVec 4 := BitVec.ofBool f.neg ++ f.guard

/-- The word of an opcode and its fields (R70). -/
def encodeFields (opcode : Nat) (f : Fields) : Word96 :=
  f.imm ++ 0#4 ++ f.c.code ++ f.hintBits ++ f.modBits ++ f.b.code ++ f.a.code ++ f.d.code ++ f.guardBits ++
    BitVec.ofNat 10 opcode

/-- The word of an instruction; an event of the module has no word. -/
def encode (i : Instr) : Option Word96 :=
  match i.format, i.fields with
  | some fm, some f => some (encodeFields fm.opcode f)
  | _, _ => none

/-- The `n` low bytes of a value, the least significant first. -/
def bytesOf (n : Nat) (v : Nat) : List Byte :=
  match n with
  | 0 => []
  | n + 1 => BitVec.ofNat 8 v :: bytesOf n (v / 256)

/-- The twelve bytes of a word (R71). -/
def bytesOfWord (w : Word96) : List Byte := bytesOf 12 w.toNat

/-- The decoder on a word given as a number. The opcode table gives no row any bits, so `nbits` decides nothing. -/
def decodeTableWord (_nbits w : Nat) : Option Instr :=
  match decode (BitVec.ofNat 96 w) with
  | .ok i => some i
  | .error _ => none

end Sys2Proof
end

