-- ==== Sys2Proof/Machine/Select.lean ====
section
/-! DEFINITION. Candidates and the order in which the selectors take them (R262 to R268, R338), and an issue group on its way
to its instruction (R80, R84, R151). -/

namespace Sys2Proof.Machine

/-! ### Readiness -/

/-- A thread is within its yield period (R266). -/
def State.yields (s : State) (g : Group) : Bool :=
  g.members.any fun e => (lanesOf e.2).any fun l => match Map.find (s.weave e.1).yielding l with
    | some t => s.clock ≤ t
    | none => false

/-! ### Candidates -/

/-- Where a candidate comes from. -/
inductive Source where
  | standing (index : Nat)
  | bin (core bin : Nat)
  deriving DecidableEq, Repr

/-- A candidate of the selector. `rank` is 0 for a full bin or an aged one, 1 for a standing group, 2 for a bin that is
eligible only on an idle core. -/
structure Cand where
  source : Source
  part : Group
  team : Nat
  teamId : Nat
  threads : Nat
  rank : Nat
  aged : Bool
  yields : Bool
  noProg : Bool
  deriving DecidableEq, Repr

def Group.threads (g : Group) : Nat := (g.members.map fun e => (lanesOf e.2).length).sum

/-- The threads of a bin as one standing group (R264). -/
def Bin.group (b : Bin) : Group :=
  let members := b.places.foldl (fun m p => Map.put m p.2 (Map.at m 0 p.2 ||| laneBit p.1)) []
  { members := members, pc := b.pc, wait := b.wait }

/-- The registers of the context of a team. -/
def State.contextOf (s : State) (t : Nat) : Context := s.ctx (s.site t).slice

/-- The part of a group or a bin that nothing holds, as a candidate. -/
def State.candidate (s : State) (source : Source) (g : Group) (rank : Nat) : Option Cand :=
  let part := { s.freePart g with stalled := false, picked := none }
  if part.members.isEmpty then none
  else
    let t := g.team
    let l := s.contextOf t
    some
      { source := source, part := part, team := t, teamId := (s.team t).teamId, threads := part.threads, rank := rank
        aged := !l.noProg && l.fairTimer < g.wait, yields := s.yields part, noProg := l.noProg }

/-- The standing groups of a core that may issue. -/
def State.standingCands (s : State) (c : Nat) : List Cand :=
  (s.groups.zipIdx.filter fun g => (s.team g.1.team).core = c).filterMap fun g => s.candidate (.standing g.2) g.1 1

/-- The bins of a core: full and aged ones before the others (R264). -/
def State.binCands (s : State) (c : Nat) : List Cand :=
  (s.core c).bins.filterMap fun b =>
    s.candidate (.bin c b.1) b.2.group (if b.2.places.length = 32 || b.2.aged then 0 else 2)

/-- The candidates that may be drawn, of those that are ready: a bin neither full nor aged only where the core has no other
one, except under NOPROG (R264, R267). -/
def eligible (ready : List Cand) : List Cand :=
  let always := ready.filter fun x => x.rank != 2 || x.noProg
  if always.isEmpty then ready else always

/-- The element whose key is least. -/
def leastKey (key : Cand → List Nat) : List Cand → Option Cand
  | [] => none
  | x :: rest =>
    match leastKey key rest with
    | none => some x
    | some y => if lexBefore (key y) (key x) then some y else some x

def boolNat (b : Bool) : Nat := if b then 1 else 0

/-- A standing group has no bin number: on a tie it goes before every bin (log entry 117). -/
def Source.number : Source → Nat
  | .standing _ => 0
  | .bin _ n => n + 1

/-- The order of pass 1: greatest wait, then lower TEAMID, then lower PC (R265). -/
def Cand.agedKey (x : Cand) : List Nat := [2 ^ 64 - x.part.wait, x.teamId, x.part.pc.toNat, x.source.number]

/-- A candidate with a yielding member comes after every candidate of its team that has none (R265, R266). -/
def Cand.givesWay (x : Cand) (all : List Cand) : Bool := x.yields && all.any fun y => y.team == x.team && !y.yields

/-- A team's rule (R265, R267, R338). Of several full bins, and of several that only an idle core lets be drawn, the longest wait
goes first (log entry 82). -/
def Cand.teamKey (x : Cand) : List Nat :=
  if x.noProg then [boolNat x.yields, 2 ^ 64 - x.threads, x.part.pc.toNat, x.source.number]
  else [boolNat x.yields, x.rank, 2 ^ 64 - x.part.wait, x.part.pc.toNat, x.source.number]

/-- The vector pipelines of a core (R262). -/
def pipelines : Nat := 4

/-- Pass 1 takes up to `n` of the aged candidates (R265). -/
def agedPicks : Nat → List Cand → List Cand
  | 0, _ => []
  | n + 1, all =>
    match leastKey Cand.agedKey (all.filter fun x => !x.givesWay all) with
    | none => []
    | some x => x :: agedPicks n (all.erase x)

/-- The teams in round robin, from the one after the leader: by their numbers in the module (log entry 81). -/
def roundRobin (leader : Nat) (teams : List Nat) : List Nat :=
  (teams.filter (leader < ·)) ++ teams.filter fun t => !(leader < t)

/-- Rounds of pass 2: each takes the best remaining candidate of each team (R265). -/
def rounds : Nat → List Nat → List Cand → List Cand
  | 0, _, _ => []
  | n + 1, teams, all =>
    let round := teams.filterMap fun t => leastKey Cand.teamKey (all.filter (·.team = t))
    if round.isEmpty then [] else round ++ rounds n teams (all.filter fun x => !round.contains x)

/-- What the selector of a core takes in a clock, of the candidates that are ready: the two passes. -/
def selection (leader : Nat) (teams : List Nat) (ready : List Cand) : List Cand × List Cand :=
  let all := eligible ready
  let first := agedPicks pipelines (all.filter (·.aged))
  let rest := all.filter fun x => !first.contains x
  (first, (rounds pipelines (roundRobin leader teams) rest).take (pipelines - first.length))

/-- The teams of a core, by number. -/
def State.teamsOn (s : State) (c : Nat) : List Nat :=
  sortBy id ((s.teams.filter fun t => t.2.core = c && !t.2.ended).map Prod.fst)

/-- A standing group leaves the list to issue; the part of it that is held stays (R262). -/
def State.takeGroup (s : State) (index : Nat) (part : Group) : State :=
  let groups := s.groups.zipIdx.filterMap fun g =>
    if g.2 ≠ index then some g.1
    else
      let rest := { g.1.without fun u => part.lanes u with picked := none }
      if rest.members.isEmpty then none else some rest
  { s with groups := groups }

/-! ### An issue group on its way to its instruction -/

/-- Traps taken by a group before its instruction runs. -/
def State.trapBefore (s old : State) (g : Group) (reqs : List TrapReq) (flags : Nat) : State :=
  let t := s.takeTraps g reqs fun _ => flags
  if old.framesFree reqs && t.roomFor then t.finish [g.without fun u => if reqs.any fun q => q.weave = u then BitVec.allOnes 32 else 0]
  else old.finish [g.withdrawn]

/-- A word that fails a check of R80. A convergent word is checked when its set issues (R151), SIGN like the others (log entry
110); on a shadow wave, which has none (R260), at once. -/
def State.badWord (s : State) (g : Group) (w : Word96) (e : EncFault) : Host.Outcome State Fault Refusal :=
  let whole := fun (s : State) (g : Group) =>
    .next (s.trapBefore s g (g.allTrap (encCause e) (BitVec.ofNat 64 (s.slotAddr g g.pc))) 0)
  let listed := (Instr.ofOpcode (wordOpcode w) (wordFields w)).isSome
  match convNamed (wordFields w).c with
  | none => whole s g
  | some n =>
    if !listed || !convergent (wordOpcode w) || (s.weave (g.weaves.headD 0)).shadow then whole s g
    else
      s.signThen g n whole

/-- What becomes of a group that has been selected. -/
inductive Prepared where
  | run (i : Instr) (s : State)
  | finished (r : Host.Outcome State Fault Refusal)

/-- The fetch and the decoding of a selected group's instruction (R80 to R85). -/
def State.prepare (s : State) (g : Group) : Prepared :=
  match s.fetch g with
  | .stall => .finished (.next (s.finish [g.withdrawn]))
  | .trap t reqs => .finished (.next (t.trapBefore s g reqs flagFetch))
  | .word w t =>
    match decodeFor (t.env g) w with
    | .error e => .finished (t.badWord g w e)
    | .ok i => .run i { t with issuing := some g }

end Sys2Proof.Machine
end

