-- ==== Sys2Proof/Machine/Execution.lean ====
section
/-! DEFINITION. Events of running gangs: trap entry, windows, waits, bins, yield periods, the watchdog and the retries of
accesses to other modules (R170, R177, R202, R203, R264, R266, R339, R451). -/

namespace Sys2Proof.Machine

/-- A change that posts reports is made only while the die has room for them; else its cause waits (R326). -/
def State.ifRoom (old new : State) : Host.Outcome State Fault Refusal := .next (if new.roomFor then new else old)

/-- The same for a command or an input, which waits until it can be carried out. -/
def State.orWait (old : State) (i : Instr) (new : State) : Host.Outcome State Fault Refusal :=
  .next (if new.roomFor then new else { old with waiting := old.waiting ++ [i] })

/-- TRAP_ENTRY (R170): the threads `trapped` of a weave enter with a cause. -/
def execTrapEntry (u : Nat) (cause : Byte) (pc : Slot) (addr : Word64) (lanes trapped : Mask) (s : State) :
    Host.Outcome State Fault Refusal :=
  let m := trapped &&& (s.weave u).live
  let i := Instr.trapEntry u cause pc addr lanes trapped
  if m = 0 then .next s
  else if s.framesFree [⟨u, cause, addr, lanes⟩] then s.orWait i ((s.ungroup u m).enterTrap u cause pc addr lanes m 0)
  else .next { s with waiting := s.waiting ++ [i] }

/-! ### Windows (R177) -/

/-- The limit of a pre-emption-disabled window. -/
def windowClocks : Nat := 65536

/-- The record of a cause reported for a whole gang (R325, R335). -/
def State.gangRecord (s : State) (g : Nat) (cause : Byte) : RecordFields :=
  let k := s.gang g
  s.forSlice (s.sub k.sub).slice { kind := 2, cause := cause, core := k.cores.headD 0, gang := k.gangId }

/-- PREEMPT_WINDOW_LIMIT. -/
def execPreemptWindowLimit (g : Nat) (s : State) : Host.Outcome State Fault Refusal :=
  match (s.gang g).pdis with
  | some p =>
    if p.opened + windowClocks ≤ s.clock then s.ifRoom ((s.post (s.gangRecord g causePreemptWindow)).closeWindow g) else .next s
  | none => .next s

/-! ### WAITV (R202, R203) -/

/-- What tells the issue group of a parked thread: one thread is in one group a clock. -/
def Wait.group (w : Wait) : Nat × (Nat × Nat) × Slot := (w.parked, w.first, w.pc)

/-- The groups of threads that wake in one clock: those parked by one issue group go on as one (R163). -/
def joinWoken (woken : List (Nat × Nat × Wait)) : List Group :=
  ((woken.map fun x => x.2.2.group).eraseDups).map fun k =>
    let mine := woken.filter fun x => x.2.2.group = k
    { members := ((mine.map Prod.fst).eraseDups).map fun u => (u, maskOf ((mine.filter fun x => x.1 = u).map fun x => x.2.1))
      pc := k.2.2 + 1 }

/-- Parked lanes complete their WAITV with a value of D; their watchdog counts restart (R339). -/
def State.wake (s : State) (which : Nat → Nat × Wait → Bool) (value : Word64) : State :=
  let groups := joinWoken (s.weaves.flatMap fun w => (w.2.waits.filter (which w.1)).map fun x => (w.1, x))
  let s := { s with
    weaves := s.weaves.map fun w : Nat × Weave =>
      let mine := w.2.waits.filter (which w.1)
      let now := (s.gang (s.team (teamOfWeave w.1)).gang).lived
      if mine.isEmpty then w
      else
        let given := mine.foldl (fun (v : Weave) (x : Nat × Wait) => v.dest x.2.dest (laneBit x.1) (fun _ => value) value) w.2
        (w.1, { given.restart (maskOf (mine.map Prod.fst)) now with waits := w.2.waits.filter fun x => !which w.1 x })
    groups := s.groups ++ groups }
  s.cores.foldl (fun (s : State) (c : Nat × Core) => s.trimMonitors c.1) s

/-- WAITV_WAKE: every thread parked on a monitor wakes with D := 1. -/
def execWaitvWake (key : Nat) (s : State) : Host.Outcome State Fault Refusal :=
  .next (s.wake (fun _ x => x.2.line = key) 1)

/-- A wait has timed out (R337). -/
def Wait.expired (w : Wait) (now : Nat) : Bool :=
  match w.until? with
  | some t => t < now
  | none => false

/-- WAITV_TIMEOUT: the thread wakes with D := 0, and with it those of its WAITV whose time is up too. -/
def execWaitvTimeout (u l : Nat) (s : State) : Host.Outcome State Fault Refusal :=
  match Map.find (s.weave u).waits l with
  | some w =>
    let now := s.clock
    if w.expired now then
      .next (s.wake (fun x y =>
        teamOfWeave x = teamOfWeave u && y.2.group = w.group && y.2.until? = w.until?) 0)
    else .next s
  | none => .next s

/-! ### Bins and yield periods (R264, R266) -/

/-- YIELD_PERIOD_END. -/
def execYieldPeriodEnd (u l : Nat) (s : State) : Host.Outcome State Fault Refusal :=
  match Map.find (s.weave u).yielding l with
  | some t => .next (if t < s.clock then s.changeWeave u fun w => { w with yielding := Map.drop w.yielding l } else s)
  | none => .next s

/-- BIN_AGED: the bin's wait exceeds its context's FAIRTIMER; it becomes eligible, but under NOPROG (R264, R267). -/
def execBinAged (c n : Nat) (s : State) : Host.Outcome State Fault Refusal :=
  match Map.find (s.core c).bins n with
  | some b =>
    let l := s.contextOf b.team
    .next (if l.fairTimer < b.wait && !l.noProg then
      s.changeCore c fun k => { k with bins := Map.change k.bins n fun b => { b with aged := true } } else s)
  | none => .next s

/-- BIN_DRAW: the bin that the selector has taken becomes the standing group that issues in this clock; the bin becomes free
and goes to the overflow list. What the bin holds of threads that may not issue stands apart (R264). -/
def execBinDraw (c n : Nat) (s : State) : Host.Outcome State Fault Refusal :=
  match Map.find (s.core c).bins n with
  | some b =>
    if b.picked.isSome then
      let part := s.takenPart b.group
      let rest := b.group.without part.lanes
      let s := s.changeCore c fun k => ({ k with bins := Map.drop k.bins n }).refill
      .next { s with
        drawn := if part.members.isEmpty then none else some part
        groups := s.groups ++ if rest.members.isEmpty then [] else [rest] }
    else .next s
  | none => .next s

/-! ### The watchdog (R339, R451) -/

/-- The watchdog period of a slice's node in clocks (R356). -/
def State.watchdogPeriod (s : State) (n : Nat) : Nat := s.effective (s.sliceChain n) 7 0x44 4 * 940000

/-- A count of a weave has reached the period. A thread that waits on a module in recovery is exempt below the ceiling. -/
def State.countReached (s : State) (w : Weave) (lived period ceiling : Nat) : Bool :=
  (lanesOf w.live).any fun l => !s.exempt w ceiling l && period ≤ lived - w.lastIssued l

/-- The weaves of a gang. -/
def State.gangWeaves (s : State) (g : Nat) : List (Nat × Weave) :=
  s.weaves.filter fun w => (s.team (teamOfWeave w.1)).gang = g

/-- A gang parked by a report about it, its window closed without a report (R269, R335). -/
def State.parkGang (s : State) (g : Nat) (cause : Byte) : State :=
  let s := s.post (s.gangRecord g cause)
  let s := s.changeGang g fun k => { k with state := .parked, report := some { cause := cause } }
  s.closeWindow g

/-- A count of a gang has reached its watchdog period. -/
def State.starved (s : State) (g : Nat) : Bool :=
  let period := s.watchdogPeriod (s.sub (s.gang g).sub).slice
  let ceiling := (s.part (s.partOfGang g)).ceiling
  (s.gangWeaves g).any fun w => s.countReached w.2 (s.gang g).lived period ceiling

/-- WATCHDOG. -/
def execWatchdog (g : Nat) (s : State) : Host.Outcome State Fault Refusal :=
  if (s.gang g).counts && s.starved g then s.ifRoom (s.parkGang g causeWatchdog) else .next s

/-! ### Accesses to other modules (R418, R451) -/

/-- The .g accesses that an instruction of a group would make: loads and stores, atomics and WAITV, and the records and cards
of copies and jobs (R188, R206, R222). -/
def State.globalAccesses (s : State) (g : Group) (opcode : Nat) (f : Fields) : List Access :=
  let record := (s.represented g f).map fun u =>
    ({ weave := u, lane := (lanesOf (s.active g f u)).headD 0, lanes := s.active g f u
       addr := ((s.weave u).opnd f f.a 0).toNat % 2 ^ 56, bytes := 64 } : Access)
  if [0x240, 0x241, 0x284].contains opcode then (if f.t.toNat = spaceG then s.elements g f spaceG else [])
  else if [0x242, 0x243].contains opcode then (if f.t.toNat = spaceG then s.blockElements g f spaceG f.blockCount else [])
  else if [0x280, 0x281, 0x282].contains opcode then (if atomSpace f = spaceG then s.elements g f spaceG else [])
  else if [0x2C0, 0x2C1, 0x2C2, 0x2C7].contains opcode then record
  else []

/-- The lanes of a weave that wait on an access to another module, and the modules. -/
def State.remoteWaits (s : State) (u : Nat) : List (Nat × Nat) :=
  (s.groups.filter fun g => g.lanes u != 0).flatMap fun g =>
    match s.prepare (s.freePart g) with
    | .finished _ => []
    | .run i t =>
      match i.format, i.fields with
      | some fm, some f =>
        ((t.globalAccesses (s.freePart g) fm.opcode f).filter fun x => x.weave = u).flatMap fun x =>
          match (t.peek (t.site g.team).walker x.addr).1 with
          | some p => if p.remote then (lanesOf x.lanes).map fun l => (l, p.module) else []
          | none => []
      | _, _ => []

/-- REMOTE_RETRY: the latest answer to a weave's access. -/
def execRemoteRetry (u : Nat) (answer : RemoteAnswer) (s : State) : Host.Outcome State Fault Refusal :=
  let now := s.ptime
  let old := (s.weave u).recovering
  let waits := match answer with
    | .recovering => s.remoteWaits u
    | .served => []
  let since := fun x : Nat × Nat =>
    match Map.find old x.1 with
    | some y => if y.2 = x.2 then y.1 else now
    | none => now
  .next (s.changeWeave u fun w =>
    { w with recovering := waits.foldl (fun m x => Map.put m x.1 (since x, x.2)) [] })

/-- A lane that has waited on a module in recovery for the ceiling, and the module. -/
def State.overdue (s : State) (g : Nat) : Option Nat :=
  let ceiling := (s.part (s.partOfGang g)).ceiling
  (s.gangWeaves g).findSome? fun w => (w.2.recovering.find? fun x => x.2.1 + ceiling ≤ s.ptime).map fun x => x.2.2

/-- REMOTE_CEILING_EXPIRE. -/
def execRemoteCeilingExpire (g : Nat) (s : State) : Host.Outcome State Fault Refusal :=
  match s.overdue g with
  | some m =>
    if (s.gang g).counts then
      let core := (s.gang g).cores.headD 0
      let t := s.logError (dieOfCore core) { kind := logRemotePark, core := logCore core, detail := m }
      let t := t.parkGang g causeRemote
      s.ifRoom { t with weaves := t.weaves.map fun x : Nat × Weave =>
        if (s.team (teamOfWeave x.1)).gang = g then (x.1, { x.2 with recovering := [] }) else x }
    else .next s
  | none => .next s

end Sys2Proof.Machine
end

