-- ==== Sys2Proof/Machine/Jobs.lean ====
section
/-! DEFINITION. Engine jobs: JOBSUB, and how jobs read, write and end (R222, R223, R330, R352, R418). -/

namespace Sys2Proof.Machine

/-! ### Cards (R222, R352) -/

def Job.kind (j : Job) : Nat := j.num 0 1
def Job.op (j : Job) : Nat := j.num 1 1
def Job.dst (j : Job) : Nat := j.num 8 8
def Job.src (j : Job) : Nat := j.num 0x10 8
def Job.length (j : Job) : Nat := j.num 0x18 8
def Job.fill (j : Job) : Nat := j.num 0x20 8
def Job.barrier (j : Job) : Nat := j.num 0x28 8
def Job.counter (j : Job) : Nat := j.num 0x30 8

/-- The bytes of an element: 8 for I64 and F64, 4 otherwise. -/
def Job.unit (j : Job) : Nat := if j.op = 1 ∨ j.op = 4 then 8 else 4

/-- Every field of a card lies within R222, or R352 for a card of a bundle. -/
def cardOk (bs : List Byte) (bundle : Bool) : Bool :=
  let j : Job := { card := bs }
  let reduces := j.kind == 3 || (bundle && j.kind == 4)
  1 ≤ j.kind && j.kind ≤ (if bundle then 4 else 3) && (if reduces then j.op ≤ 4 else j.op == 0) && j.num 2 1 ≤ 1 &&
    j.num 3 5 == 0 && (j.kind != 2 || j.src == 0) && j.length < 2 ^ 32 && j.length % j.unit == 0 &&
    (j.kind == 2 || (if j.kind == 4 then 2 ≤ j.fill && j.fill ≤ 576 else j.fill == 0)) &&
    (if bundle then j.barrier == 0 else bits j.barrier 62 32 == 0) && bits j.counter 62 16 == 0 && j.num 0x38 8 == 0

/-- JOBSUB in one weave. -/
def jobsubOne (f : Fields) (s : State) (g : Group) (u : Nat) (act : Mask) : One :=
  let e := s.site g.team
  let va := ((s.weave u).opnd f f.a 0).toNat
  match s.readRecord u act g.pc va with
  | .error o => o
  | .ok (bs, s) =>
    let j : Job :=
      { fn := e.asid, slice := e.slice, team := some e.team, weave := u, token := scalarNamed f.d, pc := some g.pc, card := bs
        cardAddr := va }
    if !cardOk bs false then .trap s ⟨u, causeIllegalOperand, BitVec.ofNat 64 va, act⟩
    else
      match if bit j.barrier 63 then s.barrierTrap u act e (j.barrier % 2 ^ 32) else none with
      | some q => .trap s q
      | none => .ok { s with jobs := Map.put s.jobs (Map.next s.jobs) j }

def execJobsub (f : Fields) : State → Host.Outcome State Fault Refusal := run (.jobsub f) f (weaveForm f (jobsubOne f))

/-! ### Running (R223) -/

/-- The walker of a job: the team's context on its core, or the slice, by no core, on the root of its partition (R304). -/
def State.jobWalker (s : State) (j : Job) : Walker :=
  { asid := j.fn, slice := some j.slice
    core := match j.team with
      | some t => (s.team t).core
      | none => (s.part (s.fn j.fn).part).root * 160
    cached := j.team.isSome }

/-- The record of a job's fault (R330). -/
def State.jobRecord (s : State) (j : Job) (cause : Byte) (write : Bool) (va : Nat) : RecordFields :=
  let w := s.jobWalker j
  let t := j.team.map fun t => s.team t
  s.forSlice j.slice
    { kind := 2, cause := cause, flags := flagCopy + (if write then flagWrite else 0)
      weave := if j.team.isSome then j.weave % 64 else 0xFFFF, core := w.core
      team := (t.map fun t => t.teamId).getD 0, addr := va, pc := (j.pc.map fun p => p.toNat).getD 0xFFFFFFFFFFFFFFFF
      gang := (t.map fun t => (s.gang t.gang).gangId).getD 0xFFFFFFFF }

/-- A job stopped early with a status: it has only to end. -/
def State.stopJob (s : State) (k : Nat) (j : Job) (status : Nat) : State :=
  { s with jobs := Map.put s.jobs k { j with status := BitVec.ofNat 8 status, finished := true } }

/-- A job stopped by a translation fault, which is reported. -/
def State.faultJob (s : State) (k : Nat) (j : Job) (cause : Byte) (write : Bool) (va : Nat) : State :=
  (s.post (s.jobRecord j cause write va)).stopJob k j statusFault

/-- A countdown of a barrier object in a team's scratchpad. One that a saved team owns is counted down when the team stands
again (R223, R377). -/
def State.scratchCountdown (s : State) (t off units : Nat) : State :=
  if s.isSaved t then s.changeTeam t fun m => { m with owed := m.owed ++ [(off, units)] }
  else s.updateBarrier (onChip .scratch t + off) fun b => b.countDown true units

/-- A job's countdown on its barrier (R223). -/
def State.jobCountdown (s : State) (j : Job) (units : Nat) : State :=
  match j.team with
  | none => s
  | some t => if bit j.barrier 63 then s.scratchCountdown t (j.barrier % 2 ^ 32) units else s

/-- The destinations of `n` bytes, if each may be written. -/
inductive Written where
  | places (ps : List (Translation × Nat))
  | missing (va : Nat)
  | refused (va : Nat)
  | poison
  | wait
  deriving DecidableEq, Repr

/-- The translations under which an engine writes `n` bytes from `va` on of a transfer that covers `low` to `high`. -/
def State.destinations (s : State) (w : Walker) (need : Need) (low high va : Nat) : Nat → Written × State
  | 0 => (.places [], s)
  | n + 1 =>
    match s.destinations w need low high va n with
    | (.places ps, s) =>
      let a := (va + n) % 2 ^ 56
      match s.reach w a with
      | (.poison _, s) => (.poison, s)
      | (.missing _, s) => (.missing a, s)
      | (.refused, s) => (.refused a, s)
      | (.page t, s) =>
        let line := (va + n) / 128 * 128
        if !s.permits t need (t.pa a) 1 then (.refused a, s)
        else if s.movesFor w.asid t || s.logged w a then (.wait, s)
        else if t.stored (t.pa a) && s.poisoned (t.pa a) 1 && (need == .update || line < low || high < line + 128) then
          (.poison, s)
        else (.places (ps ++ [(t, a)]), s.answered w.asid t)
    | other => other

/-- A byte written by an engine at its home, for a context (R222, R319). What the core that issued the job holds of the line is
written back first and goes, so that its threads, which may have read the job's token, observe the write. -/
def State.engineWrite (s : State) (w : Walker) (slice : Nat) (t : Translation) (va : Nat) (b : Byte) : State :=
  let s := s.noteWrite slice t va
  if t.stored (t.pa va) then s.homeWrite (if w.cached then some w.core else none) (t.pa va) [b] else s.sendOut t va [b]

/-- Bytes written one after another; a line whose last byte is written within the transfer has lost its poison. -/
def State.engineWrites (s : State) (w : Walker) (slice high : Nat) (ps : List (Translation × Nat)) (bs : List Byte) : State :=
  (ps.zip bs).foldl
    (fun s x =>
      let s := s.engineWrite w slice x.1.1 x.1.2 x.2
      if (x.1.2 + 1) % 128 = 0 && x.1.1.stored (x.1.1.pa x.1.2) && x.1.2 < high then
        { s with poison := setDrop s.poison (lineOf (x.1.1.pa x.1.2)) }
      else s) s

/-- An element of REDUCE_COPY or COLLECTIVE: `d op b` (R222, R223). -/
def jobCombine (op d b : Nat) : Nat :=
  match op with
  | 0 => (d + b) % 2 ^ 32
  | 1 => (d + b) % 2 ^ 64
  | 2 => addCodes f32Fmt 0 false d b
  | 3 => pickCode f32Fmt true d b
  | _ => addCodes f64Fmt 0 false d b

/-- The bytes of a page under which an engine reads back what it updates (R222, R318). -/
def State.readBack (s : State) (w : Walker) (ps : List (Translation × Nat)) : List Byte × State :=
  ps.foldl (fun r x =>
    let (b, s) := r.2.sourceByte w x.1 x.2
    (r.1 ++ [b], s)) ([], s)

/-- The next element of a job's source; FILL has none. -/
def State.jobSource (s : State) (j : Job) : Sourced × State :=
  if j.kind = 2 then (.bytes ((List.range j.unit).map fun k => BitVec.ofNat 8 (j.fill / 2 ^ (8 * ((j.done + k) % 8)))), s)
  else s.sourceBytes (s.jobWalker j) ((j.src + j.done) % 2 ^ 56) j.unit

/-- A job's element written to DST. -/
def State.jobStore (s : State) (k : Nat) (j : Job) (reduce : Bool) (bs : List Byte) : State :=
  let high := j.dst + j.length
  match s.destinations (s.jobWalker j) (if reduce then .update else .write) j.dst high (j.dst + j.done) j.unit with
  | (.wait, _) => s
  | (.missing va, s) => s.faultJob k j causePageFault true va
  | (.refused va, s) => s.faultJob k j causeAccessViolation true va
  | (.poison, s) => s.stopJob k j statusPoison
  | (.places ps, s) =>
    let (old, s) := if reduce then s.readBack (s.jobWalker j) ps else ([], s)
    let out := if reduce then bytesOfNat j.unit (jobCombine j.op (natOfBytes old) (natOfBytes bs)) else bs
    let s := s.engineWrites (s.jobWalker j) j.slice high ps out
    let s := s.jobCountdown j (unitsBetween j.done (j.done + j.unit) j.length)
    { s with jobs := Map.put s.jobs k { j with done := j.done + j.unit, passed := false } }

/-! ### Collectives (R352, R418) -/

/-- The modules of a collective's list, as the memory holds them now. -/
def State.moduleList (s : State) (j : Job) : Sourced × State :=
  s.sourceBytes (s.jobWalker j) (j.src % 2 ^ 56) (8 * j.fill)

def modulesOf (bs : List Byte) (n : Nat) : List Nat := (List.range n).map fun k => natOfBytes ((bs.drop (8 * k)).take 8)

/-- One step of a collective whose list is known: the partial value passes on along the list, or the final value is
stored. An empty message says that a listed module cannot take part. -/
def State.collect (s : State) (k : Nat) (j : Job) (mods : List Nat) : State :=
  let me := mods.idxOf s.module_
  let send := fun (s : State) (others : List Nat) (bs : List Byte) => { s with sent := s.sent ++ others.map fun m => (m, bs) }
  let first : Bool := me == 0
  match j.partials, j.passed, first with
  | [] :: _, _, _ => s.stopJob k j statusFault
  | [], true, _ => s
  | [], false, false => s
  | x :: rest, true, _ => s.jobStore k { j with partials := rest } false x
  | partials, false, _ =>
    match s.sourceBytes (s.jobWalker j) ((j.dst + j.done) % 2 ^ 56) j.unit with
    | (.wait, _) => s
    | (.missing vas, s) => s.faultJob k j causePageFault false (vas.headD 0)
    | (.refused va, s) => s.faultJob k j causeAccessViolation false va
    | (.poison _, s) => s.stopJob k j statusPoison
    | (.bytes own, s) =>
      let sum := if first then own
        else bytesOfNat j.unit (jobCombine j.op (natOfBytes (partials.headD [])) (natOfBytes own))
      let j := if first then j else { j with partials := partials.drop 1 }
      if me + 1 = mods.length then (send s (mods.filter (· ≠ s.module_)) sum).jobStore k j false sum
      else
        let s := send s [mods.getD (me + 1) 0] sum
        { s with jobs := Map.put s.jobs k { j with passed := true } }

/-- A collective's next step (R352). A list that does not name this module, or holds another bit, stops it. -/
def State.collective (s : State) (k : Nat) (j : Job) : State :=
  match s.moduleList j with
  | (.wait, _) => s
  | (.missing vas, s) => s.faultJob k j causePageFault false (vas.headD 0)
  | (.refused va, s) => s.faultJob k j causeAccessViolation false va
  | (.poison _, s) => s.stopJob k j statusPoison
  | (.bytes bs, s) =>
    let mods := modulesOf bs j.fill
    if mods.any (fun m => 1024 ≤ m) || !mods.contains s.module_ then s.stopJob k j statusFault else s.collect k j mods

/-! ### The two events -/

/-- A counter that the function does not have (R347). -/
def State.counterBad (s : State) (j : Job) : Bool := bit j.counter 63 && (s.fn j.fn).counters ≤ j.counter % 65536

/-- A job can do its next part. -/
def Job.writes (j : Job) : Bool := !j.finished && !j.ended && j.done < j.length

/-- JOB_WRITE: the next element (R223). The read counts for the barrier even where the write then faults, except in FILL. -/
def State.jobStep (s : State) (k : Nat) (j : Job) : State :=
  if s.counterBad j then s.stopJob k j statusCard
  else if j.kind = 4 then s.collective k j
  else
    match s.jobSource j with
    | (.wait, _) => s
    | (.missing vas, s) => s.faultJob k j causePageFault false (vas.headD 0)
    | (.refused va, s) => s.faultJob k j causeAccessViolation false va
    | (.poison _, s) => s.stopJob k j statusPoison
    | (.bytes bs, s) =>
      let t := s.jobStore k j (j.kind == 3) bs
      let stopped := ((Map.find t.jobs k).map fun j => j.finished).getD false
      if stopped && j.kind != 2 then t.jobCountdown j (unitsBetween j.done (j.done + j.unit) j.length) else t

/-- JOB_WRITE; a job whose fault cannot be reported yet waits (R326). -/
def execJobWrite (k : Nat) (s : State) : Host.Outcome State Fault Refusal :=
  match Map.find s.jobs k with
  | some j =>
    let t := if j.writes then s.jobStep k j else s
    .next (if t.roomFor then t else s)
  | none => .next s

/-- JOB_END (R213, R223). -/
def execJobEnd (k : Nat) (s : State) : Host.Outcome State Fault Refusal :=
  match Map.find s.jobs k with
  | some j => .next (if j.writes || j.ended then s else s.endJob k (if j.status = 0 then statusDone else j.status.toNat))
  | none => .next s

end Sys2Proof.Machine
end

