-- ==== Sys2Proof/Machine/Front.lean ====
section
/-! DEFINITION. What the front end reads of a slice: its entry, bundle, images, records and footprints, with the checks of
R345 in their order (R97, R98, R276, R284, R344 to R346, R351 to R353, R369). -/

namespace Sys2Proof.Machine

/-! ### Completion statuses (R355) -/

def doneStatus : Byte := 0x00
def imageError : Byte := 0x01
def bundleError : Byte := 0x02
def rcbInvalid : Byte := 0x03
def quotaStatus : Byte := 0x04
def killedStatus : Byte := 0x05
def engineFault : Byte := 0x06
def poisonKilled : Byte := 0x07
def cancelledStatus : Byte := 0x08

/-- Why a slice is refused: the status, the deciding sub-launch, and what a read met where that is reported. -/
structure Bad where
  status : Byte
  sub : Nat := 0xFF
  met : Option Met := none
  deriving DecidableEq, Repr

/-- A reading step of the front end. -/
abbrev Reading (α : Type) := ExceptT Bad (StateM State) α

def refuseUnless (c : Bool) (status : Byte) (sub : Nat) : Reading Unit := fun s =>
  (if c then .ok () else .error { status := status, sub := sub }, s)

/-- Bytes read at .sys in the function's space. Poison refuses the slice, and only that of a job card is reported, as an
unreadable record is (R442). -/
def readingBytes (w : Walker) (status : Byte) (sub va n : Nat) (card : Bool := false) : Reading (List Byte) := fun s =>
  match s.deviceGet w (va % 2 ^ 56) n with
  | (.ok bs, s) => (.ok bs, s)
  | (.error m, s) =>
    (.error (if m.1 = causePoison && !card then { status := bundleError, sub := sub } else { status := status, sub := sub, met := some m }), s)

/-- CODESLOTS of an image, if its header can be read: a HENTRY is judged against it under check 4 (R345, R351). -/
def readingSlots (w : Walker) (image : Nat) : Reading (Option Nat) := fun s =>
  match s.deviceGet w ((image + 0x10) % 2 ^ 56) 8 with
  | (.ok bs, s) => (.ok (some (natOfBytes bs)), s)
  | (.error _, s) => (.ok none, s)

/-- A little-endian field of bytes. -/
def fieldAt (bs : List Byte) (off n : Nat) : Nat := natOfBytes ((bs.drop off).take n)

/-- The bytes of a range are all zero. -/
def zeroAt (bs : List Byte) (off n : Nat) : Bool := ((bs.drop off).take n).all (· == 0)

/-! ### Kernel images (R97, R98, R276) -/

def kernelOf (image : Nat) (bs : List Byte) : Kernel :=
  { image := image, codeOff := fieldAt bs 0x08 8, codeSlots := fieldAt bs 0x10 8, entry := fieldAt bs 0x18 8
    shadowEntry := if fieldAt bs 0x20 8 = 2 ^ 64 - 1 then none else some (fieldAt bs 0x20 8)
    uses := BitVec.ofNat 64 (fieldAt bs 0x28 8), teamThreads := fieldAt bs 0x30 4, regs := fieldAt bs 0x34 2
    acc := fieldAt bs 0x36 1, gangCores := fieldAt bs 0x37 1, gangMin := fieldAt bs 0x38 1, gangTeams := fieldAt bs 0x3A 2
    scratch := fieldAt bs 0x3C 4, cluster := fieldAt bs 0x40 4, argSize := fieldAt bs 0x44 4, dataOff := fieldAt bs 0x48 8
    dataSize := fieldAt bs 0x50 8 }

def coreCounts : List Nat := [1, 2, 4, 8, 16]

/-- The header and the sub-launch pass R98 and R276. -/
def headerOk (bs : List Byte) : Bool :=
  let k := kernelOf 0 bs
  fieldAt bs 0 4 == 0x36314E4B && fieldAt bs 4 2 == 1 && fieldAt bs 6 2 == 128 && zeroAt bs 0x39 1 && zeroAt bs 0x5F 1 &&
    zeroAt bs 0x64 28 && k.codeOff % 256 == 0 && 1 ≤ k.codeSlots && k.codeSlots < 2 ^ 40 && k.entry < k.codeSlots &&
    (k.shadowEntry.map fun n => decide (n < k.codeSlots)) != some false && 1 ≤ k.teamThreads && k.teamThreads ≤ 2048 &&
    16 ≤ k.regs && k.regs ≤ 128 && k.regs % 8 == 0 && k.acc ≤ 16 && coreCounts.contains k.gangCores &&
    coreCounts.contains k.gangMin && k.gangMin ≤ k.gangCores && 1 ≤ k.gangTeams && k.gangTeams ≤ 8192 &&
    k.gangTeams % k.gangCores == 0 && k.scratch % 128 == 0 && k.scratch ≤ 524288 && k.cluster % 128 == 0 &&
    k.cluster ≤ 262144 && k.argSize % 8 == 0 && k.argSize ≤ 65536 && k.dataOff % 256 == 0 && fieldAt bs 0x58 4 % 32 == 0 &&
    fieldAt bs 0x60 4 % 8 == 0 && fieldAt bs 0x5C 1 ≤ 8 && fieldAt bs 0x5D 1 ≤ 8 && fieldAt bs 0x5E 1 ≤ 8 &&
    k.minSlots ≤ 2048

/-- A value of the argument block. -/
def readingArg (w : Walker) (sub args off : Nat) : Reading Nat := do
  let bs ← readingBytes w imageError sub (args + off) 8
  return natOfBytes bs

/-- A working-set record (R369). -/
def readingSet (w : Walker) (sub args at_ : Nat) (k : Kernel) : Reading WorkingSet := do
  let bs ← readingBytes w imageError sub at_ 32
  let argOff := fieldAt bs 0 4
  let target := fieldAt bs 4 1
  let len := fieldAt bs 8 8
  let soff := fieldAt bs 0x10 4
  refuseUnless (argOff % 8 == 0 && argOff < k.argSize && (target == 1 || target == 2) && fieldAt bs 5 1 ≤ 3 && zeroAt bs 6 2 &&
    zeroAt bs 0x14 12 &&
    (if target == 2 then len % 8 == 0 && soff % 8 == 0 && soff + len ≤ k.scratch else 1 ≤ len && len ≤ 2 ^ 40 && soff == 0))
    imageError sub
  let base ← readingArg w sub args argOff
  refuseUnless (target == 1 || base % 8 == 0) imageError sub
  return { base := base, toScratch := target == 2, prio := fieldAt bs 5 1, bytes := len, soff := soff }

/-- A footprint region (R353). -/
def readingRegion (w : Walker) (sub args at_ : Nat) (k : Kernel) (write : Bool) : Reading Footprint := do
  let bs ← readingBytes w imageError sub at_ 16
  let argOff := fieldAt bs 0 4
  let len := fieldAt bs 8 8
  refuseUnless (argOff % 8 == 0 && argOff < k.argSize && zeroAt bs 4 4 && 1 ≤ len && len ≤ 2 ^ 56) imageError sub
  let base ← readingArg w sub args argOff
  return { base := base, bytes := len, write := write }

/-- The ranges of two scratchpad records share a byte. -/
def WorkingSet.clash (a b : WorkingSet) : Bool := a.toScratch && b.toScratch && overlaps (a.soff, a.bytes) (b.soff, b.bytes)

/-- Some two records clash. -/
def anyClash : List WorkingSet → Bool
  | [] => false
  | x :: rest => rest.any x.clash || anyClash rest

/-- Check 5 for a kernel sub-launch. -/
def readingImage (w : Walker) (dies : Nat) (u : Sub) (image : Nat) : Reading Sub := do
  refuseUnless (image % 256 == 0) imageError u.index
  let bs ← readingBytes w imageError u.index image 128
  refuseUnless (headerOk bs && u.xbase % 4096 == 0 && u.xsize % 4096 == 0 && u.xbase + u.xsize ≤ dies * 2 ^ 26) imageError u.index
  let k := kernelOf image bs
  let sets ← (List.range (fieldAt bs 0x5C 1)).mapM fun r =>
    readingSet w u.index u.args (image + fieldAt bs 0x58 4 + 32 * r) k
  refuseUnless (!anyClash sets) imageError u.index
  let reads := fieldAt bs 0x5D 1
  let regions ← (List.range (reads + fieldAt bs 0x5E 1)).mapM fun r =>
    readingRegion w u.index u.args (image + fieldAt bs 0x60 4 + 16 * r) k (decide (reads ≤ r))
  return { u with kernel := some k, sets := sets, footprint := regions }

/-! ### Bundles (R351, R352) -/

/-- The regions an engine card implies (R353). -/
def cardRegions (card : List Byte) : List Footprint :=
  let j : Job := { card := card }
  let at_ := fun (base : Nat) (write : Bool) => ({ base := base, bytes := j.length, write := write } : Footprint)
  match j.kind with
  | 1 => [at_ j.src false, at_ j.dst true]
  | 2 => [at_ j.dst true]
  | 3 => [at_ j.src false, at_ j.dst false, at_ j.dst true]
  | _ => [at_ j.dst false, at_ j.dst true]

/-- One descriptor, with its card where it names one. The image of a kernel is read under check 5. -/
def readingDescriptor (w : Walker) (bundle i : Nat) : Reading (Sub × Option Nat) := do
  let bs ← readingBytes w bundleError 0xFF (bundle + 64 * (i + 1)) 64
  let kind := fieldAt bs 0 1
  let wait := fieldAt bs 1 1
  refuseUnless ((kind == 1 || kind == 2) && wait < 2 ^ i) bundleError i
  if kind = 1 then
    let flags := fieldAt bs 2 1
    refuseUnless (flags ≤ 3 && zeroAt bs 3 1 && 1 ≤ fieldAt bs 4 4 && fieldAt bs 4 4 ≤ 2 ^ 24 && fieldAt bs 0x10 8 % 8 == 0 &&
      zeroAt bs 0x30 16) bundleError i
    return ({ index := i, waitMask := wait, gangs := fieldAt bs 4 4, args := fieldAt bs 0x10 8
              handler := if bit flags 1 then some (BitVec.ofNat 40 (min (fieldAt bs 0x18 8) (2 ^ 40 - 1))) else none
              fbase := fieldAt bs 0x20 8, xzero := bit flags 0, xbase := fieldAt bs 0x28 4, xsize := fieldAt bs 0x2C 4 },
            some (fieldAt bs 8 8))
  else
    refuseUnless (zeroAt bs 2 6 && zeroAt bs 0x10 48) bundleError i
    let card ← readingBytes w bundleError i (fieldAt bs 8 8) 64 true
    refuseUnless (cardOk card true) bundleError i
    return ({ index := i, waitMask := wait, card := card, cardAddr := fieldAt bs 8 8, footprint := cardRegions card }, none)

/-- Checks 4 and 5 of R345: the sub-launches of a bundle. -/
def readingBundle (w : Walker) (dies bundle : Nat) : Reading (List Sub) := do
  refuseUnless (bundle % 64 == 0) bundleError 0xFF
  let bs ← readingBytes w bundleError 0xFF bundle 64
  let n := fieldAt bs 4 1
  refuseUnless (fieldAt bs 0 4 == 0x44424E4B && 1 ≤ n && n ≤ 8 && zeroAt bs 5 59) bundleError 0xFF
  let subs ← (List.range n).mapM (readingDescriptor w bundle)
  for u in subs do
    match u.2, u.1.handler with
    | some image, some h =>
      let slots ← readingSlots w image
      refuseUnless ((slots.map fun k => decide (h.toNat < k)) != some false) bundleError u.1.index
    | _, _ => pure ()
  subs.mapM fun u =>
    match u.2 with
    | some image => readingImage w dies u.1 image
    | none => pure u.1

/-! ### Slice entries (R344, R345) -/

def sliceOfEntry (fn queue index : Nat) (q : Queue) (bs : List Byte) : Slice :=
  let flags := fieldAt bs 1 1
  let kind : SliceKind := if fieldAt bs 0 1 = 1 then .launch else if fieldAt bs 0 1 = 2 then .ctrset else .nop
  { fn := fn, queue := queue, ringIndex := index, kind := kind, qclass := q.qclass, prio := q.prio
    waitCtr := if bit flags 0 then some (fieldAt bs 0x28 2) else none
    sigCtr := if bit flags 1 || kind == .ctrset then some (fieldAt bs 0x2C 2) else none
    cplAddr := if bit flags 2 then some (fieldAt bs 0x30 8) else none
    ctrValue := BitVec.ofNat 32 (fieldAt bs 0x38 8), deadline := fieldAt bs 8 8, budget := fieldAt bs 0x10 8 % 2 ^ 40
    left := fieldAt bs 0x10 8 % 2 ^ 40, bundle := fieldAt bs 0x18 8
    rcb := if kind == .launch then fieldAt bs 0x20 8 else q.rcb, entry := bs }

/-- Check 1. BUDGET is ignored but for LAUNCH. Of WAITCTR, SIGCTR and CTRVAL no bit is reserved. -/
def entryOk (bs : List Byte) : Bool :=
  let kind := fieldAt bs 0 1
  1 ≤ kind && kind ≤ 3 && fieldAt bs 1 1 < 8 && zeroAt bs 2 6 && (kind != 1 || fieldAt bs 0x10 8 < 2 ^ 40)

/-- The PARENT of a node. A node that cannot be read refuses the slice; a poisoned one does not, and withholds its
eligibility until the node is rewritten (R442). -/
def readingParent (w : Walker) (node : Nat) : Reading (Option Nat) := fun s =>
  match s.deviceGet w (node % 2 ^ 56) 8 with
  | (.ok bs, s) => (.ok (some (natOfBytes bs)), s)
  | (.error m, s) => (if m.1 = causePoison then .ok none else .error { status := rcbInvalid }, s)

/-- SRCB is the bound RCB or lies below it within 8 PARENT steps (check 3). -/
def readingAncestor (w : Walker) (bound : Nat) : Nat → Nat → Reading Bool
  | steps, node =>
    if node = bound then pure true
    else if node = 0 then pure false
    else
      match steps with
      | 0 => pure false
      | n + 1 => do
        match ← readingParent w node with
        | some parent => readingAncestor w bound n parent
        | none => pure true

/-- The checks of R345 on an entry that has been read: its sub-launches. -/
def readingSlice (w : Walker) (dies quota : Nat) (l : Slice) (q : Queue) (bs : List Byte) : Reading (List Sub) := do
  refuseUnless (entryOk bs) bundleError 0xFF
  refuseUnless (([l.waitCtr, l.sigCtr].filterMap id).all (· < quota)) quotaStatus 0xFF
  if l.kind = .launch then
    let below ← readingAncestor w q.rcb 8 l.rcb
    refuseUnless below rcbInvalid 0xFF
    readingBundle w dies l.bundle
  else return []

/-! ### Derived edges (R354) -/

def Footprint.meets (a b : Footprint) : Bool := overlaps (a.base, a.bytes) (b.base, b.bytes)

/-- Sub-launch `b` waits for the earlier sub-launch `a`. -/
def edge (a b : Sub) : Bool :=
  a.index < b.index &&
    (bit b.waitMask a.index || a.footprint.isEmpty || b.footprint.isEmpty ||
      a.footprint.any fun x => b.footprint.any fun y => (x.write || y.write) && x.meets y)

end Sys2Proof.Machine
end

