-- ==== Sys2Proof/Machine/Placement.lean ====
section
/-! DEFINITION. Placing gangs (R258, R259, R275, R361 to R365, R372, R379, R380), and staging of L2 records (R370 to R374). -/

namespace Sys2Proof.Machine

/-! ### Charges (R275, R362, R378, R379) -/

/-- What a team charges: thread slots, lane-private bytes, scratchpad, cluster share, tiles, register file. -/
def Kernel.charges (k : Kernel) : List Nat :=
  [k.slots, k.slots * k.sliceBytes, k.scratch, k.cluster, k.acc, k.registerBytes]

/-- What a team that has ended still charges while its gang stands: its memories are back, its place is not (R272, R274). -/
def Kernel.endedCharges (k : Kernel) : List Nat := [k.slots, 0, 0, 0, 0, k.registerBytes]

/-- What a core has of each. -/
def coreLimits : List Nat := [2048, 524288, 524288, 262144, 16, 524288]

/-- What a team charges its core. One that had ended in the image that its context was resumed from charges nothing (R436). -/
def Team.charges (m : Team) (k : Kernel) : List Nat := if m.released then [] else if m.ended then k.endedCharges else k.charges

/-- What the teams that stand on a core charge. -/
def State.chargesOn (s : State) (c : Nat) : List (List Nat) :=
  (s.teams.filter fun t => t.2.core = c && (s.gang t.2.gang).stands).map fun t =>
    t.2.charges (s.site t.1).kernel

/-- A core accepts placement: it is powered, and neither under test nor due for one, unless tests are suspended or the test waits for
capacity (R446, R448, R450). -/
def State.accepts (s : State) (c : Nat) : Bool :=
  let k := s.core c
  let waits := !k.testWait.isEmpty && k.testWait.all fun g => s.ptime < g.2
  (s.die (dieOfCore c)).alive && !k.testRuns && (k.testDue.isNone || !(s.part (s.partOfDie (dieOfCore c))).testing || waits)

/-- What teams bring to a core: their charges, the copies that need active-copy slots, and the granules of the operand buffer
that their reservations take (R275, R298, R362). -/
structure Brought where
  charges : List (List Nat) := []
  copies : Nat := 0
  granules : Nat := 0
  deriving DecidableEq, Repr

/-- A core passes R362 for what teams of a kernel bring. -/
def State.coreFits (s : State) (k : Kernel) (q : Brought) (c : Nat) : Bool :=
  let all := s.chargesOn c ++ q.charges
  let charged := fun i => (all.map fun x => x.getD i 0).sum
  (s.core c).capmask &&& k.uses == k.uses && s.accepts c && q.copies ≤ (s.freeSlots c).length &&
    ((List.range 6).all fun i => charged i ≤ coreLimits.getD i 0) && s.opbufGranules c + q.granules ≤ opbufBytes / 256

/-- The runs of `n` cores of a partition in their order: DIE, BLOCK, b (R361, R363). -/
def Part.runs (p : Part) (n : Nat) : List (List Nat) :=
  p.dies.flatMap fun d => (List.range 10).flatMap fun block => (List.range (16 / n)).map fun b => span (d * 160 + block * 16 + b * n) n

/-- The first run on which every core passes. `needs` gives what the teams of gang slot i bring. -/
def State.findRun (s : State) (part : Nat) (k : Kernel) (n : Nat) (needs : Nat → Brought) : Option (List Nat) :=
  ((s.part part).runs n).find? fun cores => cores.zipIdx.all fun c => s.coreFits k (needs c.2) c.1

/-! ### Launching a gang -/

/-- The launched lanes of a weave (R258). -/
def Kernel.lanes (k : Kernel) (w : Nat) : Mask := maskOf (List.range (min 32 (k.teamThreads - 32 * w)))

/-- The waves of a new team with the registers of R11, and their groups. -/
def launchWaves (k : Kernel) (team args : Nat) (shadow : Bool) : List (Nat × Weave) :=
  (List.range k.weaves).map fun w =>
    (weaveUid team w shadow,
      { team := team, weaveId := w, shadow := shadow, live := k.lanes w, s := [(0, BitVec.ofNat 64 args)] })

def launchGroups (k : Kernel) (team entry : Nat) (shadow : Bool) : List Group :=
  (List.range k.weaves).map fun w => { members := [(weaveUid team w shadow, k.lanes w)], pc := BitVec.ofNat 40 entry }

/-- The scratchpad records of a sub-launch as ranges of a staging copy (R372). -/
def Sub.ranges (u : Sub) : List (Nat × Nat × Nat) := (u.sets.filter (·.toScratch)).map fun r => (r.base, r.bytes, r.soff)

/-- The staging copy of a team bound to w15. -/
def State.stageTeam (s : State) (team : Nat) : State :=
  let e := s.site team
  let ranges := (s.sub e.sub).ranges
  if ranges.isEmpty then s
  else
    let c : Copy :=
      { core := e.core, team := team, weave := weaveUid team 0 false, slice := e.slice, asid := e.asid, wm := 15, space := spaceS
        nbytes := (ranges.map fun r => r.2.1).sum, targets := [team], ranges := ranges }
    (s.bindCopy c).getD s

/-- A team placed. -/
def State.placeTeam (s : State) (g sub index core : Nat) : State :=
  let u := s.sub sub
  let k := u.kernel.getD {}
  let team := Map.next s.teams
  let m : Team := { gang := g, sub := sub, teamId := (s.gang g).gangId * k.gangTeams + index, index := index, core := core }
  let shadow := match k.shadowEntry with
    | some entry => (launchWaves k team u.args true, launchGroups k team entry true)
    | none => ([], [])
  (({ s with
    teams := Map.put s.teams team m
    weaves := s.weaves ++ launchWaves k team u.args false ++ shadow.1
    groups := s.groups ++ launchGroups k team k.entry false ++ shadow.2 }).hold core g team k).stageTeam team

/-- The cores of a run reserved: each discards its clean .g bytes (R321). -/
def State.reserveRun (s : State) (cores : List Nat) : State := cores.foldl (fun (s : State) c => s.discardClean c true) s

/-- Every team of a new gang placed on a run, in one step (R363). -/
def State.placeGang (s : State) (g : Nat) (cores : List Nat) : State :=
  let sub := (s.gang g).sub
  let k := (s.sub sub).kernel.getD {}
  let per := k.gangTeams / max 1 cores.length
  let s := s.reserveRun cores
  let s := s.changeGang g fun x => { x with state := .placed, cores := cores }
  let s := (List.range k.gangTeams).foldl (fun (s : State) t => s.placeTeam g sub t (cores.getD (t / max 1 per) 0)) s
  s.changeSlice (s.sub sub).slice fun l => { l with state := if l.state == .dispatched then .running else l.state }

/-- The next gang of a started sub-launch, which waits for a run. -/
def State.nextGang (s : State) (n : Nat) : State :=
  let u := s.sub n
  if u.kernel.isNone || u.state != .started || u.killed || u.gangs ≤ u.nextGang then s
  else
    { s.changeSub n fun u => { u with nextGang := u.nextGang + 1 } with
      gangs := Map.put s.gangs (Map.next s.gangs) { sub := n, gangId := u.nextGang } }

/-- What each gang slot of a new gang brings: its teams' charges, and a staging copy for each team of a kernel with scratchpad
records. -/
def Sub.copyNeeds (u : Sub) (n : Nat) : Nat → Brought := fun _ =>
  let k := u.kernel.getD {}
  let teams := k.gangTeams / max 1 n
  { charges := List.replicate teams k.charges, copies := if u.ranges.isEmpty then 0 else teams }

/-- The run of a new gang (R361). -/
def State.runForNew (s : State) (g : Nat) : Option (List Nat) :=
  let u := s.sub (s.gang g).sub
  match u.kernel with
  | some k => s.findRun (s.partOfSlice u.slice) k k.gangCores (u.copyNeeds k.gangCores)
  | none => none

/-- The slice may have gangs placed: also one whose bundle has failed, whose running sub-launches complete (R355). -/
def Slice.places (l : Slice) : Bool := l.state == .dispatched || l.state == .running

/-! ### Saved gangs (R365, R388) -/

/-- The team that a copy stands with: the one that issued it, or once that has ended the first that it is for (R298). -/
def State.copyHolder (s : State) (c : Copy) : Nat :=
  if (s.team c.team).ended then ((c.targets.find? fun t => !(s.team t).ended).getD c.team) else c.team

/-- What the saved teams on one gang slot bring. -/
def State.savedNeeds (s : State) (g per i : Nat) : Brought :=
  let all := s.teams.filter fun t => t.2.gang = g && t.2.index / max 1 per = i
  let mine := all.filter fun t => !t.2.ended
  { charges := all.map fun t => t.2.charges (s.site t.1).kernel
    copies := (s.copies.filter fun c => c.2.saved && mine.any fun t => t.1 = s.copyHolder c.2).length
    granules := (mine.map fun t => t.2.granules).sum }

/-- The run of a saved gang: the greatest n for which one passes. -/
def State.runForSaved (s : State) (g : Nat) : Option (List Nat) :=
  let u := s.sub (s.gang g).sub
  match u.kernel with
  | none => none
  | some k =>
    ((coreCounts.reverse.filter fun n => n ≤ k.gangCores && k.gangMin ≤ n)).findSome? fun n =>
      let per := k.gangTeams / n
      s.findRun (s.partOfSlice u.slice) k n (s.savedNeeds g per)

/-- A saved gang waits for a run. -/
def State.waitsSaved (s : State) (g : Nat) : Bool :=
  let k := s.gang g
  (k.state == .preempted || k.state == .unplaced) && k.saved.isSome && !k.killed

/-- A gang of the same sub-launch with a lower GANGID waits for a run: it goes first (R363). -/
def State.lowerWaits (s : State) (g : Nat) : Bool :=
  s.gangs.any fun x =>
    x.2.sub = (s.gang g).sub && x.2.gangId < (s.gang g).gangId && !x.2.killed && (x.2.state == .unplaced || x.2.state == .preempted)

/-- A saved gang may come back: its partition and its function run, and its slice's gangs have not been discarded. -/
def State.comesBack (s : State) (g : Nat) : Bool :=
  let l := s.slice (s.sub (s.gang g).sub).slice
  s.waitsSaved g && s.partRuns (s.fn l.fn).part && !(s.fn l.fn).stopping && !(s.fn l.fn).inReset && !l.discarded

/-- The saved gangs of a partition whose window was critical, earliest first (R388). -/
def State.critGangs (s : State) (part : Nat) : List Nat :=
  let mine := s.gangs.filter fun g =>
    s.comesBack g.1 && ((g.2.saved.map fun x => x.crit).getD false) && s.partOfSlice (s.sub g.2.sub).slice = part
  let rec order : Nat → List (Nat × Gang) → List Nat
    | 0, _ => []
    | n + 1, l =>
      match leastBy (fun g : Nat × Gang => ((g.2.saved.map fun x => x.at_).getD 0)) l with
      | none => []
      | some g => g.1 :: order n (l.filter fun x => x.1 ≠ g.1)
  order mine.length mine

/-- A critical gang of the partition has a run, which goes to it first. -/
def State.critFirst (s : State) (part : Nat) : Bool := (s.critGangs part).any fun g => (s.runForSaved g).isSome

/-- GANG_PLACE for a new gang, if it may be placed now. -/
def State.tryPlace (s : State) (g : Nat) : State :=
  let k := s.gang g
  let l := s.slice (s.sub k.sub).slice
  if k.state == .unplaced && k.saved.isNone && !k.killed && l.places && s.partRuns (s.fn l.fn).part && !(s.fn l.fn).stopping && !s.lowerWaits g &&
      !s.critFirst (s.partOfSlice (s.sub k.sub).slice) then
    match s.runForNew g with
    | some cores => (s.placeGang g cores).nextGang k.sub
    | none => s
  else s

/-- GANG_PLACE (R361 to R364). -/
def execGangPlace (g : Nat) (s : State) : Host.Outcome State Fault Refusal := .next (s.tryPlace g)

/-! ### L2 staging (R371, R374) -/

/-- The bytes of a partition's L2: 512 MiB for each die. -/
def Part.l2Bytes (p : Part) : Nat := p.dies.length * 2 ^ 29

/-- The record of a sub-launch that is admitted next: those that have been neither admitted nor refused, in PRIO order, then
in record order. -/
def Sub.nextSet (u : Sub) : Option Nat :=
  let open_ := u.sets.zipIdx.filter fun r => !r.1.toScratch && (Map.find u.staging r.2).isNone
  (leastBy (fun r : WorkingSet × Nat => (3 - r.1.prio) * 2 ^ 32 + r.2) open_).map Prod.snd

/-- An L2 record of a candidate sub-launch is admitted, or refused for good. -/
def State.admitSet (s : State) (n record : Nat) : State :=
  let u := s.sub n
  let part := s.partOfSlice u.slice
  let p := s.part part
  match u.sets[record]? with
  | none => s
  | some r =>
    let fits : Bool := p.share ≠ 0 && p.staged + r.reserve ≤ p.share * (p.l2Bytes / 64)
    let s := s.changeSub n fun u => { u with staging := Map.put u.staging record (if fits then 1 else 0) }
    if fits then s.changePart part fun p => { p with staged := p.staged + r.reserve } else s

/-- The pages of a record. -/
def WorkingSet.pages (r : WorkingSet) : Nat := if r.bytes = 0 then 0 else (r.base + r.bytes - 1) / 65536 + 1 - r.base / 65536

/-- An admitted record whose fill has not ended, by PRIO and number. -/
def Sub.nextFill (u : Sub) : Option Nat :=
  let open_ := u.sets.zipIdx.filter fun r => let x := Map.at u.staging 0 r.2; 1 ≤ x && x ≤ r.1.pages
  (leastBy (fun r : WorkingSet × Nat => (3 - r.1.prio) * 2 ^ 32 + r.2) open_).map Prod.snd

/-- The next page of an admitted record is read into L2: its walk may claim a frame (R395), and its lines are held against
replacement. A page that is missing, forbidden or poisoned is skipped without a report. -/
def State.fillSet (s : State) (n record : Nat) : State :=
  let u := s.sub n
  match u.sets[record]? with
  | none => s
  | some r =>
    let done := Map.at u.staging 0 record
    let page := (r.base / 65536 + (done - 1)) * 65536 % 2 ^ 56
    let w : Walker := { asid := (s.slice u.slice).fn, slice := some u.slice, core := (s.part (s.partOfSlice u.slice)).root * 160 }
    let pending := s.dies.map fun d => (d.1, d.2.pending)
    let (met, s) := s.walkChecked w page
    let s := { s with dies := s.dies.map fun d : Nat × Die => (d.1, { d.2 with pending := Map.at pending [] d.1 }) }
    let frame := match met with
      | .page t => if t.canRead && t.stored (t.pa page) && (s.firstPoison (t.pa page) 65536).isNone then [t.pa page / 65536] else []
      | _ => []
    s.changeSub n fun u => { u with staging := Map.put u.staging record (done + 1), lines := setUnion u.lines frame }

/-- STAGE_RESERVATION_EXPIRE (R374). -/
def execStageReservationExpire (n : Nat) (s : State) : Host.Outcome State Fault Refusal :=
  match (s.slice n).stagedUntil with
  | some t =>
    .next (if t ≤ s.clock then
      ((s.slice n).subs.foldl (fun (s : State) u => s.dropStaged u) s).changeSlice n fun l => { l with stagedUntil := none }
      else s)
  | none => .next s

end Sys2Proof.Machine
end

