-- ==== Sys2Proof/Machine/SaveArea.lean ====
section
/-! DEFINITION. The context save area: the layout of a team's record and its parts (R378, R380, R383, R384), and the save
cost (R386). -/

namespace Sys2Proof.Machine

/-! ### Parts (R380) -/

/-- The parts of a team that are neither dead nor clean (R380). -/
def State.dirtyPieces (s : State) (t : Nat) : List Piece :=
  ((s.weaves.filter fun w => teamOfWeave w.1 = t).flatMap fun w =>
      (w.2.savedV.filter fun n => !w.2.dead.contains n).map fun n => Piece.vreg w.1 n) ++
    (s.team t).savedRows.map Piece.row ++ (s.savedLines.filter fun ln => ownedBy t (ln * 128)).map Piece.line ++
    (s.team t).savedFifos.map Piece.fifo ++ if (s.team t).stateHeld then [Piece.control] else []

/-- The bytes of a part as they stand. -/
def State.pieceBytes (s : State) (t : Nat) : Piece → List Byte
  | .vreg u n => (List.range 32).flatMap fun l => bytesOfNat 8 ((s.weave u).lane n l).toNat
  | .row key => (List.range 64).flatMap fun c => bytesOfNat 4 (Map.at (s.team t).tiles 0 (key * 64 + c)).toNat
  | .line ln => Memory.readBytes s.mem (ln * 128) 128
  | .fifo n =>
    let q := Map.at (s.team t).fifos [] n
    (List.range 4).flatMap fun i => (List.range 32).flatMap fun l => bytesOfNat 8 ((q.getD i []).getD l 0).toNat
  | .control => ((s.gang (s.team t).gang).saved.map fun x => Map.at x.controls [] t).getD []

/-- The lane values held by 256 bytes. -/
def lanesOfBytes (bs : List Byte) : Lanes := (List.range 32).map fun l => BitVec.ofNat 64 (natOfBytes ((bs.drop (8 * l)).take 8))

/-- A part given the bytes of its copy, which end its poison (R441). A FIFO keeps the number of entries that its control record
names. -/
def State.setPiece (s : State) (t : Nat) (bs : List Byte) : Piece → State
  | .vreg u n => s.changeWeave u fun w => { w with v := Map.put w.v n (lanesOfBytes bs), poisonV := setDrop w.poisonV n }
  | .row key =>
    s.changeTeam t fun m =>
      let row := (List.range 64).map fun c => BitVec.ofNat 32 (natOfBytes ((bs.drop (4 * c)).take 4))
      { m with tiles := writeElements m.tiles (key * 64) row, poisonRows := setDrop m.poisonRows key }
  | .line ln => { s with mem := Memory.writeBytes s.mem (ln * 128) bs, poison := setDrop s.poison ln }
  | .fifo n =>
    s.changeTeam t fun m =>
      { m with fifos := Map.change m.fifos n fun q => (List.range q.length).map fun i => lanesOfBytes (bs.drop (256 * i)) }
  | .control => s

/-- Where a team's poisoned s registers stand in its record. -/
def State.toxicScalars (s : State) (t : Nat) : List Nat :=
  let k := (s.site t).kernel
  (List.range (k.weaves * k.sh)).flatMap fun i => (s.weave (waveAt k t i)).poisonS.map fun n => k.ctl + 512 * i + 8 * n

/-- A part is poisoned. -/
def State.pieceToxic (s : State) (t : Nat) : Piece → Bool
  | .vreg u n => (s.weave u).poisonV.contains n
  | .row key => (s.team t).poisonRows.contains key
  | .line ln => s.poison.contains ln
  | .fifo _ | .control => false

/-- A part that has been spilled is no longer counted as written since the last save, and its poison is that of the save area
(R441). -/
def State.cleanPiece (s : State) (t : Nat) : Piece → State
  | .vreg u n => s.changeWeave u fun w => { w with savedV := setDrop w.savedV n, poisonV := setDrop w.poisonV n }
  | .row key => s.changeTeam t fun m => { m with savedRows := setDrop m.savedRows key, poisonRows := setDrop m.poisonRows key }
  | .line ln => { s with savedLines := setDrop s.savedLines ln, poison := setDrop s.poison ln }
  | .fifo n => s.changeTeam t fun m => { m with savedFifos := setDrop m.savedFifos n }
  | .control => s.changeTeam t fun m => { m with stateHeld := false }

/-- Every part a record may hold of a team. -/
def State.allPieces (s : State) (t : Nat) : List Piece :=
  let e := s.site t
  let k := e.kernel
  let linesIn := fun (r : Region) (owner bytes : Nat) => (linesOf (onChip r owner) bytes).map Piece.line
  ((List.range (k.weaves * k.sh)).flatMap fun i =>
      let u := waveAt k t i
      (List.range (if i < k.weaves then k.regs else 16)).map (Piece.vreg u) ++
        (List.range 32).flatMap fun l => linesIn .slice (u * 32 + l) k.sliceBytes) ++
    linesIn .scratch t k.scratch ++ linesIn .cluster t k.cluster ++ (List.range (k.acc * 64)).map Piece.row ++
    ((((s.team t).reservations.flatMap fun r => linesOf (opbufCell t r.2.base) r.2.bytes).eraseDups).map Piece.line) ++
    ((s.team t).fifos.map Prod.fst).map Piece.fifo

/-! ### Where a record stands (R383, R384) -/

/-- The walker of a slice's context on a core. -/
def State.contextWalker (s : State) (n core : Nat) : Walker := { asid := (s.slice n).fn, slice := some n, core := core }

/-- The effective SAVEAREA of a slice's context. -/
def State.saveArea (s : State) (n : Nat) : Nat := s.effective (s.sliceChain n) 8 0x48 8

/-- The address of a team's record. -/
def State.recordAddr (s : State) (t : Nat) : Except Met Nat × State :=
  let e := s.site t
  let area := s.saveArea e.slice
  if area % 4096 ≠ 0 then (.error (causeAccessViolation, area), s)
  else
    match s.deviceGet (s.contextWalker e.slice e.core) ((area + 8 * (s.sub e.sub).index) % 2 ^ 56) 8 with
    | (.error m, s) => (.error m, s)
    | (.ok bs, s) => (.ok (area + natOfBytes bs + (s.team t).teamId * e.kernel.tsz), s)

/-- The lines of `n` bytes at an address made poisoned. -/
def State.poisonAt (s : State) (w : Walker) (va n : Nat) : State :=
  (pagePieces va n).foldl
    (fun (s : State) (x : Nat × Nat) =>
      match s.walkChecked w x.1 with
      | (.page t, s) => if t.stored (t.pa x.1) then { s with poison := setUnion s.poison (linesOf (t.pa x.1) x.2) } else s
      | (_, s) => s) s

/-- A part written to its place in the save area; poison goes with it (R441). -/
def State.spillPiece (s : State) (w : Walker) (t record : Nat) (p : Piece) : Except Met Unit × State :=
  let off := s.offsetOf t p
  let va := (record + off) % 2 ^ 56
  match s.devicePut w va (s.pieceBytes t p) with
  | (.error m, s) => (.error m, s)
  | (.ok _, s) =>
    let s := if s.pieceToxic t p then s.poisonAt w va (p.bytes (s.site t).kernel) else s
    (.ok (), (s.cleanPiece t p).changeTeam t fun m => { m with inArea := setAdd m.inArea off })

def State.spillPieces (s : State) (w : Walker) (t record : Nat) : List Piece → Except Met Unit × State
  | [] => (.ok (), s)
  | p :: rest =>
    match s.spillPiece w t record p with
    | (.error m, s) => (.error m, s)
    | (.ok _, s) => s.spillPieces w t record rest

/-- A part of a saved team stands in its record and nowhere else: its bank was spilled. -/
def State.inRecord (s : State) (t : Nat) (p : Piece) : Bool :=
  ((s.team t).away || ((s.bankOf t p).map (s.team t).gone.contains).getD false) && (s.team t).inArea.contains (s.offsetOf t p)

/-- Parts read back from the save area. -/
def State.restorePieces (s : State) (w : Walker) (t record : Nat) : List Piece → Except Met Unit × State
  | [] => (.ok (), s)
  | p :: rest =>
    match s.deviceGet w ((record + s.offsetOf t p) % 2 ^ 56) (p.bytes (s.site t).kernel) with
    | (.error m, s) => (.error m, s)
    | (.ok bs, s) => (s.setPiece t bs p).restorePieces w t record rest

/-! ### What comes about while a team is saved (R214, R223, R377) -/

/-- The tokens that came for saved waves written into their sections. -/
def State.writeLate (s : State) (w : Walker) (k : Kernel) (record : Nat) : List Nat → Except Met Unit × State
  | [] => (.ok (), s)
  | u :: rest =>
    let put := (s.weave u).late.foldl
      (fun (r : Except Met Unit × State) (x : Nat × Word64) =>
        match r.1 with
        | .error m => (.error m, r.2)
        | .ok _ => r.2.devicePut w ((record + k.ctl + 512 * waveIndex k u + 8 * x.1) % 2 ^ 56) (bytesOfNat 8 x.2.toNat)) (.ok (), s)
    match put with
    | (.error m, s) => (.error m, s)
    | (.ok _, s) =>
      (s.changeWeave u fun x => { x with s := x.late.foldl (fun r y => Map.put r y.1 y.2) x.s, late := [] }).writeLate w k record rest

/-- The countdowns that came for barrier objects of a saved team's scratchpad, each on its line as it stands or as its record
holds it. -/
def State.payOwed (s : State) (w : Walker) (t record : Nat) : List (Nat × Nat) → Except Met Unit × State
  | [] => (.ok (), s.changeTeam t fun m => { m with owed := [] })
  | (off, units) :: rest =>
    let cell := onChip .scratch t + off
    let p := Piece.line (lineOf cell)
    let spilled := s.inRecord t p
    match s.restorePieces w t record (if spilled then [p] else []) with
    | (.error m, s) => (.error m, s)
    | (.ok _, s) =>
      let s := s.updateBarrier cell fun b => b.countDown true units
      match s.spillPieces w t record (if spilled then [p] else []) with
      | (.error m, s) => (.error m, s)
      | (.ok _, s) => s.payOwed w t record rest

/-- A saved team's state brought up to date with what came about since its save. -/
def State.settleTeam (s : State) (t : Nat) : Except Met Unit × State :=
  let e := s.site t
  let late := (s.weaves.filter fun w => teamOfWeave w.1 = t && !w.2.late.isEmpty).map Prod.fst
  if late.isEmpty && (s.team t).owed.isEmpty then (.ok (), s)
  else
    let w := s.contextWalker e.slice e.core
    match s.recordAddr t with
    | (.error m, s) => (.error m, s)
    | (.ok record, s) =>
      match s.writeLate w e.kernel record late with
      | (.error m, s) => (.error m, s)
      | (.ok _, s) => s.payOwed w t record (s.team t).owed

/-! ### Save cost (R386) -/

/-- The teams of a slice that have not ended. -/
def State.sliceTeams (s : State) (n : Nat) : List Nat :=
  (s.teams.filter fun t => !t.2.ended && (s.sub t.2.sub).slice = n).map Prod.fst

/-- The teams of a context that have not ended. -/
def State.contextTeams (s : State) (key : Nat) : List Nat :=
  (s.teams.filter fun t => !t.2.ended && s.contextKey (s.sub t.2.sub).slice = key).map Prod.fst

/-- The bytes of control records that CLOCKS counts for a team: the whole record while it stands, and once it is saved what is left of
it in the team-state store (R376, R386). -/
def State.controlCost (s : State) (t : Nat) : Nat :=
  if (s.gang (s.team t).gang).stands || (s.team t).stateHeld then (s.site t).kernel.ctl else 0

/-- CLOCKS of a context (R386). The team-state store is counted by CTL. -/
def State.saveClocks (s : State) (key : Nat) : Nat :=
  let teams := s.contextTeams key
  let cores := (teams.map fun t => (s.team t).core).eraseDups
  (cores.map fun c =>
    let here := teams.filter fun t => (s.team t).core = c
    let parts := fun t => (s.dirtyPieces t).filter fun p => p ≠ .control
    let bytes := (here.map fun t => ((parts t).map (Piece.bytes (s.site t).kernel)).sum).sum
    let ctl := (here.map s.controlCost).sum
    (bytes + 255) / 256 + ctl / 256).foldl max 0

end Sys2Proof.Machine
end

