-- ==== Sys2Proof/Machine/Queues.lean ====
section
/-! DEFINITION. Queues and slices: reading entries, eligibility, selection, dispatch, sub-launches, retirement, and budgets
(R341 to R360). -/

namespace Sys2Proof.Machine

def queueKey (fn queue : Nat) : Nat := fn * 65536 + queue

def State.queue (s : State) (k : Nat) : Queue := Map.at s.queues {} k

def State.changeQueue (s : State) (k : Nat) (g : Queue → Queue) : State := { s with queues := Map.change s.queues k g }

/-! ### RCB nodes (R356, R357, R442) -/

/-- The fields that a re-read takes: BUDGET, PERIOD, MEMQUOTA and PRIOCEIL. -/
def rereadFields (old new : List Byte) : List Byte :=
  old.take 0x10 ++ (new.drop 0x10).take 0x18 ++ (old.drop 0x28).take 4 ++ (new.drop 0x2C).take 1 ++ old.drop 0x2D

/-- A node read through a function's space, whole or only what a re-read takes. Poison is reported once (R442). -/
def State.readNode (s : State) (fn k : Nat) (whole : Bool) : State :=
  let addr := k % 2 ^ 64
  let now := s.ptime
  match s.deviceGet (s.deviceWalker fn) (addr % 2 ^ 56) 256 with
  | (.ok bs, s) =>
    s.changeNode k fun n =>
      { n with fn := fn, addr := addr, readable := true, reRead := now, told := setDrop n.told 0x1000
               fields := if whole || !n.readable then bs else rereadFields n.fields bs }
  | (.error m, s) =>
    let told := (s.node k).told.contains 0x1000
    let s := s.changeNode k fun n => { n with fn := fn, addr := addr, readable := false, fault := m.1, reRead := now }
    if told || m.1 ≠ causePoison then s
    else (s.changeNode k fun n => { n with told := setAdd n.told 0x1000 }).post { kind := 2, cause := m.1, core := (s.part (nodePart k)).root * 160, context := addr, addr := addr }

/-- Every node from one on to the root. -/
def State.readChain (s : State) (fn : Nat) : Nat → Nat → State
  | 0, _ => s
  | fuel + 1, k =>
    let s := s.readNode fn k true
    let n := s.node k
    if !n.readable || n.num 0 8 = 0 then s else s.readChain fn fuel (nodeKey (nodePart k) (n.num 0 8))

/-- A chain can be used: every node was read, the last is a root with every override bit, and no reserved bit is set. -/
def State.chainOk (s : State) (chain : List Nat) : Bool :=
  chain.all (fun k => (s.node k).readable && (s.node k).num 0x0C 4 < 2048) &&
    (chain.getLast?.map fun k => (s.node k).num 0 8 == 0 && (s.node k).num 0x0C 4 == 2047) == some true

/-- The BUDGET and PERIOD of the first node of a chain. -/
def State.nodeBudget (s : State) (tail : List Nat) : Nat := s.effective tail 0 0x10 8
def State.nodePeriod (s : State) (tail : List Nat) : Nat := max 1 (s.effective tail 0 0x18 8)

/-- The nodes of a chain have budget left (R348, R358). -/
def State.budgetLeft (s : State) (chain : List Nat) : Bool :=
  (chainTails chain).all fun tail => (s.node (tail.headD 0)).used < s.nodeBudget tail

/-! ### Completion records (R346, R355) -/

/-- The 16 bytes of a completion record. -/
def completionBytes (status : Byte) (sub : Nat) (detail : Byte) (time : Nat) : List Byte :=
  [status] ++ bytesOfNat 1 sub ++ [detail] ++ List.replicate 5 0 ++ bytesOfNat 8 time

/-- What a slice's front end reports (R346). -/
def State.frontReport (s : State) (n : Nat) (m : Met) : State :=
  let l := s.slice n
  s.post (s.forSlice n { kind := 2, cause := m.1, core := (s.part (s.fn l.fn).part).root * 160, addr := m.2 })

/-- The completion record written; a misaligned place is refused like one without permission. -/
def State.complete (s : State) (n : Nat) (status : Byte) (sub : Nat) (detail : Byte) : State :=
  let l := s.slice n
  match l.cplAddr with
  | none => s
  | some a =>
    if a % 16 ≠ 0 then s.frontReport n (causeAccessViolation, a)
    else
      match s.devicePut (s.deviceWalker l.fn) (a % 2 ^ 56) (completionBytes status sub detail s.ptime) with
      | (.ok _, s) => s.raise l.fn 0
      | (.error m, s) => s.frontReport n (m.1, a)

/-! ### HEAD (R342, R343) -/

/-- The slice needs its entry no more. -/
def Slice.past (l : Slice) : Bool := l.state == .retired || l.state == .refused

/-- Slices that are over leave the front of a queue. -/
def State.passed (s : State) : Nat → List Nat → Nat → List Nat × Nat
  | _, [], moved => ([], moved)
  | 0, l, moved => (l, moved)
  | fuel + 1, n :: rest, moved =>
    if (s.slice n).past then s.passed fuel rest (if (s.slice n).offRing then moved else moved + 1) else (n :: rest, moved)

/-- HEAD advances past the slices that are over, and is written into the QCB. -/
def State.advanceHead (s : State) (k : Nat) : State :=
  let q := s.queue k
  let (left, moved) := s.passed q.slices.length q.slices 0
  let finished := q.slices.filter fun n => !left.contains n
  let head := (q.head + moved) % max 1 q.ringSize
  let s := s.changeQueue k fun q => { q with slices := left, head := head }
  let s := { s with slices := s.slices.filter fun l => !finished.contains l.1 }
  if moved = 0 || !q.bound || s.poisoned (q.qcb + 0x10) 4 then s else s.homeWrite none (q.qcb + 0x10) (bytesOfNat 4 head)

/-! ### Reading slices (R342 to R346) -/

/-- The next entry of a queue may be read. -/
def State.mayRead (s : State) (k : Nat) : Bool :=
  let q := s.queue k
  let mine := q.slices.filter fun n => !(s.slice n).offRing
  let undispatched := mine.any fun n => (s.slice n).state == .queued || (s.slice n).state == .eligible
  q.bound && !q.waits && s.partRuns (s.fn (k / 65536)).part && !(s.fn (k / 65536)).inReset && q.next % max 1 q.ringSize ≠ q.tail % max 1 q.ringSize && !undispatched &&
    (!q.inOrder || mine.all fun n => (s.slice n).past)

/-- A slice that was read stands in its queue. -/
def State.enqueue (s : State) (k n : Nat) (l : Slice) : State :=
  ({ s with slices := Map.put s.slices n l }).changeQueue k fun q =>
    { q with slices := q.slices ++ [n], next := (q.next + 1) % max 1 q.ringSize }

/-- The sub-launches of a slice. -/
def State.addSubs (s : State) (n : Nat) (subs : List Sub) : State :=
  let first := Map.next s.subs
  let s := { s with subs := s.subs ++ subs.zipIdx.map fun u : Sub × Nat => (first + u.2, { u.1 with slice := n }) }
  s.changeSlice n fun l => { l with subs := span first subs.length }

/-- SLICE_READ (R342, R345, R346). -/
def State.readSlice (s : State) (fn queue : Nat) : State :=
  let k := queueKey fn queue
  let q := s.queue k
  let index := q.next % max 1 q.ringSize
  let n := Map.next s.slices
  let at_ := (q.ringBase + 64 * index) % 2 ^ 56
  let w := s.deviceWalker fn
  match s.deviceGet w at_ 64 with
  | (.error m, s) =>
    if m.1 = causePoison then
      (s.enqueue k n { fn := fn, queue := queue, ringIndex := index, state := .refused }).advanceHead k
    else
      (s.post { kind := 2, cause := m.1, core := w.core, addr := at_, queue := k, ring := index }).changeQueue k fun q =>
        { q with waits := true }
  | (.ok bs, s) =>
    let l := sliceOfEntry fn queue index q bs
    let f := s.fn fn
    let (r, s) := (readingSlice w (s.part f.part).dies.length f.counters l q bs).run.run s
    match r with
    | .ok subs =>
      let s := (s.enqueue k n l).addSubs n subs
      if l.kind = .launch then s.readChain fn chainFuel (nodeKey f.part l.rcb) else s
    | .error bad =>
      let s := s.enqueue k n { l with state := .refused }
      let s := match bad.met with
        | some m => s.frontReport n m
        | none => s
      (s.complete n bad.status bad.sub 0).advanceHead k

def execSliceRead (fn queue : Nat) (s : State) : Host.Outcome State Fault Refusal :=
  if s.mayRead (queueKey fn queue) then s.ifRoom (s.readSlice fn queue) else .next s

/-! ### Eligibility and order (R348, R349, R359) -/

/-- The slice counts for its quota class. -/
def Slice.live (l : Slice) : Bool :=
  l.state == .dispatched || l.state == .running || l.state == .held || l.state == .preempted

def State.underCap (s : State) (n : Nat) : Bool :=
  let l := s.slice n
  let part := s.partOfSlice n
  let cap := (s.part part).cap l.qclass
  cap = 0 || l.live || (s.slices.filter fun x => x.2.live && x.2.qclass = l.qclass && s.partOfSlice x.1 = part).length < cap

/-- The effective priority (R349). -/
def State.effPrio (s : State) (n : Nat) : Nat := min (s.slice n).prio (s.leastOnChain (s.sliceChain n) 3 0x2C 1)

/-- R348. -/
def State.eligible (s : State) (n : Nat) : Bool :=
  let l := s.slice n
  let chain := s.sliceChain n
  (s.queue (queueKey l.fn l.queue)).bound && s.partRuns (s.fn l.fn).part && !(s.fn l.fn).inReset && !(s.fn l.fn).stopping && s.rootAddr (s.partOfSlice n) ≠ 0 &&
    (match l.waitCtr with
     | some c => decide (s.counter (counterKey l.fn c) ≤ 0)
     | none => true) &&
    s.underCap n &&
    (l.kind != .launch ||
      (!l.discarded && s.chainOk chain && chain.contains (nodeKey (s.fn l.fn).part (s.queue (queueKey l.fn l.queue)).rcb) &&
        s.budgetLeft chain))

/-- The order of selection: DEADLINE, priority, queue number. -/
def State.rankOf (s : State) (n : Nat) : List Nat := [(s.slice n).deadline, 256 - min 256 (s.effPrio n), queueKey (s.slice n).fn (s.slice n).queue]

/-- Insertion by rank. -/
def State.insertRanked (s : State) (n : Nat) : List Nat → List Nat
  | [] => [n]
  | x :: rest => if lexBefore (s.rankOf x) (s.rankOf n) then x :: s.insertRanked n rest else n :: x :: rest

/-- The slices of a partition that could be dispatched, in order. -/
def State.ranked (s : State) (part : Nat) : List Nat :=
  let cands := (s.slices.filter fun l =>
    (l.2.state == .queued || l.2.state == .eligible || l.2.state == .preempted) && s.partOfSlice l.1 = part && s.eligible l.1).map
      Prod.fst
  cands.foldl (fun l n => s.insertRanked n l) []

/-! ### What a dispatch can start -/

/-- A sub-launch's edges are met (R354). -/
def State.edgesMet (s : State) (n : Nat) (u : Sub) : Bool :=
  (s.slice n).subs.all fun a => !edge (s.sub a) u || (s.sub a).state == .complete

/-- Something of the slice can start now. -/
def State.canStart (s : State) (n : Nat) : Bool :=
  let l := s.slice n
  let part := s.partOfSlice n
  let fresh := l.subs.any fun x =>
    let u := s.sub x
    u.state == .waiting && s.edgesMet n u &&
      match u.kernel with
      | none => true
      | some k => (s.findRun part k k.gangCores (u.copyNeeds k.gangCores)).isSome
  let gangs := s.gangs.any fun g =>
    l.subs.contains g.2.sub && !g.2.killed &&
      !s.lowerWaits g.1 &&
      (if g.2.saved.isSome then s.waitsSaved g.1 && (s.runForSaved g.1).isSome
       else g.2.state == .unplaced && (s.runForNew g.1).isSome)
  l.kind != .launch || fresh || gangs

/-- The gangs of a slice that stand on cores. -/
def State.standingGangs (s : State) (n : Nat) : List Nat :=
  (s.gangs.filter fun g => (s.slice n).subs.contains g.2.sub && g.2.stands).map Prod.fst

/-- The slices that a newcomer may displace (R349). -/
def State.victimsFor (s : State) (n : Nat) : List Nat :=
  let part := s.partOfSlice n
  (s.slices.filter fun v =>
    (v.2.state == .running || v.2.state == .held) && s.partOfSlice v.1 = part && s.effPrio v.1 ≤ s.effPrio n &&
      (s.slice n).deadline < v.2.deadline && !(s.standingGangs v.1).isEmpty).map Prod.fst

/-- The state without the given gangs on their cores. -/
def State.withoutGangs (s : State) (gs : List Nat) : State :=
  { s with
    gangs := s.gangs.map fun g : Nat × Gang => if gs.contains g.1 then (g.1, { g.2 with state := .preempted }) else g
    copies := s.copies.map fun c : Nat × Copy =>
      if gs.contains (s.team c.2.team).gang then (c.1, { c.2 with saved := true }) else c }

/-- A newcomer cannot start, and could without all that it may displace. -/
def State.mayDisplace (s : State) (n : Nat) : Bool :=
  !s.canStart n && (s.withoutGangs ((s.victimsFor n).flatMap s.standingGangs)).canStart n

/-- A pre-emption of a gang of the partition is under way. -/
def State.preempting (s : State) (part : Nat) : Bool :=
  s.gangs.any fun g => (g.2.requested || g.2.draining.isSome) && s.partOfSlice (s.sub g.2.sub).slice = part

/-- Displacement goes one victim at a time, from the latest DEADLINE on, until the newcomer can start. -/
def State.displaced (s : State) (n : Nat) : List Instr :=
  if s.preempting (s.partOfSlice n) || !s.mayDisplace n then []
  else
    match greatestBy (fun v => (s.slice v).deadline) (s.victimsFor n) with
    | none => []
    | some v => (s.standingGangs v).map Instr.preemptRequest

/-- A pre-empted slice stands back while one that has displaced it, or may, still waits for its place (R349). -/
def State.standsBack (s : State) (ranked : List Nat) (v : Nat) : Bool :=
  (s.slice v).state == .preempted &&
    ranked.any fun n =>
      s.effPrio v ≤ s.effPrio n && (s.slice n).deadline < (s.slice v).deadline && s.mayDisplace n

/-! ### Lookahead (R371, R374) -/

/-- The slices of a partition that are in the lookahead: the first LOOK eligible ones that are not yet dispatched. -/
def State.lookedAt (s : State) (part : Nat) (ranked : List Nat) : List Nat :=
  (ranked.filter fun n => (s.slice n).state != .preempted).take (s.part part).look

/-- A slice that waits for dispatch, as the selector leaves it: ELIGIBLE or QUEUED (R350), and with 1 ms for its reservation
once it has left the lookahead. -/
def State.selectMark (s : State) (part : Nat) (ranked first : List Nat) (n : Nat) (l : Slice) : Slice :=
  if s.partOfSlice n ≠ part || !(l.state == .queued || l.state == .eligible) then l
  else
    { l with
      state := if ranked.contains n then .eligible else .queued
      stagedUntil :=
        if first.contains n then none
        else if l.stagedUntil.isNone && l.subs.any (fun u => !(s.sub u).staging.isEmpty) then some (s.clock + clocksOfNs 1000000)
        else l.stagedUntil }

/-- The slices as the selector leaves them. -/
def State.marked (s : State) (part : Nat) : Map Slice :=
  let ranked := s.ranked part
  let first := s.lookedAt part ranked
  s.slices.map fun l => (l.1, s.selectMark part ranked first l.1 l.2)

/-- The candidates of L2 staging, as slices (R371). -/
def State.stagingSlices (s : State) (part : Nat) : List Nat :=
  s.lookedAt part (s.ranked part) ++ (s.slices.filter fun l =>
    (l.2.state == .dispatched || l.2.state == .running || l.2.state == .held) && s.partOfSlice l.1 = part).map Prod.fst

/-- The L2 records of a sub-launch are staged: it is a candidate's, and has not completed. -/
def State.stages (s : State) (n u : Nat) : Bool :=
  (s.slice n).subs.contains u && (s.sub u).state != .complete && (s.stagingSlices (s.partOfSlice n)).contains n

/-- L2_STAGE_FILL (R371): the record whose turn it is, is admitted or refused, or the next page of an admitted one is
filled. -/
def execL2StageFill (n u record : Nat) (s : State) : Host.Outcome State Fault Refusal :=
  .next (if !s.stages n u then s
    else if (s.sub u).nextSet = some record then s.admitSet u record
    else if (s.sub u).nextFill = some record then s.fillSet u record
    else s)

/-! ### Selection and dispatch (R348, R350) -/

/-- The dispatch of a slice, by its kind. -/
def Slice.event (l : Slice) : Instr :=
  match l.kind with
  | .launch => .sliceDispatch l.fn l.queue
  | .ctrset => .ctrset l.fn l.queue
  | .nop => .nopSlice l.fn l.queue

/-- What the selector brings about: in order, the first slice that can start is dispatched, or the first that may displace
others does so. One that can do neither does not block those after it. -/
def State.sliceChoice (s : State) (part : Nat) : List Instr :=
  let ranked := s.ranked part
  ((ranked.map fun n =>
    if s.canStart n then (if s.standsBack ranked n then [] else [(s.slice n).event]) else s.displaced n).find? fun l =>
      !l.isEmpty).getD []

/-- SLICE_SELECT: eligibility is decided afresh (R350), and the selection made. -/
def State.selectSlice (s : State) (part : Nat) : State :=
  { s with slices := s.marked part, agenda := s.agenda ++ s.sliceChoice part }

def execSliceSelect (part : Nat) (s : State) : Host.Outcome State Fault Refusal := .next (s.selectSlice part)

/-- The sub-launches whose edges are met start: an engine job runs, a kernel's first gang waits for a run, its .x window
zeroed if asked (R285, R351). -/
def State.startSubs (s : State) (n : Nat) : State :=
  if (s.slice n).failure.isSome then s
  else
    (s.slice n).subs.foldl
      (fun (s : State) x =>
        let u := s.sub x
        if u.state != .waiting || !s.edgesMet n u then s
        else
          let s := s.changeSub x fun u => { u with state := .started }
          let l := s.slice n
          match u.kernel with
          | none =>
            let k := Map.next s.jobs
            let j : Job := { fn := l.fn, slice := n, sub := some x, card := u.card, cardAddr := u.cardAddr }
            ({ s with jobs := Map.put s.jobs k j }).changeSub x fun u => { u with job := some k }
          | some _ =>
            let s := if u.xzero then s.zeroOnChip (onChip .chip (s.partOfSlice n) + u.xbase) u.xsize else s
            s.nextGang x) s

/-- Another slice of the same context has been launched and is not over: the context has its registers. -/
def State.contextRuns (s : State) (n : Nat) : Bool :=
  s.slices.any fun l => l.1 ≠ n && l.2.setUp && !l.2.past && s.contextKey l.1 = s.contextKey n

/-- A launch: the context's registers take their values at launch from the RCB (R28, R32, R33, R356), unless another slice
of the context has been launched before. -/
def State.setUp (s : State) (n : Nat) : State :=
  if (s.slice n).setUp then s
  else
    let chain := s.sliceChain n
    let flags := s.effective chain 5 0x38 8
    let fair := s.effective chain 6 0x40 4
    let s := if s.contextRuns n then s else
      s.changeCtx n fun _ =>
        { noProg := bit flags 0, trapEn := bit flags 1, ckptEn := bit flags 2, fairTimer := max 256 (min 65536 fair)
          restoreCount := (s.node (s.contextKey n)).num 0x60 8 }
    s.changeSlice n fun l => { l with setUp := true }

/-- A slice dispatched, for the first time or after a pre-emption. -/
def State.dispatch (s : State) (n : Nat) : State :=
  let l := s.slice n
  let s := (s.readChain l.fn chainFuel (nodeKey (s.partOfSlice n) l.rcb)).setUp n
  let s := s.changeSlice n fun l => { l with state := .dispatched, stagedUntil := none, told := false }
  let s := s.startSubs n
  let engines := (s.slice n).subs.any fun x => ((s.sub x).job.map fun _ => (s.sub x).state == .started) == some true
  s.changeSlice n fun l => { l with state := if engines then .running else l.state }

/-- The slice of a queue that a dispatch takes: the first in order that is eligible. -/
def State.picked (s : State) (k : Nat) (kind : SliceKind) : Option Nat :=
  let ranked := s.ranked (s.fn (k / 65536)).part
  ranked.find? fun n =>
    (s.queue k).slices.contains n && (s.slice n).kind == kind && s.canStart n && !s.standsBack ranked n

/-- SLICE_DISPATCH (R343, R348, R350). -/
def execSliceDispatch (fn queue : Nat) (s : State) : Host.Outcome State Fault Refusal :=
  match s.picked (queueKey fn queue) .launch with
  | some n => s.ifRoom (s.dispatch n)
  | none => .next s

/-! ### Retirement (R355) -/

/-- A slice over: its sub-launches, gangs, teams and what remains of its failed copies go. -/
def State.forget (s : State) (n : Nat) : State :=
  let subs := (s.slice n).subs
  let gangs := (s.gangs.filter fun g => subs.contains g.2.sub).map Prod.fst
  { s with
    subs := s.subs.filter fun u => !subs.contains u.1
    gangs := s.gangs.filter fun g => !gangs.contains g.1
    teams := s.teams.filter fun t => !gangs.contains t.2.gang
    jobs := s.jobs.filter fun j => j.2.slice ≠ n }

/-- USED of every node of a chain written back (R356). -/
def State.writeUsed (s : State) (chain : List Nat) : State :=
  chain.foldl (fun (s : State) k => s.writeField k 0x68 8 (s.node k).used) s

/-- A slice retires: its counter, its completion record, which an FLR of this clock would discard (R415), USED, its entry. -/
def State.retireSlice (s : State) (n : Nat) (status : Byte) (sub : Nat) (detail : Byte) : State :=
  let l := s.slice n
  let s := match l.kind, l.sigCtr with
    | .launch, some c => s.decrement (counterKey l.fn c)
    | _, _ => s
  let s := s.complete n status sub detail
  let s := { s with overNow := s.overNow ++ (l.cplAddr.map fun a => (l.fn, a)).toList }
  let s := if l.kind == .launch then s.writeUsed (s.sliceChain n) else s
  let s := l.subs.foldl (fun (s : State) u => s.endStaging u) s
  let s := (s.changeSlice n fun l => { l with state := .retired, snapshot := [], snapPages := [] }).forget n
  s.advanceHead (queueKey l.fn l.queue)

/-- CTRSET (R344, R347). -/
def execCtrset (fn queue : Nat) (s : State) : Host.Outcome State Fault Refusal :=
  match s.picked (queueKey fn queue) .ctrset with
  | some n =>
    let s' := s.setCounter (counterKey fn ((s.slice n).sigCtr.getD 0)) (s.slice n).ctrValue.toInt
    s.ifRoom (s'.retireSlice n doneStatus 0xFF 0)
  | none => .next s

/-- NOP_SLICE (R344). -/
def execNopSlice (fn queue : Nat) (s : State) : Host.Outcome State Fault Refusal :=
  match s.picked (queueKey fn queue) .nop with
  | some n => s.ifRoom (s.retireSlice n doneStatus 0xFF 0)
  | none => .next s

/-- A failure of a slice in a clock: the first in time decides, and of failures in one clock that of the lower sub-launch
(R355). -/
def Slice.fail (l : Slice) (now : Nat) (status : Byte) (sub : Nat) (detail : Byte) : Slice :=
  match l.failure with
  | none => { l with failure := some (status, sub, detail), failedAt := now }
  | some old => if l.failedAt = now && sub < old.2.1 then { l with failure := some (status, sub, detail) } else l

/-- A failure of a slice. What has not started never starts (R355). -/
def State.failSlice (s : State) (n : Nat) (status : Byte) (sub : Nat) (detail : Byte) : State :=
  let now := s.clock
  let s := s.changeSlice n fun l => l.fail now status sub detail
  (s.slice n).subs.foldl
    (fun (s : State) u => s.changeSub u fun u => { u with state := if u.state == .waiting then .neverStarted else u.state }) s

/-- The bundle retires when nothing of it remains running (R355). -/
def State.retireBundle (s : State) (n : Nat) : State :=
  let l := s.slice n
  let running := l.subs.any fun u => (s.sub u).state == .started
  let waiting := l.subs.any fun u => (s.sub u).state == .waiting
  if running || waiting || l.past then s
  else
    match l.failure with
    | some (status, sub, detail) => s.retireSlice n status sub detail
    | none => s.retireSlice n doneStatus 0xFF 0

/-- The side logs of a sub-launch's teams have drained. -/
def State.drained (s : State) (u : Nat) : Bool :=
  !s.cores.any fun c => c.2.sideLog.any fun e => (s.team e.team).sub = u

/-- A sub-launch can complete: its gangs have all retired, or those there are once it has been killed; or its job has ended (R321,
R355). -/
def State.subDone (s : State) (n u : Nat) : Bool :=
  let x := s.sub u
  x.state == .started &&
    match x.kernel with
    | none => ((x.job.bind fun k => Map.find s.jobs k).map fun j => j.ended) != some false
    | some _ =>
      s.drained u && (s.gangs.all fun g : Nat × Gang => g.2.sub != u || g.2.state == GangState.retired) &&
        (x.gangs ≤ x.gangsDone || x.killed)

/-- The lines that the teams of a sub-launch dirtied, and the release tables of their cores, written back (R321). -/
def State.flushSub (s : State) (u : Nat) : State :=
  let teams := (s.teams.filter fun t => t.2.sub = u).map Prod.fst
  let cores := (teams.map fun t => (s.team t).core).eraseDups
  cores.foldl
    (fun (s : State) c =>
      let s := (s.core c).releases.foldl (fun (s : State) e => s.flushRelease c e) s
      s.writeBackWhere c fun l => l.writers.any teams.contains) s

/-- SUBLAUNCH_COMPLETE (R321, R354, R355). -/
def execSublaunchComplete (n u : Nat) (s : State) : Host.Outcome State Fault Refusal :=
  if (s.slice n).subs.contains u && s.subDone n u then
    let x := s.sub u
    let status := ((x.job.bind fun k => Map.find s.jobs k).map fun j => j.status).getD 1
    let t := (s.flushSub u).changeSub u fun u => { u with state := .complete }
    let t := t.endStaging u
    let t := if x.kernel.isNone && status != 1 then t.failSlice n engineFault x.index status else t
    s.ifRoom ((t.startSubs n).retireBundle n)
  else .next s

/-! ### Budgets (R335, R358, R360) -/

/-- The gangs of a slice held at instruction boundaries and BUDGET reported. -/
def State.holdSlice (s : State) (n : Nat) : State :=
  let core := ((s.standingGangs n).head?.map fun g => (s.gang g).cores.headD 0).getD 0
  (s.post (s.forSlice n { kind := 2, cause := causeBudget, core := core })).holdGangs n

/-- The slice's budget is spent while gangs of it stand, and the scheduler has not been told. A slice held by a yield has
other gangs that run on. -/
def State.exhausted (s : State) (n : Nat) : Bool :=
  let l := s.slice n
  (l.state == .running || l.state == .held) && l.budget == 0 && !l.told && !(s.standingGangs n).isEmpty

/-- BUDGET_EXHAUSTED. -/
def execBudgetExhausted (n : Nat) (s : State) : Host.Outcome State Fault Refusal :=
  if s.exhausted n then s.ifRoom (s.holdSlice n) else .next s

/-- The chain from a node on. -/
def State.tailOf (s : State) (k : Nat) : List Nat := s.chain chainFuel k

/-- A node's USED has reached its BUDGET as it was last read, and nothing has been done about it in this period. -/
def State.reached (s : State) (k : Nat) : Bool :=
  let n := s.node k
  !n.fields.isEmpty && !n.spent && s.nodeBudget (s.tailOf k) ≤ n.used

/-- The slices on a node's chain of which a gang may still run. -/
def State.runningUnder (s : State) (k : Nat) : List Nat :=
  (s.slices.filter fun l =>
    (l.2.state == .running || l.2.state == .held) && (s.sliceChain l.1).contains k &&
      (s.standingGangs l.1).any fun g => !(s.gang g).stopped).map Prod.fst

/-- NODE_BUDGET_REACHED: every running slice on the node's chain is held. -/
def execNodeBudgetReached (k : Nat) (s : State) : Host.Outcome State Fault Refusal :=
  if s.reached k then
    s.ifRoom (((s.runningUnder k).foldl (fun (s : State) l => s.holdSlice l) s).changeNode k fun n => { n with spent := true })
  else .next s

/-- PTIME in the clock before this one. -/
def State.ptimeBefore (s : State) : Nat := s.ptimeBase + (s.clock - 1) * 50 / 47

/-- PTIME has come to a multiple of a node's PERIOD, as it was last read, in this clock, and the node has not renewed in it. -/
def State.renews (s : State) (k : Nat) : Bool :=
  let period := s.nodePeriod (s.tailOf k)
  !(s.node k).fields.isEmpty && s.ptimeBefore / period != s.ptime / period && (s.node k).renewedAt != s.clock

/-- PERIOD_RENEW: USED returns to 0 at each multiple of PERIOD in PTIME, and 0 is written. Where the write must report and finds no
room, it is made later (R326). -/
def execPeriodRenew (k : Nat) (s : State) : Host.Outcome State Fault Refusal :=
  if s.renews k then
    let now := s.clock
    let t := s.changeNode k fun n => { n with used := 0, spent := false, renewedAt := now }
    let written := t.writeField k 0x68 8 0
    .next (if written.roomFor then written else { t with waiting := t.waiting ++ [.rcbFieldWriteback k] })
  else .next s

/-- The save cost of the context of a node brought up to date (R36, R386). -/
def State.updateCost (s : State) (k : Nat) : State :=
  let cost := min (s.saveClocks k) (2 ^ 40 - 1)
  s.changeNode k fun x => { x with ctx := { x.ctx with saveCost := cost } }

/-- RCB_FIELD_WRITEBACK (R36, R356): SAVECOST is brought up to date, and the copies of SAVECOST, RESTORECOUNT, USED and
MEMUSED are written into a node that has been read. -/
def execRcbFieldWriteback (k : Nat) (s : State) : Host.Outcome State Fault Refusal :=
  let t := s.updateCost k
  let n := t.node k
  let cost := n.ctx.saveCost + (if n.ctx.noIndep then 2 ^ 63 else 0)
  let written :=
    if n.fields.isEmpty then t
    else
      (((t.writeField k 0x58 8 cost).writeField k 0x60 8 n.ctx.restoreCount).writeField k 0x68 8 n.used).writeField k 0x88 8 n.memUsed
  let now := s.clock
  s.ifRoom (written.changeNode k fun n => { n with wrote := now })

/-- The nodes above one, so far as the device has not read them. -/
def State.readAbove (s : State) (fn : Nat) : Nat → Nat → State
  | 0, _ => s
  | fuel + 1, k =>
    let n := s.node k
    if !n.readable || n.num 0 8 = 0 then s
    else
      let up := nodeKey (nodePart k) (n.num 0 8)
      if (Map.find s.nodes up).isSome then s else (s.readNode fn up true).readAbove fn fuel up

/-- RCB_REREAD (R356): once in each millisecond. A node that can be read again leads on to those above it. -/
def execRcbReread (k : Nat) (s : State) : Host.Outcome State Fault Refusal :=
  s.ifRoom (if (s.node k).reRead + 1000000 ≤ s.ptime then
    (s.readNode (s.node k).fn k false).readAbove (s.node k).fn chainFuel k else s)

end Sys2Proof.Machine
end

