-- ==== Sys2Proof/Machine/Commands.lean ====
section
/-! DEFINITION. The translation queue and its commands (R396 to R399), and the movement of pages between modules (R400 to
R403). -/

namespace Sys2Proof.Machine

/-! ### Registers of a function (R408) -/

def regTqBase : Nat := 0x40
def regTqSize : Nat := 0x48
def regTqHead : Nat := 0x4C
def regTqTail : Nat := 0x50
def regEvBase : Nat := 0x60
def regEvSize : Nat := 0x68
def regEvHead : Nat := 0x6C
def regEvTail : Nat := 0x70
def regMigParam : Nat := 0x3808

/-- The reset value of a register of a function. -/
def fnReset (off : Nat) : Word64 := if off = regMigParam then BitVec.ofNat 64 (100000 * 2 ^ 32 + 1000) else 0

def Fn.reg (f : Fn) (off : Nat) : Nat := (Map.at f.regs (fnReset off) off).toNat

def Fn.setReg (f : Fn) (off x : Nat) : Fn := { f with regs := Map.put f.regs off (BitVec.ofNat 64 x) }

/-! ### Cached translations removed (R397) -/

/-- Everything that was cached of some translations goes from a core: the entries, the lines of their pages with what they hold
dirty, and the instruction lines fetched through them (R397). -/
def State.dropFrom (s : State) (c : Nat) (gone : List Translation) : State :=
  let lines := ((s.core c).l1.filter fun l =>
    gone.any fun t => !t.remote && t.frame ≤ l.1 * 128 && l.1 * 128 < t.frame + t.size).map Prod.fst
  let s := lines.foldl (fun (s : State) ln => s.evict c ln) s
  let fetched := fun (key : Nat) => gone.any fun t =>
    key / 2 ^ 60 = t.asid && decide (key % 2 ^ 60 < t.page + t.size) && decide (t.page < key % 2 ^ 60 + 192)
  s.changeCore c fun k =>
    { k with tlb := k.tlb.filter (fun t => !gone.contains t), icache := k.icache.filter fun l => !fetched l.1 }

/-- The translations of some cores that meet a condition, removed from their TLBs and from the last-page registers of the
threads there. Walks and accesses in flight do not outlast a step. -/
def State.dropWhere (s : State) (cores : Nat → Bool) (bad : Translation → Bool) : State :=
  let mine := fun w : Nat × Weave => cores (s.team (teamOfWeave w.1)).core
  let cached := (s.cores.filter fun c => cores c.1).flatMap fun c => c.2.tlb.filter bad
  let last := (s.weaves.filter mine).flatMap fun w => (w.2.lastPage.map Prod.snd).filter bad
  let gone := (cached ++ last).eraseDups
  let s := ((s.cores.filter fun c => cores c.1).map Prod.fst).foldl (fun (s : State) c => s.dropFrom c gone) s
  { s with weaves := s.weaves.map fun w : Nat × Weave =>
      if mine w then (w.1, { w.2 with lastPage := w.2.lastPage.filter fun x => !bad x.2 }) else w }

/-- The cores of a partition. -/
def State.coresOf (s : State) (p : Nat) : Nat → Bool := fun c => s.partOfDie (dieOfCore c) = p

/-! ### The ring (R396) -/

/-- Physical bytes read and written at their home, where they are stored in the module or in CXL memory. -/
def stored (pa : Nat) : Bool :=
  match paKind pa with
  | .hbm | .cxl _ => true
  | _ => false

def State.physRead (s : State) (pa n : Nat) : List Byte × State := if stored pa then s.homeRead none pa n else s.outsideRead n

/-- A write to the PCI Express region is a posted write through its window; where none is open it goes nowhere (R416). -/
def State.physWrite (s : State) (pa : Nat) (bytes : List Byte) : State :=
  match paKind pa with
  | .hbm | .cxl _ => s.homeWrite none pa bytes
  | .pcie port =>
    if s.windowOpen port pa bytes.length then
      let (port, bus) := s.busAddress pa
      { s with posted := s.posted ++ [(port, bus, bytes)] }
    else s
  | .frameTable | .none_ => s

/-- A command (R396). -/
structure Command where
  op : Nat
  level : Nat
  asid : Nat
  base : Nat
  length : Nat
  cpl : Nat
  /-- its reserved bytes are zero and its fields aligned -/
  ok : Bool

def commandOf (bs : List Byte) : Command :=
  let n := fun off size => natOfBytes ((bs.drop off).take size)
  { op := n 0 1, level := n 1 1, asid := n 2 2, base := n 8 8, length := n 0x10 8, cpl := n 0x18 8
    ok := n 4 4 == 0 && n 8 8 % 65536 == 0 && n 0x10 8 % 65536 == 0 && n 0x18 8 % 8 == 0 }

/-- The command at the head of a function's ring, if the ring is not empty. While the function is in reset only one that has been
started goes on (R414). -/
def State.command (s : State) (fn : Nat) : Option (Command × State) :=
  let f := s.fn fn
  let size := f.reg regTqSize
  if f.inReset && !f.scrubbing || size = 0 || f.reg regTqHead = f.reg regTqTail then none
  else
    let (bs, s) := s.physRead (f.reg regTqBase + 32 * f.reg regTqHead) 32
    some (commandOf bs, s)

def doneCommand : Nat := 1
def refusedCommand : Nat := 2
def poolFull : Nat := 3

/-- A command is over: its completion word is written, for which vector 2 is raised, and the head advances (R396, R407). A
misaligned CPL has no word. -/
def State.commandDone (s : State) (fn : Nat) (c : Command) (status : Nat) : State :=
  let f := s.fn fn
  let head := f.reg regTqHead
  let s := if c.cpl % 8 = 0 then (s.physWrite c.cpl (bytesOfNat 8 (status + head * 2 ^ 32))).raise fn 2 else s
  s.changeFn fn fun f => f.setReg regTqHead ((head + 1) % max 1 (f.reg regTqSize))

/-- The functions whose spaces a function may name: its own, and for the physical function any of its partition. -/
def State.mayName (s : State) (fn asid : Nat) : Bool :=
  asid = fn || (fn = 0 && asid < 128 && (s.fn asid).part = (s.fn 0).part)

/-! ### INV (R397) -/

/-- A page meets a range; LENGTH 0 is the whole space. -/
def Translation.meets (t : Translation) (base length : Nat) : Bool :=
  length = 0 || (t.page < base + length && base < t.page + t.size)

/-- The size of leaves that LEVEL names. -/
def levelSize (level : Nat) : Option Nat :=
  if level = 1 then some 65536 else if level = 2 then some (2 ^ 21) else if level = 3 then some (2 ^ 30) else none

/-- INV. With LEVEL 1 to 3 entries of the other sizes may remain: whether they do is a free choice. No walk-cache entries
stand, so LEVEL 4 removes no more than LEVEL 0. -/
def State.invalidate (s : State) (c : Command) : State :=
  let (x, s) := s.free
  let keep := x.getLsbD 0
  let right := fun t : Translation =>
    match levelSize c.level with
    | some size => t.size = size || !keep
    | none => true
  (s.dropWhere (s.coresOf (s.fn c.asid).part) fun t => t.asid = c.asid && t.meets c.base c.length && right t).changeFn c.asid
    fun f => { f with unmoved := [] }

/-- TQ_INV. -/
def execTqInv (fn : Nat) (s : State) : Host.Outcome State Fault Refusal :=
  match s.command fn with
  | some (c, t) =>
    .next (if c.op ≠ 1 then s
      else if !c.ok || 4 < c.level || !s.mayName fn c.asid then t.commandDone fn c refusedCommand
      else (t.invalidate c).commandDone fn c doneCommand)
  | none => .next s

/-! ### SCRUB (R398) -/

/-- The frames of a range. -/
def Command.frames (c : Command) : List Nat := span (c.base / 65536) (c.length / 65536)

/-- A frame may be freed by a function. -/
def State.mayFree (s : State) (fn k : Nat) : Bool :=
  let f := s.frame k
  let inHbm := k * 65536 + 65536 ≤ frameTableBase
  inHbm && s.ownsFrame fn k && (fn = 0 || f.tenant == (s.fn fn).tenant) && f.frameState == 0

/-- A frame is held by a cut until it has been streamed (R427). -/
def State.heldFrame (s : State) (k : Nat) : Bool :=
  s.ckpts.any fun c =>
    match c.2.stream with
    | some x => !x.failed && x.left.any fun r =>
      match r.unit with
      | .page _ f => f = k
      | _ => false
    | none => false

/-- The frame counts no more for the chain of the context that claimed it (R359). -/
def State.uncharge (s : State) (f : Frame) : State :=
  if f.ownRcb = 0 then s
  else
    let chain := s.chain chainFuel (nodeKey (s.fn f.ownFn).part f.ownRcb)
    let s := chain.foldl (fun (s : State) k => s.changeNode k fun n => { n with memUsed := n.memUsed - 65536 }) s
    { s with agenda := s.agenda ++ chain.map Instr.rcbFieldWriteback }

/-- One frame scrubbed: steps 1 to 5. -/
def State.scrubFrame (s : State) (k : Nat) : State :=
  let f := s.frame k
  let gen := f.sgen + 1
  let low := k * 65536
  let s := { s with frames := Map.put s.frames k { f with fgen := gen, frameState := 2 } }
  let s := s.dropWhere (fun _ => true) fun t => !t.remote && t.frame ≤ low && low < t.frame + t.size
  let s := { s with
    mem := Memory.zero s.mem low 65536
    poison := s.poison.filter fun ln => !(decide (low ≤ ln * 128) && decide (ln * 128 < low + 65536)) }
  let s := s.uncharge f
  let done := { f with fgen := gen, sgen := gen, tenant := 0, frameState := 0, migv := false, ownRcb := 0 }
  { s with frames := Map.put s.frames k done }

/-- Every frame of a range freed in one step. -/
def State.freeFrames (s : State) (frames : List Nat) : State :=
  { s with frames := frames.foldl (fun (m : Map Frame) k => Map.put m k { Map.at m ({} : Frame) k with frameState := 1 }) s.frames }

/-- The freed frames scrubbed in address order, up to one that a cut holds (R427): none is left, or the command waits. -/
def State.scrubOn (s : State) : List Nat → Bool × State
  | [] => (true, s)
  | k :: rest =>
    if (s.frame k).frameState ≠ 1 then s.scrubOn rest
    else if s.heldFrame k then (false, s)
    else (s.scrubFrame k).scrubOn rest

/-- TQ_SCRUB. -/
def execTqScrub (fn : Nat) (s : State) : Host.Outcome State Fault Refusal :=
  match s.command fn with
  | some (c, t) =>
    .next (if c.op ≠ 2 then s
      else
        let running := (s.fn fn).scrubbing
        if !running && (!c.ok || c.level ≠ 0 || !s.mayName fn c.asid || !(c.frames.all fun k => s.mayFree fn k)) then
          t.commandDone fn c refusedCommand
        else
          let t := if running then t else (t.freeFrames c.frames).changeFn fn fun f => { f with scrubbing := true }
          match t.scrubOn c.frames with
          | (true, t) => (t.changeFn fn fun f => { f with scrubbing := false }).commandDone fn c doneCommand
          | (false, t) => t)
  | none => .next s

/-! ### POOLADD (R399) -/

/-- The frames that a pool takes, up to 4,096. -/
def State.poolTakes (s : State) (fn : Nat) (pool : List Nat) (full : Bool) : List Nat → List Nat × Bool
  | [] => (pool, full)
  | k :: rest =>
    let t := (s.frame k).tenant
    let others := t != 0 && t != (s.fn fn).tenant || !s.ownsFrame fn k
    let pooled := pool.contains k || s.fns.any fun f => f.2.pool.contains k
    if others || pooled then s.poolTakes fn pool full rest
    else if 4096 ≤ pool.length then s.poolTakes fn pool true rest
    else s.poolTakes fn (pool ++ [k]) full rest

/-- TQ_POOLADD. -/
def execTqPooladd (fn : Nat) (s : State) : Host.Outcome State Fault Refusal :=
  match s.command fn with
  | some (c, t) =>
    .next (if c.op ≠ 3 then
        if c.op = 0 || 3 < c.op then t.commandDone fn c refusedCommand else s
      else if !c.ok || c.level ≠ 0 || !s.mayName fn c.asid then t.commandDone fn c refusedCommand
      else
        let (pool, full) := s.poolTakes fn (s.fn fn).pool false (c.frames.filter fun k => k * 65536 + 65536 ≤ frameTableBase)
        (t.changeFn fn fun f => { f with pool := pool }).commandDone fn c (if full then poolFull else doneCommand))
  | none => .next s

/-! ### Event records (R403) -/

/-- A record in the translation event ring of a function, if the ring is enabled and has room, and vector 3. -/
def State.pageEvent (s : State) (fn kind home moves va : Nat) : State :=
  let f := s.fn fn
  let size := f.reg regEvSize
  let tail := f.reg regEvTail
  if size = 0 || (tail + 1) % size = f.reg regEvHead then s
  else
    let record := bytesOfNat 2 kind ++ bytesOfNat 2 home ++ bytesOfNat 4 moves ++ bytesOfNat 8 va ++ bytesOfNat 8 s.ptime ++ bytesOfNat 8 0
    ((s.physWrite (f.reg regEvBase + 32 * tail) record).changeFn fn fun f => f.setReg regEvTail ((tail + 1) % size)).raise fn 3

/-! ### Page moves (R400 to R402) -/

/-- A field of a leaf changed: one read-modify-write at its home L2 (R394). -/
def State.changeLeaf (s : State) (ea high low x : Nat) : State :=
  let (bs, s) := s.homeRead none ea 8
  let e := natOfBytes bs
  s.homeWrite none ea (bytesOfNat 8 (e - bits e high low * 2 ^ low + x % 2 ^ (high - low + 1) * 2 ^ low))

/-- PTIME in µs modulo 2³². -/
def State.micros (s : State) : Nat := s.ptime / 1000 % 2 ^ 32

/-- The window and the hold in µs. -/
def State.moveWindow (s : State) : Nat := (s.fn 0).reg regMigParam % 2 ^ 32
def State.moveHold (s : State) : Nat := (s.fn 0).reg regMigParam / 2 ^ 32

/-- MOVES and WINSTART after a further move. -/
def State.countMove (s : State) (m : PageMove) : Nat × Nat :=
  if s.moveWindow < (s.micros + 2 ^ 32 - m.winStart.toNat) % 2 ^ 32 then (1, s.micros) else (m.moves.toNat + 1, m.winStart.toNat)

/-- The leaf of a page after a move that made its count `moves`; the fourth move settles it. -/
def State.movedLeaf (s : State) (ea fn va home moves : Nat) : State :=
  let s := s.changeLeaf ea 62 59 moves
  if moves = 4 then (s.changeLeaf ea 58 58 1).pageEvent fn 1 home moves va else s

/-- The page comes here (steps 3 and 4): a frame of the pool takes its bytes. -/
def State.moveIn (s : State) (m : PageMove) (ea : Nat) : State :=
  let pool := s.poolFrames m.fn
  let (x, s) := s.free
  let k := pool.getD (x.toNat % max 1 pool.length) 0
  let (moves, winStart) := s.countMove m
  let s := s.dropWhere (fun _ => true) fun t => t.asid = m.fn && t.page = m.va
  let s := (s.homeWrite none (k * 65536) (m.data.take 65536)).clearPoison (k * 65536) 65536
  let f : Frame :=
    { s.frame k with
      ownRcb := 0, ownFn := m.fn, va := m.va, tenant := (s.fn m.fn).tenant, frameState := 0, migv := true, pteAddr := ea
      winStart := BitVec.ofNat 32 winStart
      settleEnd := if moves = 4 then BitVec.ofNat 32 (s.micros + s.moveHold) else m.settleEnd
      settleAt := if moves = 4 then s.ptime / 1000 + s.moveHold else 0 }
  let s := ({ s with frames := Map.put s.frames k f }).changeFn m.fn fun g => { g with pool := setDrop g.pool k }
  let s := (s.changeLeaf ea 57 57 0).changeLeaf ea 51 16 k
  (s.movedLeaf ea m.fn m.va s.module_ moves).track m.fn m.va

/-- A vacated frame goes to the pool of the function that owns it, which holds at most 4,096 (R399, R401). -/
def Fn.poolFrame (f : Fn) (k : Nat) : Fn := if 4096 ≤ f.pool.length then f else { f with pool := setAdd f.pool k }

/-- The page leaves (steps 1 to 3): it is drained, it is sent with the MOVES of its leaf and the WINSTART and SETTLEEND of its frame
here, and its frame goes to a pool (R401, R402). -/
def State.moveOut (s : State) (m : PageMove) (ea k : Nat) : State :=
  let f := s.frame k
  let m := { m with moves := BitVec.ofNat 4 (bits (Memory.readNat s.mem ea 8) 62 59), winStart := f.winStart, settleEnd := f.settleEnd }
  let s := s.dropWhere (fun _ => true) fun t => !t.remote && t.frame ≤ k * 65536 && k * 65536 < t.frame + t.size
  let (bs, s) := s.homeRead none (k * 65536) 65536
  let remote := m.peer.toNat * 2 ^ 26 + m.peerFrame.toNat
  let (moves, _) := s.countMove m
  let page : PageMove := { m with inward := true, peer := BitVec.ofNat 10 s.module_, peerFrame := BitVec.ofNat 26 k, data := bs }
  let s := { s with moved := s.moved ++ [(m.peer.toNat, page)], frames := Map.put s.frames k { f with migv := false } }
  let s := s.changeFn f.ownFn fun f => f.poolFrame k
  let s := (s.changeLeaf ea 57 57 1).changeLeaf ea 51 16 remote
  (s.movedLeaf ea m.fn m.va m.peer.toNat moves).track m.fn m.va

/-- A module in recovery: it is not powered, or the partition asked is halted or is being reset (R418, R451). -/
def State.inRecovery (s : State) (p : Nat) : Bool := !s.awake || !s.partRuns p

/-- PAGE_MOVE. Inward data that is no page is the home's answer that the page does not move (R400), and this module gives the same
answer; that of a module in recovery is none (R418). A page leaves only from a frame that its function may map (R395). -/
def State.movePage (s : State) (m : PageMove) : State :=
  if s.inRecovery (s.fn m.fn).part then if m.inward then s else { s with answers := s.answers ++ [none] }
  else
  match s.walk m.fn m.va with
  | (.leaf t, s) =>
    let e := Memory.readNat s.mem t.leaf 8
    let free : Bool := t.size = 65536 && t.page = m.va && bit e 56 && !bit e 58
    if m.inward then
      if !free || !t.remote || (s.poolFrames m.fn).isEmpty then s
      else if m.data.length ≠ 65536 then s.changeFn m.fn fun f => { f with unmoved := Map.put f.unmoved m.va false }
      else s.moveIn m t.leaf
    else
      let k := t.frame / 65536
      let f := s.frame k
      if !free || t.remote || !f.migv || !s.ownsFrame m.fn k || f.tenant != (s.fn m.fn).tenant || f.refuses f.tenant then
        { s with answers := s.answers ++ [some []] }
      else s.moveOut m t.leaf k
  | (_, s) => if m.inward then s else { s with answers := s.answers ++ [some []] }

def execPageMove (m : PageMove) (s : State) : Host.Outcome State Fault Refusal := .next (s.movePage m)

/-- A leaf unsettles (R402). -/
def State.unsettle (s : State) (ea fn va home : Nat) : State :=
  let moves := bits (Memory.readNat s.mem ea 8) 62 59
  ((s.changeLeaf ea 58 58 0).changeLeaf ea 62 59 0).pageEvent fn 2 home moves va

/-- The hold of a settled page at home here is over (R402). -/
def State.settleOver (s : State) (f : Frame) : Bool :=
  f.migv && bit (Memory.readNat s.mem f.pteAddr 8) 58 && f.settleAt ≤ s.ptime / 1000

/-- SETTLE_END. -/
def execSettleEnd (k : Nat) (s : State) : Host.Outcome State Fault Refusal :=
  let f := s.frame k
  .next (if s.settleOver f then s.unsettle f.pteAddr f.ownFn f.va s.module_ else s)

end Sys2Proof.Machine
end

