-- ==== Sys2Proof/Machine/SideLog.lean ====
section
/-! DEFINITION. Events of the memory unit: the side log (R317, R327 to R329), page requests (R324), release-table entries
(R314) and clean L1 lines (R316). -/

namespace Sys2Proof.Machine

/-- SIDELOG_REPLAY (R328). -/
def execSidelogReplay (c page : Nat) (s : State) : Host.Outcome State Fault Refusal :=
  let spaces := (((s.core c).sideLog.filter fun e => e.page = page).map fun e => (e.asid, e.slice)).eraseDups
  s.ifRoom (spaces.foldl
    (fun (s : State) (k : Nat × Nat) => (s.reach { asid := k.1, slice := some k.2, core := c } page).2) s)

/-- SIDELOG_WALK_RETRY (R328): the page is walked again in each space that has entries of it; replay follows. -/
def execSidelogWalkRetry (c page : Nat) (s : State) : Host.Outcome State Fault Refusal :=
  let entries := (s.core c).sideLog.filter fun e => e.page = page
  let now := s.clock
  let t := s.changeCore c fun k => { k with retried := if entries.isEmpty then Map.drop k.retried page else Map.put k.retried page now }
  s.ifRoom (((entries.map fun e => (e.asid, e.slice)).eraseDups).foldl
    (fun (s : State) (k : Nat × Nat) =>
      match s.lookup { asid := k.1, slice := some k.2, core := c } page with
      | (.missing _, s) => s
      | (_, s) => { s with agenda := s.agenda ++ [.sidelogReplay c page] }) t)

/-! ### Page requests (R324) -/

/-- The page request that a pending entry makes. -/
def State.entryRequest (s : State) (c : Nat) (e : SideEntry) : State :=
  s.requestPage { asid := e.asid, slice := some e.slice, core := c }
    { kind := 1, cause := causePageFault, flags := flagWrite, weave := e.weave % 64, team := (s.team e.team).teamId
      lanes := e.lanes.toNat, addr := e.addr, pc := e.pc.toNat, gang := (s.gang (s.team e.team).gang).gangId }

/-- PAGE_REQUEST_EXPIRE: requests for a page that are 1 ms old lapse; side-log entries and frozen copies that still need the
page ask again. -/
def execPageRequestExpire (c page : Nat) (s : State) : Host.Outcome State Fault Refusal :=
  let now := s.ptime
  let lapsed := (s.core c).requests.filter fun r => r.page = page && r.posted + requestNs ≤ now
  let t := s.changeCore c fun k => { k with requests := k.requests.filter fun r => !lapsed.contains r }
  let wanted := (t.core c).sideLog.filter fun e => lapsed.any fun r => r.slice = e.slice && r.asid = e.asid && r.page = e.page
  let t := wanted.foldl (fun (t : State) e => t.entryRequest c e) t
  let frozen := t.copies.filter fun k =>
    k.2.core = c && k.2.active && k.2.frozen && !k.2.saved && lapsed.any fun r => r.slice = k.2.slice && r.asid = k.2.asid
  s.ifRoom (frozen.foldl
    (fun (t : State) (k : Nat × Copy) =>
      match t.copySource k.2 with
      | (.missing vas, u) => if vas.any fun va => pageOf va = page then u.freeze k.1 k.2 vas else t
      | _ => t) t)

/-! ### Lines (R314, R316) -/

/-- RELEASE_WRITEBACK: a release-table entry is written back. -/
def execReleaseWriteback (c ln : Nat) (s : State) : Host.Outcome State Fault Refusal :=
  match (s.core c).releases.find? (·.line = ln) with
  | some e => .next (s.flushRelease c e)
  | none => .next s

/-- L1_CLEAN_EXPIRE. -/
def execL1CleanExpire (c ln : Nat) (s : State) : Host.Outcome State Fault Refusal :=
  match Map.find (s.core c).l1 ln with
  | some l =>
    .next (if l.dirty.isEmpty && l.filled + cleanClocks ≤ s.clock then
      s.changeCore c fun k => { k with l1 := Map.drop k.l1 ln } else s)
  | none => .next s

end Sys2Proof.Machine
end

