-- ==== Sys2Proof/Machine/Preempt.lean ====
section
/-! DEFINITION. Pre-emption, save and resume of gangs (R270, R298, R375 to R389), and the killing of slices (R273, R355). -/

namespace Sys2Proof.Machine

/-! ### Killing (R273, R355, R385) -/

/-- The bundle of a slice fails with a status, and its gangs are killed; its engine jobs end on their own terms (R355). An
image that is being streamed fails (R431). -/
def State.killGangs (s : State) (n : Nat) (status : Byte) (sub : Nat) (detail : Byte) : State :=
  let s := s.failSlice n status sub detail
  let subs := (s.slice n).subs
  let gangs := (s.gangs.filter fun g => subs.contains g.2.sub).map Prod.fst
  let s := gangs.foldl (fun (s : State) g => s.killGang g) s
  let s := subs.foldl (fun (s : State) u => (s.closeStaging u).changeSub u fun x => { x with killed := true }) s
  { s with ckpts := Map.change s.ckpts n fun (c : Ckpt) =>
    { c with stream := c.stream.map fun (x : Stream) => { x with failed := true } } }

/-- A slice killed: its gangs, and every job of its bundle ended (R455). -/
def State.killSlice (s : State) (n : Nat) (status : Byte) (sub : Nat) (detail : Byte) : State :=
  let s := s.killGangs n status sub detail
  let jobs := (s.jobs.filter fun j => j.2.slice = n && !j.2.ended).map Prod.fst
  let s := jobs.foldl (fun (s : State) k => s.endJob k statusCancelled) s
  (s.changeSlice n fun l => { l with state := .killed, told := true }).retireBundle n

/-- The last gang of a slice has retired in this clock: nothing of the slice is left to kill (R360). -/
def State.justOver (s : State) (n : Nat) : Bool :=
  let ended := fun u : Sub => u.kernel.isSome && u.state == .started && u.gangs ≤ u.gangsDone
  (s.slice n).failure.isNone && ((s.slice n).subs.all fun u => (s.sub u).state == .complete || ended (s.sub u)) &&
    (s.slice n).subs.any fun u => ended (s.sub u) && (s.sub u).retiredAt = s.clock

/-- A slice discarded by a reset of its function: its record carries CANCELLED, whatever failed before (R414, R415). -/
def State.discardWork (s : State) (n : Nat) : State :=
  (s.changeSlice n fun l => { l with failure := none }).killSlice n cancelledStatus 0xFF 0

/-- A save or restore that meets a missing or forbidden page or poison kills the context's gangs, whichever of its slices
they are of (R385). -/
def State.saveFault (s : State) (n sub core : Nat) (m : Met) : State :=
  let cause := if m.1 = causePoison then causePoison else causeAccessViolation
  let s := s.post (s.forSlice n { kind := 2, cause := cause, core := core, addr := m.2 })
  let key := s.contextKey n
  let others := (s.slices.filter fun l => l.1 ≠ n && l.2.kind == .launch && !l.2.past && s.contextKey l.1 = key &&
    l.2.subs.any fun u => s.gangs.any fun g => g.2.sub = u && g.2.state != .retired).map Prod.fst
  others.foldl (fun (s : State) l => s.killGangs l killedStatus 0xFF cause) (s.killGangs n killedStatus (s.sub sub).index cause)

/-! ### Taking effect (R375, R389) -/

/-- PREEMPT_REQUEST: it takes effect at once, or when the gang's window closes. -/
def State.requestPreempt (s : State) (g : Nat) : State :=
  let k := s.gang g
  if !k.stands || k.draining.isSome then s
  else if k.pdis.isSome then s.changeGang g fun k => { k with requested := true }
  else s.takeEffect g false

def execPreemptRequest (g : Nat) (s : State) : Host.Outcome State Fault Refusal := .next (s.requestPreempt g)

/-! ### The control save (R270, R376, R377, R384) -/

/-- The teams of a gang that have not ended. -/
def State.gangTeams (s : State) (g : Nat) : List Nat := (s.teams.filter fun t => t.2.gang = g && !t.2.ended).map Prod.fst

/-- Matrix operations of a gang withdrawn (R248). -/
def State.withdrawAll (s : State) (g : Nat) : State :=
  ((s.mats.filter fun m => (s.team m.2.team).gang = g).map Prod.fst).foldl (fun (s : State) k => s.withdrawMatrix k) s

/-- Threads parked by WAITV stand again at its slot, and its DEAD mark is undone: it is withdrawn whole (R192, R202). -/
def State.withdrawWaits (s : State) (g : Nat) : State :=
  let mine := fun w : Nat × Weave => (s.team (teamOfWeave w.1)).gang = g && !w.2.waits.isEmpty
  let parked := (s.weaves.filter mine).flatMap fun w => w.2.waits.map fun x => (w.1, x)
  let groups := (joinWoken parked).map fun x : Group => { x with pc := x.pc - 1 }
  let s := { s with
    weaves := s.weaves.map fun w : Nat × Weave =>
      if mine w then (w.1, { w.2 with waits := [], dead := (w.2.waits.filterMap fun x : Nat × Wait => x.2.marked).foldl setDrop w.2.dead }) else w
    groups := s.groups ++ groups }
  s.cores.foldl (fun (s : State) (c : Nat × Core) => s.trimMonitors c.1) s

/-- The members of a bin in the order of their places. -/
def Bin.filed (b : Bin) : List Filed := b.places.map fun p => ⟨p.2, p.1, b.team, b.shadow, b.pc, 0⟩

/-- What a core has filed of a team. -/
def Core.filedOf (k : Core) (t : Nat) : List Filed :=
  ((k.bins.filter fun b => b.2.team = t).flatMap fun b => b.2.filed) ++ k.overflow.filter fun o => o.team = t

/-- The groups of a gang. -/
def State.groupsOf (s : State) (g : Nat) : List Group := s.groups.filter fun x => (s.team x.team).gang = g

/-- The s registers and the predicates of a wave as their sections hold them. -/
def Weave.scalarBytes (w : Weave) : List Byte := (List.range 64).flatMap fun n => bytesOfNat 8 (w.sread n).toNat
def Weave.predBytes (w : Weave) : List Byte :=
  (List.range 32).flatMap fun l => bytesOfNat 1 (((List.range 7).map fun n => if (w.pred n).getLsbD l then 2 ^ n else 0).sum)

/-- The bytes of control records that a core saves whole (R376). -/
def wholeSave : Nat := 1920 * 256

/-- The control records of a gang's teams on a core are saved in their core-bound part only. -/
def State.savesPart (s : State) (g c : Nat) : Bool :=
  wholeSave < ((s.teams.filter fun t => t.2.gang = g && !t.2.ended && t.2.core = c).map fun t => (s.site t.1).kernel.ctl).sum

/-- The save-area lines of a team's poisoned s registers are poisoned, and the registers, which are saved, no more (R441). -/
def State.spillToxic (s : State) (w : Walker) (t record : Nat) : State :=
  let s := (s.toxicScalars t).foldl (fun (s : State) off => s.poisonAt w ((record + off) % 2 ^ 56) 8) s
  { s with weaves := s.weaves.map fun x : Nat × Weave => if teamOfWeave x.1 = t then (x.1, { x.2 with poisonS := [] }) else x }

/-- A team's control record, s registers and predicates written. Where only the core-bound part of the record is saved, the
place of the rest holds what it may, and the record as it will stand waits in the team-state store (R376). -/
def State.saveControl (s : State) (t : Nat) : Except Met (List Byte) × State :=
  let e := s.site t
  let k := e.kernel
  let w := s.contextWalker e.slice e.core
  let part := s.savesPart e.gang e.core
  match s.recordAddr t with
  | (.error m, s) => (.error m, s)
  | (.ok record, s) =>
    let (bs, s) := s.freeBytes (k.ctl / 8)
    let waves := (List.range (k.weaves * k.sh)).map fun i => s.weave (waveAt k t i)
    match s.devicePut w (record % 2 ^ 56) (bs ++ waves.flatMap Weave.scalarBytes ++ waves.flatMap Weave.predBytes) with
    | (.error m, s) => (.error m, s)
    | (.ok _, s) =>
      let s := s.spillToxic w t record
      if part then
        let (last, s) := s.freeBytes (k.ctl / 8)
        (.ok last, s.changeTeam t fun m => { m with stateHeld := true })
      else (.ok bs, s)

def State.saveControls (s : State) : List Nat → Map (List Byte) → Except Met (Map (List Byte)) × State
  | [], done => (.ok done, s)
  | t :: rest, done =>
    match s.saveControl t with
    | (.error m, s) => (.error m, s)
    | (.ok bs, s) => s.saveControls rest (Map.put done t bs)

/-- The header of the save area: GEN and TIME of a completed save (R383). -/
def State.saveHeader (s : State) (n core : Nat) : Except Met Unit × State :=
  let w := s.contextWalker n core
  let area := s.saveArea n
  match s.deviceGet w ((area + 0x40) % 2 ^ 56) 8 with
  | (.error m, s) => (.error m, s)
  | (.ok bs, s) =>
    let gen := (natOfBytes bs + 1) % 2 ^ 64
    s.devicePut w ((area + 0x40) % 2 ^ 56) (bytesOfNat 8 gen ++ bytesOfNat 8 s.ptime ++ List.replicate 4016 0)

/-- Once the last gang of a slice is saved, its L2 reservations are released, and the slice is PREEMPTED (R350, R374). -/
def State.settleSlice (s : State) (n : Nat) : State :=
  let subs := (s.slice n).subs
  let saved := s.gangs.any fun g => subs.contains g.2.sub && g.2.saved.isSome
  let l := s.slice n
  if !(s.standingGangs n).isEmpty || !saved || !(l.state == .running || l.state == .held || l.state == .dispatched) then s
  else (subs.foldl (fun (s : State) u => s.endStaging u) s).changeSlice n fun l => { l with state := .preempted }

/-- The banks of a team's core that its gang has claimed and that have not begun to be spilled: it leaves them to their owners,
and nothing of its own has stood there (R380, R389). -/
def State.leftUnspilled (s : State) (t : Nat) : List (CoreArray × Nat) :=
  ((s.core (s.team t).core).claims.filter fun k => !k.begun && k.gangs.contains (s.team t).gang).map fun k => (k.array, k.bank)

/-- What the save keeps of a gang; its cores are released, its threads are held nowhere but in the record. -/
def State.detach (s : State) (g : Nat) (controls : Map (List Byte)) : State :=
  let k := s.gang g
  let teams := s.gangTeams g
  let groups := s.groupsOf g
  let filed := teams.flatMap fun t => (s.core (s.team t).core).filedOf t
  let side := k.cores.flatMap fun c => (s.core c).sideLog.filter fun e => teams.contains e.team
  let saved : Saved :=
    { groups := groups, filed := filed, parked := k.state == .parked, held := k.stopped
      crit := (k.draining.map Prod.snd).getD false, at_ := (k.draining.map Prod.fst).getD s.clock, time := s.ptime
      cores := k.cores, side := side, controls := controls }
  let s := teams.foldl
    (fun (s : State) t =>
      let left := s.leftUnspilled t
      (s.unfile t).changeTeam t fun m => { m with gone := left }) s
  let s := { s with
    groups := s.groups.filter fun x => !groups.contains x
    copies := s.copies.map fun c : Nat × Copy => if (s.team c.2.team).gang = g then (c.1, { c.2 with saved := true }) else c
    weaves := s.weaves.map fun w : Nat × Weave =>
      if teams.contains (teamOfWeave w.1) then
        (w.1, { w.2 with lastPage := [], yielding := [], bwaits := w.2.bwaits.filter fun x => x.2.2, recovering := [] })
      else w
    cores := s.cores.map fun c : Nat × Core =>
      (c.1, ({ c.2 with sideLog := c.2.sideLog.filter fun e => !teams.contains e.team } : Core).dropClaims g) }
  s.changeGang g fun k =>
    { k with state := .preempted, cores := [], saved := some saved, draining := none, requested := false, pdis := none }

/-- CONTROL_SAVE (R376): everything of a gang in which a request has taken effect. -/
def State.controlSave (s : State) (g : Nat) : State :=
  let n := (s.sub (s.gang g).sub).slice
  let core := (s.gang g).cores.headD 0
  let s := (s.withdrawAll g).withdrawWaits g
  match s.saveControls (s.gangTeams g) [] with
  | (.error m, s) => s.saveFault n (s.gang g).sub core m
  | (.ok controls, s) =>
    match s.saveHeader n core with
    | (.error m, s) => s.saveFault n (s.gang g).sub core m
    | (.ok _, s) => (s.detach g controls).settleSlice n

def execControlSave (g : Nat) (s : State) : Host.Outcome State Fault Refusal :=
  let k := s.gang g
  if k.stands && k.draining.isSome then s.ifRoom (s.controlSave g) else .next s

/-! ### Newcomers and banks (R380, R405) -/

/-- NEWCOMER_PLACE (R376, R380): the placement that follows a control save, on the run that it freed. -/
def execNewcomerPlace (g : Nat) (s : State) : Host.Outcome State Fault Refusal := .next (s.tryPlace g)

/-- The claim that a core spills next: the one in progress, then those that were accessed, in the order of first access, then
the rest by array and bank (R380). -/
def Core.nextClaim (k : Core) : Option Claim :=
  let rest := fun (x : Claim) => x.array.number * 64 + x.bank
  match k.claims.find? fun x => x.begun, leastBy (fun x => x.touched.getD 0 * 1024 + rest x) (k.claims.filter fun x => x.touched.isSome) with
  | some x, _ => some x
  | none, some x => some x
  | none, none => leastBy rest k.claims

/-- What a saved team has in a bank is spilled: the parts there that are neither dead nor clean. -/
def State.spillFrom (s : State) (a : CoreArray) (bank t : Nat) : Except Met Unit × State :=
  let e := s.site t
  let pieces := (s.dirtyPieces t).filter fun p => s.bankOf t p = some (a, bank)
  let done := fun (s : State) => s.changeTeam t fun m => { m with gone := m.gone ++ [(a, bank)] }
  if pieces.isEmpty then (.ok (), done s)
  else
    match s.recordAddr t with
    | (.error m, s) => (.error m, s)
    | (.ok record, s) =>
      match s.spillPieces (s.contextWalker e.slice e.core) t record pieces with
      | (.error m, s) => (.error m, s)
      | (.ok _, s) => (.ok (), done s)

/-- A claimed bank: its spill begins, and then every saved team's part of it is spilled and the bank is zeroed. A save that
fails kills its context's gangs, and the newcomer is not held (R380, R385). -/
def State.spillBank (s : State) (c : Nat) (k : Claim) : State :=
  let same := fun (x : Claim) => x.array = k.array && x.bank = k.bank
  if !k.begun then
    s.changeCore c fun x => { x with claims := x.claims.map fun y : Claim => if same y then { y with begun := true } else y }
  else
    let s := (s.residents c k.array k.bank).foldl
      (fun (s : State) t =>
        if (s.team t).ended then s
        else
          match s.spillFrom k.array k.bank t with
          | (.ok _, s) => s
          | (.error m, s) => s.saveFault (s.site t).slice (s.site t).sub c m) s
    s.changeCore c fun x => { x with claims := x.claims.filter fun y => !same y }

/-- BANK_SPILL. -/
def execBankSpill (c : Nat) (s : State) : Host.Outcome State Fault Refusal :=
  match (s.core c).nextClaim with
  | some k => s.ifRoom (s.spillBank c k)
  | none => .next s

/-! ### Resume (R298, R365, R382, R387) -/

/-- What a core that a team leaves writes back, with the release-table entries that record it: the lines that the team dirtied,
and those of other teams, of which its threads may have read bytes there (R305, R322). -/
def State.leaveCore (s : State) (c : Nat) : State := s.writeBackWhere c fun _ => true

/-- Nothing of a team stands on its core any more: it stands in its record alone, and what was poisoned there is gone. -/
def State.takeAway (s : State) (t : Nat) : State :=
  let s := { s with
    poison := s.poison.filter fun ln => !ownedBy t (ln * 128)
    weaves := s.weaves.map fun w : Nat × Weave => if teamOfWeave w.1 = t then (w.1, { w.2 with poisonV := [] }) else w }
  (s.changeTeam t fun m =>
    { m with poisonRows := [], away := true, gone := [], reservations := m.reservations.map fun r : Nat × Reservation => (r.1, { r.2 with place := [] }) }).changeCore
      (s.team t).core fun k => k.release t fun _ => true

/-- A team's resident state spilled whole. -/
def State.spillTeam (s : State) (t : Nat) : Except Met Unit × State :=
  let e := s.site t
  match s.recordAddr t with
  | (.error m, s) => (.error m, s)
  | (.ok record, s) =>
    match s.spillPieces (s.contextWalker e.slice e.core) t record (s.dirtyPieces t) with
    | (.error m, s) => (.error m, s)
    | (.ok _, s) => (.ok (), s.takeAway t)

/-- The scalar registers and predicates of a team's waves read from its record. -/
def State.restoreScalars (s : State) (t : Nat) (bs : List Byte) : State :=
  let k := (s.site t).kernel
  let waves := k.weaves * k.sh
  (List.range waves).foldl
    (fun (s : State) i =>
      let mine := bs.drop (512 * i)
      let preds := bs.drop (512 * waves + 32 * i)
      s.changeWeave (waveAt k t i) fun w =>
        { w with
          poisonS := []
          s := (List.range 64).map fun n => (n, BitVec.ofNat 64 (natOfBytes ((mine.drop (8 * n)).take 8)))
          p := (List.range 7).map fun n => (n, maskOf ((List.range 32).filter fun l => bit ((preds.getD l 0).toNat) n)) }) s

/-- What becomes of a restore: it is done, it meets a fault, or a control record differs from the one that was saved. -/
inductive Restored where
  | ok (s : State)
  | fault (s : State) (m : Met)
  | crc (s : State)

/-- A team's state read back: its control record, which must be the one saved where it is in the record, and the parts that
stand in the record alone (R376, R384, R387). -/
def State.restoreTeam (s : State) (t core : Nat) (control : List Byte) : Restored :=
  let e := s.site t
  let k := e.kernel
  let w := s.contextWalker e.slice core
  match s.recordAddr t with
  | (.error m, s) => .fault s m
  | (.ok record, s) =>
    match s.deviceGet w (record % 2 ^ 56) (k.ctl + 544 * k.weaves * k.sh) with
    | (.error m, s) => .fault s m
    | (.ok bs, s) =>
      if !(s.team t).stateHeld && bs.take k.ctl ≠ control then .crc s
      else
        let s := s.restoreScalars t (bs.drop k.ctl)
        match s.restorePieces w t record ((s.allPieces t).filter (s.inRecord t)) with
        | (.error m, s) => .fault s m
        | (.ok _, s) => .ok s

/-- Registers marked dead read as zero after a save or a cut (R41, R382), but for some. -/
def Weave.killDead (w : Weave) (but : List Nat) : Weave :=
  { w with v := w.v.filter fun r => but.contains r.1 || !w.dead.contains r.1 }

/-- A saved copy takes a slot of its new core, and its watermark registers name it (R298). -/
def State.restoreCopy (s : State) (k core : Nat) : State :=
  match Map.find s.copies k with
  | none => s
  | some c =>
    match s.freeSlots core with
    | [] => s
    | slots =>
      let (x, s) := s.free
      s.putCopy k { c with core := core, saved := false, slot := slots.getD (x.toNat % slots.length) 0 }

/-- Instruction pins reapplied under the limit of the new core (R182). -/
def State.repin (s : State) (t : Nat) : State :=
  let e := s.site t
  let others := ((s.teams.filter fun x => x.1 ≠ t && x.2.core = e.core).flatMap fun x => x.2.pinsL1).eraseDups
  let room := pinLimitL1 - others.length
  s.changeTeam t fun m =>
    { m with pinsL1 := (m.pinsL1.filter others.contains) ++ ((m.pinsL1.filter fun k => !others.contains k).take room) }

/-- What a team that resumes holds of an array of its core: what it held there, but for the granules that a team of a standing
gang has been given meanwhile, for which others are taken. Its banks are claimed from other saved gangs that have state there (R380,
R387, R405). -/
def State.holdAgain (s : State) (c g t : Nat) (k : Kernel) (a : CoreArray) : State :=
  match (s.core c).holdings.find? fun h => h.team = t && h.array = a with
  | none => s.holdArray c g t k a
  | some h =>
    let others := ((s.core c).holdings.filter fun x => x.array = a && x.team ≠ t && (s.gang (s.team x.team).gang).stands).flatMap fun x => x.runs
    let taken := fun n => others.any fun r => r.1 ≤ n && n < r.1 + r.2
    let mine := h.runs.flatMap fun r => span r.1 r.2
    let fresh := (s.runsFor c g (mine.filter taken).length a).flatMap fun r => span r.1 r.2
    let runs := if !mine.any taken then h.runs else
      (mine.foldl
        (fun (r : List (Nat × Nat) × List Nat) n => if taken n then (r.1 ++ [(r.2.headD 0, 1)], r.2.drop 1) else (r.1 ++ [(n, 1)], r.2))
        ([], fresh)).1
    (s.claimBanks c g a (runs.flatMap runBanks).eraseDups).changeCore c fun x =>
      { x with holdings := x.holdings.map fun y : Holding => if y.team = t && y.array = a then { y with runs := runs } else y }

/-- A team stands on a core again. -/
def State.standAgain (s : State) (c g t : Nat) : State :=
  let k := (s.site t).kernel
  let s := s.changeTeam t fun m => { m with core := c }
  let s := CoreArray.all.foldl (fun (s : State) a => s.holdAgain c g t k a) s
  s.changeTeam t fun m => { m with away := false, gone := [], stateHeld := false }

/-- The reservations of a gang's teams on a core stand where they did, where nothing has been given their granules meanwhile; else
they take others, one after another (R253, R275, R387, R405). -/
def State.placeReservations (s : State) (c g : Nat) : State :=
  let mine := s.teams.filter fun t => t.2.gang = g && !t.2.ended && t.2.core = c && !t.2.reservations.isEmpty
  let held := (s.opbufHeld c g).flatMap fun r => span r.1 r.2
  let stays := mine.all fun t => t.2.reservations.all fun r =>
    !r.2.place.isEmpty && (r.2.place.map granulesOf).all fun x => (span x.1 x.2).all fun n => !held.contains n
  let s := if stays then s else
    let free := (s.runsFor c g (mine.map fun t => t.2.granules).sum .opbuf).flatMap fun r => span r.1 r.2
    (mine.foldl
      (fun (x : State × List Nat) (t : Nat × Team) => (x.1.changeTeam t.1 fun m => m.placeOn x.2, x.2.drop t.2.granules))
      (s, free)).1
  s.claimBanks c g .opbuf ((mine.flatMap fun t => (s.team t.1).reservations.flatMap fun r => r.2.banks).eraseDups)

/-- The gang stands on its run: its copies, its side log, its issue state (R270, R298). A gang of a slice that is HELD is held. -/
def State.attach (s : State) (g : Nat) (cores : List Nat) (k : Saved) : State :=
  let teams := s.gangTeams g
  let s := cores.foldl (fun (s : State) c => s.placeReservations c g) (s.reserveRun cores)
  let s := { s with weaves := s.weaves.map fun w : Nat × Weave =>
    if teams.contains (teamOfWeave w.1) then (w.1, w.2.killDead []) else w }
  let s := ((s.copies.filter fun c => c.2.saved && (s.team c.2.team).gang = g).map Prod.fst).foldl
    (fun (s : State) c => s.restoreCopy c (s.team (s.copyHolder (Map.at s.copies {} c))).core) s
  let s := k.side.foldl
    (fun (s : State) e => s.changeCore (s.team e.team).core fun x => { x with sideLog := x.sideLog ++ [e] }) s
  let replays := (k.side.map fun e => ((s.team e.team).core, e.page)).eraseDups
  let s := { s with agenda := s.agenda ++ replays.map fun r : Nat × Nat => Instr.sidelogReplay r.1 r.2 }
  let s := { s with groups := s.groups ++ k.groups.map fun x : Group => ({ members := x.members, pc := x.pc } : Group) }
  let s := k.filed.foldl
    (fun (s : State) o => s.changeCore (s.team o.team).core fun x => x.file { o with wait := 0 }) s
  let s := teams.foldl (fun (s : State) t => s.repin t) s
  let held := (s.slice (s.sub (s.gang g).sub).slice).state == .held
  s.changeGang g fun x =>
    { x with
      state := if k.parked then .parked else .placed, cores := cores, saved := none, forTest := false, stopped := held
      pdis := k.window.map fun p => { opened := s.clock - p.1, crit := p.2 } }

/-- RESTORECOUNT advances, for the context and in its node (R387). -/
def State.countRestore (s : State) (n : Nat) : State :=
  { s.changeCtx n fun x => { x with restoreCount := x.restoreCount + 1 } with
    agenda := s.agenda ++ [.rcbFieldWriteback (s.contextKey n)] }

/-- A change for each of several teams in turn, up to the first that meets a fault. -/
def State.eachTeam (s : State) (f : State → Nat → Except Met Unit × State) : List Nat → Except Met Unit × State
  | [] => (.ok (), s)
  | t :: rest =>
    match f s t with
    | (.error m, s) => (.error m, s)
    | (.ok _, s) => s.eachTeam f rest

/-- Before the teams of a gang are read back, each is brought up to date, and: where the run differs, everything of it that still
stands on its old core is spilled, and that core's lines are written back; where it is the same, what it has in banks that others
have claimed is spilled (R322, R387). -/
def State.leaveBanks (s : State) (t : Nat) (moved : Bool) : Except Met Unit × State :=
  match s.settleTeam t with
  | (.error m, s) => (.error m, s)
  | (.ok _, s) =>
    let old := (s.team t).core
    if moved then
      match if (s.team t).away then (.ok (), s.takeAway t) else s.spillTeam t with
      | (.error m, s) => (.error m, s)
      | (.ok _, s) => (.ok (), s.leaveCore old)
    else
      ((s.core old).claims.filter fun k => (s.residents old k.array k.bank).contains t).foldl
        (fun (r : Except Met Unit × State) k =>
          match r.1 with
          | .error m => (.error m, r.2)
          | .ok _ => r.2.spillFrom k.array k.bank t) (.ok (), s)

/-- The teams of a gang read back one after another, and given what they hold on their cores. -/
def State.returnTeams (s : State) (g : Nat) (coreOf : Nat → Nat) (controls : Map (List Byte)) : List Nat → Restored
  | [] => .ok s
  | t :: rest =>
    match s.restoreTeam t (coreOf t) (Map.at controls [] t) with
    | .ok s => (s.standAgain (coreOf t) g t).returnTeams g coreOf controls rest
    | other => other

/-- Steps 1 and 2 of R387: every team of the gang leaves before the first is read back. -/
def State.restoreTeams (s : State) (g : Nat) (moved : Bool) (coreOf : Nat → Nat) (controls : Map (List Byte)) (teams : List Nat) : Restored :=
  match s.eachTeam (fun s t => s.leaveBanks t moved) teams with
  | (.error m, s) => .fault s m
  | (.ok _, s) => s.returnTeams g coreOf controls teams

/-- A saved gang whose record is refused is killed, and its bundle fails (R384). -/
def State.refuseGang (s : State) (n g : Nat) : State :=
  (s.failSlice n killedStatus (s.sub (s.gang g).sub).index causeAccessViolation).killGang g

/-- The teams of a gang that have ended keep their places on its run (R274). -/
def State.moveEnded (s : State) (g : Nat) (coreOf : Nat → Nat) : State :=
  { s with teams := s.teams.map fun t : Nat × Team => if t.2.gang = g && t.2.ended then (t.1, { t.2 with core := coreOf t.1 }) else t }

/-- A saved gang resumed on a run. -/
def State.resumeOn (s : State) (g : Nat) (cores : List Nat) (k : Saved) : State :=
  let u := (s.gang g).sub
  let n := (s.sub u).slice
  let per := max 1 (((s.sub u).kernel.getD {}).gangTeams / max 1 cores.length)
  let coreOf := fun t => cores.getD ((s.team t).index / per) 0
  match s.restoreTeams g (cores != k.cores) coreOf k.controls (s.gangTeams g) with
  | .fault s m => s.saveFault n u (cores.headD 0) m
  | .crc s => s.refuseGang n g
  | .ok s =>
    let s := ((s.moveEnded g coreOf).attach g cores k).countRestore n
    s.changeSlice n fun l => { l with state := if l.state == .dispatched || l.state == .preempted then .running else l.state }

/-- The gang may be resumed now: its slice has been picked again, or its window was critical; critical gangs go first, the
earliest of them before the others (R388). -/
def State.mayResume (s : State) (g : Nat) : Bool :=
  let n := (s.sub (s.gang g).sub).slice
  let crit := s.critGangs (s.partOfSlice n)
  let l := s.slice n
  let first : Bool :=
    match crit.find? fun x => (s.runForSaved x).isSome with
    | some x => x = g
    | none => true
  s.comesBack g && first && (crit.contains g || (!s.lowerWaits g && (l.state == .dispatched || l.state == .running)))

/-- GANG_RESUME: the gang is placed again; while no run passes it is UNPLACED (R364, R365). -/
def execGangResume (g : Nat) (s : State) : Host.Outcome State Fault Refusal :=
  if s.waitsSaved g then
    match s.runForSaved g, (s.gang g).saved with
    | some cores, some k => if s.mayResume g then s.ifRoom (s.resumeOn g cores k) else .next s
    | _, _ => .next (s.changeGang g fun k => { k with state := .unplaced })
  else .next s

end Sys2Proof.Machine
end

