-- ==== Sys2Proof/Machine/HostFace.lean ====
section
/-! DEFINITION. The host interface: registers of functions and of the scheduler (R408 to R410, R446, R454), queue binding
(R411, R412), function-level resets (R413 to R415), messages (R407), and traffic from peers and other modules (R416 to
R419). -/

namespace Sys2Proof.Machine

/-! ### Notify (R410) -/

/-- A notify that is not accepted. -/
def State.dropNotify (s : State) (fn : Nat) : State := s.changeFn fn fun f => { f with drops := (f.drops + 1) % 2 ^ 64 }

/-- The guest half of a QCB read (R341). A poisoned one is not used. HEAD is the device's own once it has been read. -/
def State.readGuest (s : State) (k : Nat) : State :=
  let q := s.queue k
  if s.poisoned q.qcb 24 then s
  else
    let (bs, s) := s.physRead q.qcb 24
    let n := fun off size => natOfBytes ((bs.drop off).take size)
    s.changeQueue k fun q =>
      { q with
        ringBase := n 0 8, ringSize := n 8 4, inOrder := bit (n 0x0C 4) 0, tail := n 0x14 4, waits := false, started := true
        head := if q.started then q.head else n 0x10 4 % max 1 (n 8 4)
        next := if q.started then q.next else n 0x10 4 % max 1 (n 8 4) }

/-- A notify is accepted. -/
def State.mayNotify (s : State) (fn : Nat) (value : Word64) : Bool :=
  let f := s.fn fn
  let q := s.queue (queueKey fn (value.toNat % 65536))
  fn < 128 && value.toNat < 65536 && value.toNat < f.queues && q.bound && q.tenant == f.tenant.toNat && !f.inReset && !f.stopping

/-- NOTIFY. -/
def execNotify (fn : Nat) (value : Word64) (s : State) : Host.Outcome State Fault Refusal :=
  .next (if !s.awake || 128 ≤ fn then s else if s.mayNotify fn value then s.readGuest (queueKey fn value.toNat) else s.dropNotify fn)

/-! ### Binding (R411, R412) -/

def regQbind : Nat := 0x2000
def regQbindHigh : Nat := 0x2008

/-- The low word of a bind command. -/
def bindWord (op fn queue : Nat) : Nat := op * 2 ^ 32 + fn * 65536 + queue

/-- QBIND holds a command that runs. -/
def State.binding (s : State) : Bool := bit ((s.fn 0).reg regQbind) 63

/-- QBIND as a command leaves it. -/
def State.setBind (s : State) (op fn queue : Nat) (qcb : Word64) (busy : Bool) (status : Nat) : State :=
  s.changeFn 0 fun f =>
    (f.setReg regQbindHigh qcb.toNat).setReg regQbind (bindWord op fn queue + status * 2 ^ 56 + if busy then 2 ^ 63 else 0)

/-- The functions of a partition, configured or not (R5, R340), and their queues and counters. -/
def State.fnsOf (s : State) (p : Nat) : List Nat := (List.range 128).filter fun fn => (s.fn fn).part = p
def State.queuesOf (s : State) (fns : List Nat) : Nat := (fns.map fun fn => (s.fn fn).queues).sum
def State.countersOf (s : State) (fns : List Nat) : Nat := (fns.map fun fn => (s.fn fn).counters).sum

/-- The quotas of a partition's functions keep to its fixed share (R6, R409). -/
def State.shareKept (s : State) (p : Nat) : Bool :=
  let dies := (s.part p).dies.length
  s.queuesOf (s.fnsOf p) ≤ dies * 1024 && s.countersOf (s.fnsOf p) ≤ dies * 4096

/-- A partition is put to use: its dies are leased (R460). -/
def State.lease (s : State) (p : Nat) : State :=
  let dies := (s.part p).dies
  ({ s with dies := s.dies.map fun d : Nat × Die => if dies.contains d.1 then (d.1, { d.2 with fresh := false }) else d }).changePart p
    fun k => { k with used := true }

/-- The privileged half of a QCB: RCB, TENANT, QCLASS, PRIO, PART. -/
def State.privileged (s : State) (qcb : Nat) : List Nat × State :=
  let (bs, s) := s.physRead (qcb + 0x40) 13
  let n := fun off size => natOfBytes ((bs.drop off).take size)
  ([n 0 8, n 8 2, n 10 1, n 11 1, n 12 1], s)

/-- The chain of a queue that is being bound, read for the check of QUEUEQUOTA, and whether each of its nodes could be
read. -/
def State.bindChain (s : State) (fn key : Nat) : List Nat × Bool × State :=
  let t := s.readChain fn chainFuel key
  let chain := t.chain chainFuel key
  (chain, chain.all fun k => (t.node k).readable, t)

/-- What the device held of the nodes that it had read before a bind stays (R356). -/
def State.keepNodes (s old : State) : State :=
  { s with nodes := s.nodes.map fun n : Nat × Node => if (old.node n.1).readable then (n.1, old.node n.1) else n }

/-- The bound queues of a partition whose chains pass a node. -/
def State.boundUnder (s : State) (p k : Nat) : Nat :=
  (s.queues.filter fun q =>
    q.2.bound && (s.fn (q.1 / 65536)).part = p && (s.chain chainFuel (nodeKey p q.2.rcb)).contains k).length

/-- One more queue fits under every node of a chain (R359). -/
def State.quotaFits (s : State) (p : Nat) (chain : List Nat) : Bool :=
  (chainTails chain).all fun tail => s.boundUnder p (tail.headD 0) + 1 ≤ s.effective tail 2 0x28 4

/-- BIND, if nothing refuses it. -/
def State.tryBind (s : State) (fn queue : Nat) (qcb : Nat) : Option State :=
  let k := queueKey fn queue
  let f := s.fn fn
  if 128 ≤ fn || f.inReset || (s.queue k).bound || qcb % 128 ≠ 0 || !stored qcb || s.poisoned (qcb + 0x40) 64 then none
  else
    let (half, s) := s.privileged qcb
    let at_ := fun i => half.getD i 0
    if at_ 1 ≠ f.tenant.toNat || at_ 4 ≠ f.part then none
    else
      let (chain, readable, t) := s.bindChain fn (nodeKey f.part (at_ 0))
      if !readable || !t.quotaFits f.part chain then none
      else
        let s := t.keepNodes s
        let q : Queue := { bound := true, qcb := qcb, rcb := at_ 0, tenant := at_ 1, qclass := at_ 2 % 8, prio := at_ 3 % 8 }
        some ({ s with queues := Map.put s.queues k q }.lease f.part)

/-- QBIND_BIND. A write while a command runs is discarded. -/
def execQbindBind (fn queue : Nat) (qcb : Word64) (s : State) : Host.Outcome State Fault Refusal :=
  .next (if !s.awake || s.binding then s
    else
      match s.tryBind fn queue qcb.toNat with
      | some s => s.setBind 0 fn queue qcb false 0
      | none => s.setBind 0 fn queue qcb false 1)

/-- Every slice of a queue has retired or been refused, those whose entries have not been read among them. -/
def State.idleQueue (s : State) (k : Nat) : Bool :=
  let q := s.queue k
  (q.slices.all fun n => (s.slice n).past) && q.next % max 1 q.ringSize == q.tail % max 1 q.ringSize

/-- The queue is forgotten. -/
def State.forgetQueue (s : State) (k : Nat) : State := { s with queues := Map.drop s.queues k }

/-- QBIND_UNBIND: it starts, or the one that waits ends. -/
def execQbindUnbind (fn queue : Nat) (qcb : Word64) (s : State) : Host.Outcome State Fault Refusal :=
  let k := queueKey fn queue
  let mine : Bool := (s.fn 0).reg regQbind == bindWord 1 fn queue + 2 ^ 63
  .next (if !s.awake || s.binding && !mine then s
    else if !mine && (!(s.queue k).bound || (s.fn fn).inReset) then s.setBind 1 fn queue qcb false 1
    else if s.idleQueue k then (s.forgetQueue k).setBind 1 fn queue qcb false 0
    else s.setBind 1 fn queue qcb true 0)

/-- The bound values written back over a privileged half, with the report of R412. -/
def State.restoreHalf (s : State) (fn queue : Nat) : State :=
  let k := queueKey fn queue
  let q := s.queue k
  let part := (s.fn fn).part
  let bytes := bytesOfNat 8 q.rcb ++ bytesOfNat 2 q.tenant ++ bytesOfNat 1 q.qclass ++ bytesOfNat 1 q.prio ++ bytesOfNat 1 part
  let s := s.physWrite (q.qcb + 0x40) bytes
  (s.post { kind := 2, cause := 0, core := (s.part part).root * 160, addr := q.qcb, queue := k }).raise 0 1

/-- QBIND_REBIND. -/
def execQbindRebind (fn queue : Nat) (qcb : Word64) (s : State) : Host.Outcome State Fault Refusal :=
  let k := queueKey fn queue
  let q := s.queue k
  if !s.awake || s.binding then .next s
  else if !q.bound || (s.fn fn).inReset then .next (s.setBind 2 fn queue qcb false 1)
  else
    let (half, t) := s.privileged q.qcb
    if half = [q.rcb, q.tenant, q.qclass, q.prio, (s.fn fn).part] then .next (t.setBind 2 fn queue qcb false 0)
    else s.orWait (.qbindRebind fn queue qcb) ((t.restoreHalf fn queue).setBind 2 fn queue qcb false 2)

/-! ### FNCFG and TROOT (R390, R409) -/

/-- A write of FNCFG is taken. -/
def State.mayConfigure (s : State) (fn : Nat) (x : Nat) : Bool :=
  let f := s.fn fn
  let p := bits x 55 48
  let others := (s.fnsOf p).filter (· ≠ fn)
  let dies := (s.part p).dies.length
  let unbound : Bool := f.inReset || s.queues.all fun q => q.1 / 65536 ≠ fn || !q.2.bound
  s.awake && fn < 128 && unbound && x < 2 ^ 56 && bits x 15 0 != 0 && bits x 47 32 ≤ 4096 && (Map.find s.parts p).isSome &&
    (others.all fun g => (s.fn g).tenant.toNat ≠ bits x 15 0) && s.queuesOf others + bits x 31 16 ≤ dies * 1024 &&
    s.countersOf others + bits x 47 32 * 16 ≤ dies * 4096

/-- FNCFG_WRITE. -/
def execFncfgWrite (fn : Nat) (value : Word64) (s : State) : Host.Outcome State Fault Refusal :=
  let x := value.toNat
  .next (if s.mayConfigure fn x then
      (s.lease (bits x 55 48)).changeFn fn fun f =>
        { f with
          tenant := BitVec.ofNat 16 (bits x 15 0), queues := bits x 31 16, counters := bits x 47 32 * 16, part := bits x 55 48
          pool := if f.part = bits x 55 48 then f.pool else [] }
    else s)

/-- TROOT_WRITE. -/
def execTrootWrite (fn : Nat) (value : Word64) (s : State) : Host.Outcome State Fault Refusal :=
  .next (if s.awake && fn < 128 then s.changeFn fn fun f => { f with troot := value &&& BitVec.ofNat 64 (2 ^ 52 - 2 ^ 11 + 1) } else s)

/-! ### Register reads (R408) -/

/-- IDENT, and FNCFG but for its function number. -/
def Fn.ident (f : Fn) (fn : Nat) : Nat :=
  f.tenant.toNat + fn * 2 ^ 16 + f.part * 2 ^ 24 + f.queues % 2 ^ 16 * 2 ^ 32 + f.counters / 16 * 2 ^ 48
def Fn.config (f : Fn) : Nat := f.tenant.toNat + f.queues % 2 ^ 16 * 2 ^ 16 + f.counters / 16 * 2 ^ 32 + f.part * 2 ^ 48

/-- A word of a window. -/
def windowWord (m : Map (Word64 × Word64)) (off : Nat) : Word64 :=
  let w := Map.at m (0, 0) (off / 16)
  if off / 8 % 2 = 0 then w.1 else w.2

/-- What an 8-byte read of BAR0 of a function answers. A read changes nothing, so no event stands for it. -/
def State.readBar (s : State) (fn off : Nat) : Word64 :=
  let f := s.fn fn
  let word := fun off => BitVec.ofNat 64 (f.reg off)
  let pair := fun off => BitVec.ofNat 64 (f.reg off + f.reg (off + 4) * 2 ^ 32)
  if off % 8 ≠ 0 || 128 ≤ fn || (4096 ≤ off && fn ≠ 0) then 0
  else if off = 8 then BitVec.ofNat 64 (f.ident fn)
  else if off = 0x20 then f.troot
  else if off = regTqBase || off = regTqTail || off = regEvBase || off = regEvTail then word off
  else if off = regTqSize || off = regEvSize then pair off
  else if 0x1000 ≤ off && off < 0x1800 then
    if off % 16 = 0 then BitVec.ofNat 64 (s.fn ((off - 0x1000) / 16)).config else 0
  else if 0x2800 ≤ off && off < 0x2C00 then BitVec.ofNat 64 (s.fn ((off - 0x2800) / 8)).drops
  else if 0x3000 ≤ off && off < 0x3400 then windowWord s.outWin (off - 0x3000)
  else if 0x3400 ≤ off && off < 0x3800 then windowWord s.inWin (off - 0x3400)
  else if off = 0x3800 then BitVec.ofNat 64 s.module_
  else if [0x2000, 0x2008, 0x3808, 0x3900, 0x3908, 0x3A00, 0x3A08, 0x3A10, 0x3A18, 0x3A20].contains off then word off
  else 0

/-! ### Register writes (R408, R446, R454) -/

/-- A ring of a function: its registers of base, size, head and tail. -/
structure RingRegs where
  base : Nat
  size : Nat
  head : Nat
  tail : Nat

def tqRing : RingRegs := ⟨regTqBase, regTqSize, regTqHead, regTqTail⟩
def evRing : RingRegs := ⟨regEvBase, regEvSize, regEvHead, regEvTail⟩

def Fn.emptyRing (f : Fn) (r : RingRegs) : Bool := f.reg r.head == f.reg r.tail

def Fn.writeBase (f : Fn) (r : RingRegs) (x : Nat) : Fn := if f.emptyRing r && x % 32 == 0 then f.setReg r.base x else f

/-- The empty ring keeps its place, within the new size. -/
def Fn.writeSize (f : Fn) (r : RingRegs) (x : Nat) : Fn :=
  if f.emptyRing r && 16 ≤ x && x ≤ 4096 && 2 ^ Nat.log2 x == x then
    ((f.setReg r.size x).setReg r.head (f.reg r.head % x)).setReg r.tail (f.reg r.head % x)
  else f

/-- An index that software writes is taken within the ring. -/
def Fn.writeIndex (f : Fn) (size off x : Nat) : Fn := f.setReg off (x % max 1 (f.reg size))

/-- The words of windows, without their reserved bits (R416, R417). -/
def outWord (word x : Nat) : Nat := if word = 0 then x / 65536 * 65536 else bits x 39 16 * 65536 + x % 2
def inWord (word x : Nat) : Nat :=
  if word = 0 then x / 65536 * 65536 else bits x 62 56 * 2 ^ 56 + bits x 51 16 * 65536 + x % 65536

def putWord (m : Map (Word64 × Word64)) (k word x : Nat) : Map (Word64 × Word64) :=
  let old := Map.at m (0, 0) k
  Map.put m k (if word = 0 then (BitVec.ofNat 64 x, old.2) else (old.1, BitVec.ofNat 64 x))

def regFwload : Nat := 0x3900
def regMigctl : Nat := 0x3A00
def regMigVa : Nat := 0x3A10
def regMigNp : Nat := 0x3A18
def regMigState : Nat := 0x3A20

/-- The event that a register write brings comes about next, before any later request (R413). -/
def State.soon (s : State) (i : Instr) : State := { s with agenda := i :: s.agenda }

/-- The low word of a command register ends with a status. -/
def State.setCommand (s : State) (off low : Nat) (busy : Bool) (status : Nat) : State :=
  s.changeFn 0 fun f => f.setReg off (low % 2 ^ 56 + status * 2 ^ 56 + if busy then 2 ^ 63 else 0)

/-- A write that starts a command: its row does the rest. A command with a reserved bit set is refused. -/
def State.startCommand (s : State) (off x : Nat) : State :=
  let high := BitVec.ofNat 64 ((s.fn 0).reg (off + 8))
  let low := x % 2 ^ 56
  let fn := bits x 22 16
  let refused := s.setCommand off low false 1
  if bit ((s.fn 0).reg off) 63 then s
  else if off = regQbind then
    let event := [Instr.qbindBind fn (x % 65536) high, .qbindUnbind fn (x % 65536) high, .qbindRebind fn (x % 65536) high]
    match bits x 55 34 == 0 && bits x 31 23 == 0, event[bits x 33 32]? with
    | true, some i => s.soon i
    | _, _ => refused
  else if off = regFwload then
    if bits x 55 8 = 0 then (s.setCommand off low true 0).soon (.fwload (x % 256) high) else s.setCommand off low false 2
  else
    let low := low - bits low 55 48 * 2 ^ 48 + bits ((s.fn 0).reg off) 55 48 * 2 ^ 48
    let refused := s.setCommand off low false 1
    let event := [Instr.migStart fn high, .migRound fn high, .migStop fn high, .migResume fn high, .migCancel fn high]
    match bits x 47 36 == 0 && bits x 31 23 == 0 && bits x 15 0 == 0, event[bits x 35 32]? with
    | true, some i => s.soon i
    | _, _ => refused

/-- A write to BAR0 of a function. -/
def State.writeBar (s : State) (fn off x : Nat) : State :=
  let low := x % 2 ^ 32
  let high := x / 2 ^ 32
  let value := BitVec.ofNat 64 x
  if off % 8 ≠ 0 || 65536 ≤ off || 128 ≤ fn || (4096 ≤ off && fn ≠ 0) then s
  else if off = 0 then s.soon (.notify fn value)
  else if off = 0x20 then s.soon (.trootWrite fn value)
  else if off = regTqBase then s.changeFn fn fun f => f.writeBase tqRing x
  else if off = regTqSize then s.changeFn fn fun f => f.writeSize tqRing low
  else if off = regTqTail then s.changeFn fn fun f => f.writeIndex regTqSize regTqTail low
  else if off = regEvBase then s.changeFn fn fun f => f.writeBase evRing x
  else if off = regEvSize then s.changeFn fn fun f => (f.writeSize evRing low).writeIndex regEvSize regEvHead high
  else if 0x1000 ≤ off && off < 0x1800 then
    if off % 16 = 0 then s.soon (.fncfgWrite ((off - 0x1000) / 16) value) else s
  else if off = regQbind || off = regFwload || off = regMigctl then s.startCommand off x
  else if off = regQbind + 8 || off = regFwload + 8 || off = regMigctl + 8 then
    if bit ((s.fn 0).reg (off - 8)) 63 then s else s.changeFn 0 fun f => f.setReg off x
  else if 0x3000 ≤ off && off < 0x3400 then
    { s with outWin := putWord s.outWin ((off - 0x3000) / 16) (off / 8 % 2) (outWord (off / 8 % 2) x) }
  else if 0x3400 ≤ off && off < 0x3800 then
    { s with inWin := putWord s.inWin ((off - 0x3400) / 16) (off / 8 % 2) (inWord (off / 8 % 2) x) }
  else if off = 0x3800 then { s with module_ := x % 1024 }
  else if off = regMigParam then if high < low then s else s.changeFn 0 fun f => f.setReg off x
  else if off = regMigVa || off = regMigNp || off = regMigState then s.changeFn 0 fun f => f.setReg off x
  else s

def regScmd : Nat := 0x40
def regScmdStat : Nat := 0x60

/-- A firmware core of the partition runs; no other agent reaches its scheduler register block (R454; log
entry 131). -/
def State.scheduled (s : State) (p : Nat) : Bool := (s.part p).dies.any fun d => (s.die d).firmware.isSome

/-- What an 8-byte load of a partition's scheduler register block answers (R447, R454). A load changes nothing, so no event stands for
it. -/
def State.readSched (s : State) (p off : Nat) : Word64 :=
  let k := s.part p
  let die := fun (i : Nat) => (k.dies[i]?).map s.die
  if off % 8 ≠ 0 then 0
  else if off ≤ regRootRcb || off = regQcap || off = regQcap + 8 || (regScmd ≤ off && off ≤ regScmdStat) then k.reg off
  else if 0x100 ≤ off && off < 0x180 then BitVec.ofNat 64 (((die ((off - 0x100) / 8)).map fun d => d.logOver).getD 0)
  else if 0x180 ≤ off && off < 0x200 then BitVec.ofNat 64 (((die ((off - 0x180) / 8)).map fun d => d.logNext % 256).getD 0)
  else if 0x10000 ≤ off && off < 0x30000 then
    let record := ((die ((off - 0x10000) / 0x2000)).map fun d => Map.at d.log [] (off % 0x2000 / 32)).getD []
    BitVec.ofNat 64 (natOfBytes ((record.drop (off % 32)).take 8))
  else 0

/-- The status of the last scheduler command, with the page of a PAGE_FAULT. -/
def State.scmdStatus (s : State) (p status page : Nat) : State :=
  s.changePart p fun k => k.setReg regScmdStat (BitVec.ofNat 64 (bits page 55 16 * 65536 + status))

/-- The row of a scheduler command. -/
def scmdEvent (op p : Nat) (obj arg1 arg2 : Word64) : Option Instr :=
  [Instr.scmdExtend p obj arg1 arg2, .scmdPreempt p obj arg1 arg2, .scmdKill p obj arg1 arg2, .scmdResume p obj arg1 arg2,
    .scmdCancel p obj arg1 arg2, .scmdUnrecoverable p obj arg1 arg2, .scmdDiscard p obj arg1 arg2,
    .scmdRestore p obj arg1 arg2][op - 1]?

/-- A slice of the partition is not QUEUED. -/
def State.pastQueued (s : State) (p : Nat) : Bool :=
  s.slices.any fun l => s.partOfSlice l.1 = p && l.2.state != .queued && !l.2.past

/-- A write to the scheduler register block of a partition. -/
def State.writeSched (s : State) (p off x : Nat) : State :=
  let value := BitVec.ofNat 64 x
  let k := s.part p
  let set := s.changePart p fun k => k.setReg off value
  if off % 8 ≠ 0 || (Map.find s.parts p).isNone || !s.scheduled p then s
  else if off = regStageCtl then
    s.changePart p fun k => k.setReg off (BitVec.ofNat 64 (bits x 47 40 * 2 ^ 40 + bits x 37 32 * 2 ^ 32 + bits x 31 0))
  else if off = regErrCtl then
    let ceil := bits x 47 32
    let wait := bits x 21 12
    let interval := bits x 11 1
    if 1 ≤ ceil && ceil ≤ 60000 && 1 ≤ wait && wait ≤ 600 && 1 ≤ interval && interval ≤ 1440 then
      s.changePart p fun k => k.setReg off (BitVec.ofNat 64 (ceil * 2 ^ 32 + bits x 21 0))
    else s
  else if off = regSnapPool then if x % 65536 = 0 then set else s
  else if off = regRootRcb then if s.pastQueued p then s else set
  else if off = regQcap || off = regQcap + 8 then set
  else if regScmd ≤ off && off < regScmdStat then
    if bit (k.reg regScmdStat).toNat 63 then s
    else if off ≠ regScmd then set
    else
      let arg := fun i => k.reg (regScmd + 8 * i)
      match scmdEvent x p (arg 1) (arg 2) (arg 3) with
      | some i =>
        if x = 0 then set.scmdStatus p 1 0
        else (set.changePart p fun k => k.setReg regScmdStat (BitVec.ofNat 64 (2 ^ 63))).soon i
      | none => set.scmdStatus p 1 0
  else s

/-- A function-level reset waits for room (R326): what the link serialises after it waits behind it (R413). -/
def State.resetWaits (s : State) : Bool :=
  s.waiting.any fun i =>
    match i with
    | .functionLevelReset _ => true
    | _ => false

/-- REGISTER_WRITE. -/
def execRegisterWrite (space : RegSpace) (owner off : Nat) (value : Word64) (s : State) : Host.Outcome State Fault Refusal :=
  .next (if !s.awake then s
    else if s.resetWaits then { s with waiting := s.waiting ++ [.registerWrite space owner off value] }
    else
      match space with
      | .bar0 => s.writeBar owner off value.toNat
      | .sched => s.writeSched owner off value.toNat)

/-! ### Function-level reset (R413 to R415) -/

/-- The retirements of the clock of t_F are discarded: their records carry CANCELLED (R415). -/
def State.cancelOver (s : State) (fn : Nat) : State :=
  (s.overNow.filter fun x => x.1 = fn && x.2 % 16 = 0).foldl
    (fun (s : State) x => (s.devicePut (s.deviceWalker fn) (x.2 % 2 ^ 56) (completionBytes cancelledStatus 0xFF 0 s.ptime)).2) s

/-- The BUDGET reports of the clock of t_F are discarded (R415). -/
def State.dropBudget (s : State) (fn : Nat) : State :=
  let now := s.ptime
  let goes := fun r : Record => r.getD 1 0 == 0x13 && decide (natOfBytes ((r.drop 0x28).take 8) = now) && recordFn r == some fn
  { s with dies := s.dies.map fun d => (d.1, { d.2 with pending := d.2.pending.filter fun x => !goes x.2 }) }

/-- The work of a function goes at t_F (R414). -/
def State.resetWork (s : State) (fn : Nat) : State :=
  let s := (s.cancelOver fn).dropBudget fn
  let mine := (s.slices.filter fun l => l.2.fn = fn && !l.2.past).map Prod.fst
  let s := mine.foldl (fun (s : State) n => s.discardWork n) s
  { s with
    cores := s.cores.map fun c : Nat × Core => (c.1, { c.2 with sideLog := c.2.sideLog.filter fun e => e.asid ≠ fn })
    jobs := s.jobs.filter fun j => j.2.fn ≠ fn || j.2.sub.isSome }

/-- A migration of the function is over (R468). -/
def State.abortMigration (s : State) (fn : Nat) : State :=
  match (s.fn fn).mig with
  | none => s
  | some _ =>
    let low := (s.fn 0).reg regMigctl
    let s := s.changeFn fn fun f => { f with mig := none }
    if bit low 63 && bits low 22 16 = fn then s.setCommand regMigctl low false 2 else s

/-- One function reset at t_F. -/
def State.resetFn (s : State) (fn : Nat) : State :=
  let now := s.ptime
  ((s.resetWork fn).abortMigration fn).changeFn fn fun f => { f with inReset := true, resetFrom := now }

/-- The functions that a reset reaches: the physical function's reaches all (R415). -/
def resetReach (fn : Nat) : List Nat := if fn = 0 then List.range 128 else [fn]

/-- FUNCTION_LEVEL_RESET. -/
def execFunctionLevelReset (fn : Nat) (s : State) : Host.Outcome State Fault Refusal :=
  if !s.awake || 128 ≤ fn then .next s
  else if s.resetWaits then .next { s with waiting := s.waiting ++ [.functionLevelReset fn] }
  else s.orWait (.functionLevelReset fn) ((resetReach fn).foldl (fun (s : State) k => s.resetFn k) s)

/-- What a function is after a reset (R414). -/
def State.clearFn (s : State) (fn : Nat) : State :=
  let keep := fun r : Nat × Word64 => 0x80 ≤ r.1
  ({ s with
      queues := s.queues.filter fun q => q.1 / 65536 ≠ fn
      counters := s.counters.filter fun c => c.1 / 65536 ≠ fn }).changeFn fn fun f =>
    { f with inReset := false, troot := 0, regs := f.regs.filter keep, masked := true, owed := [], scrubbing := false }

/-- A command of the translation queue runs to its end before the reset completes. -/
def State.commandRuns (s : State) (fn : Nat) : Bool := (s.fn fn).scrubbing

/-- FLR_COMPLETE: within 10 ms, once what is left of its slices has retired. -/
def execFlrComplete (fn : Nat) (s : State) : Host.Outcome State Fault Refusal :=
  .next (if (s.fn fn).inReset && !s.commandRuns fn && s.slices.all (fun l => l.2.fn ≠ fn || l.2.past) then s.clearFn fn else s)

/-! ### Messages (R407) -/

/-- A message that is owed goes out. Whether the host has unmasked the function's vectors meanwhile is open: no rule says when it
does (log entry 128). -/
def State.raiseOwed (s : State) (fn : Nat) : State :=
  let owed := (s.fn fn).owed
  if (s.fn fn).masked then
    let (x, s) := s.free
    if x.getLsbD 0 then owed.foldl (fun (s : State) v => s.raise fn v) (s.changeFn fn fun f => { f with masked := false, owed := [] }) else s
  else (s.changeFn fn fun f => { f with owed := setDrop f.owed 0 }).raise fn 0

/-- MSIX_COALESCE_EXPIRE. -/
def execMsixCoalesceExpire (fn : Nat) (s : State) : Host.Outcome State Fault Refusal :=
  .next (if (s.fn fn).mayRaise s.ptime then s.raiseOwed fn else s)

/-! ### Peers (R417, R419) -/

/-- The window that holds a bus access: the physical address and the function. -/
def State.inWindow (s : State) (bus n : Nat) : Option (Nat × Nat) :=
  s.inWin.findSome? fun w =>
    let base := w.2.1.toNat
    let x := w.2.2.toNat
    if bit x 0 && base ≤ bus && bus + n ≤ base + bits x 15 1 * 65536 then some (bits x 51 16 * 65536 + (bus - base), bits x 62 56)
    else none

/-- The frames of a range are the function's, and no leaf onto them would be refused (R417, R421). -/
def State.inboundOk (s : State) (pa n fn : Nat) : Bool :=
  let tag := (s.fn fn).tenant
  pa + n ≤ frameTableBase &&
    (span (pa / 65536) ((pa + max 1 n - 1) / 65536 + 1 - pa / 65536)).all fun k =>
      let f := s.frame k
      f.tenant != 0 && f.tenant == tag && f.frameState == 0 && s.ownsFrame fn k

/-- A write to frames by no context counts for the context that claimed them (R427) and for the tracking of their function
(R464), and is preceded by the copies of the launches that declare it (R434). -/
def State.noteFrames (s : State) (pa n : Nat) : State :=
  (span (pa / 65536) ((pa + max 1 n - 1) / 65536 + 1 - pa / 65536)).foldl
    (fun (s : State) k =>
      let f := s.frame k
      let s := (s.track f.ownFn f.va).snapFrame (k * 65536)
      { s with slices := s.slices.map fun l : Nat × Slice =>
          if f.ownRcb ≠ 0 && l.2.rcb = f.ownRcb && s.partOfSlice l.1 = (s.fn f.ownFn).part && l.2.kind == .launch then
            (l.1, { l.2 with dirtyPages := setAdd l.2.dirtyPages f.va })
          else l }) s

def State.answer (s : State) (a : Option (List Byte)) : State := { s with answers := s.answers ++ [a] }

/-- A read from outside: poisoned lines answer with what the manual leaves open. -/
def State.outsiderRead (s : State) (pa n : Nat) : State :=
  if s.poisoned pa n then
    let (bs, s) := s.outsideRead n
    s.answer (some bs)
  else
    let (bs, s) := s.homeRead none pa n
    s.answer (some bs)

/-- INBOUND_ACCESS. Writes are performed in the order in which the port receives them. -/
def execInboundAccess (_port _requester : Nat) (bus : Word64) (access : BusAccess) (s : State) : Host.Outcome State Fault Refusal :=
  let n := match access with
    | .read n => n
    | .write data => data.length
  .next (match if s.awake then s.inWindow bus.toNat n else none with
    | none => s.answer none
    | some (pa, fn) =>
      if !s.inboundOk pa n fn then s.answer none
      else
        match access with
        | .read n => s.outsiderRead pa n
        | .write data => (s.noteFrames pa n).homeWrite none pa data)

/-! ### Twill (R418) -/

/-- TWILL_PLANE_FAIL and TWILL_PLANE_UP: the planes over which transfers are striped. -/
def execTwillPlaneFail (plane : Nat) (s : State) : Host.Outcome State Fault Refusal :=
  .next { s with planesDown := if plane < 18 then setAdd s.planesDown plane else s.planesDown }

def execTwillPlaneUp (plane : Nat) (s : State) : Host.Outcome State Fault Refusal :=
  .next { s with planesDown := setDrop s.planesDown plane }

/-- The partition that a request from another module asks: that of the memory, of the job, or of the function. -/
def State.askedPart (s : State) : TwillRequest → Nat
  | .read pa _ | .write pa _ => s.partOfDie (pa / (96 * 2 ^ 30))
  | .partialValue k _ => (s.fn (((Map.find s.jobs k).map fun j => j.fn).getD 0)).part
  | .unsettle fn _ => (s.fn fn).part

/-- TWILL_REMOTE_ACCESS. A module in recovery answers RECOVERING, for which no answer stands (R418). What a request finds where no
memory is, the manual leaves open. -/
def execTwillRemoteAccess (_peer : Nat) (request : TwillRequest) (s : State) : Host.Outcome State Fault Refusal :=
  .next (if s.inRecovery (s.askedPart request) then s.answer none
    else
    match request with
    | .read pa n =>
      if stored pa then s.outsiderRead pa n
      else
        let (bs, s) := s.outsideRead n
        s.answer (some bs)
    | .write pa data => if stored pa then (s.noteFrames pa data.length).homeWrite none pa data else s
    | .partialValue k data => { s with jobs := Map.change s.jobs k fun j => { j with partials := j.partials ++ [data] } }
    | .unsettle fn va =>
      match s.walk fn va with
      | (.leaf t, s) => if t.remote then s.unsettle t.leaf fn va (bits (Memory.readNat s.mem t.leaf 8) 51 42) else s
      | (_, s) => s)

end Sys2Proof.Machine
end

