-- ==== Sys2Proof/Machine/Scheduler.lean ====
section
/-! DEFINITION. The commands of the partition scheduler on slices and gangs (R455), but for RESTORE. -/

namespace Sys2Proof.Machine

/-! ### Names (R455) -/

/-- A slice name is well formed: the bits between the function and the ring index are zero. -/
def nameOk (obj : Word64) : Bool := bits obj.toNat 31 23 == 0

/-- The slice of a partition that a name stands for. -/
def State.sliceNamed (s : State) (p : Nat) (obj : Word64) : Option Nat :=
  let x := obj.toNat
  (s.slices.find? fun l =>
    s.partOfSlice l.1 = p && !l.2.past && l.2.fn = bits x 22 16 && l.2.queue = bits x 15 0 && l.2.ringIndex = x / 2 ^ 32).map Prod.fst

/-- The slices of a context, named by the address of its RCB. -/
def State.slicesUnder (s : State) (p : Nat) (obj : Word64) : List Nat :=
  (s.slices.filter fun l => s.partOfSlice l.1 = p && !l.2.past && l.2.kind == .launch && l.2.rcb = obj.toNat).map Prod.fst

/-- The gangs of a slice with a GANGID. -/
def State.gangsWith (s : State) (n : Nat) (arg : Word64) : List Nat :=
  (s.gangs.filter fun g => (s.slice n).subs.contains g.2.sub && g.2.gangId = arg.toNat).map Prod.fst

/-- The gangs that PREEMPT names: those with a GANGID, or all. -/
def State.gangsNamed (s : State) (n : Nat) (arg : Word64) : List Nat :=
  if arg == BitVec.allOnes 64 then (s.gangs.filter fun g => (s.slice n).subs.contains g.2.sub).map Prod.fst else s.gangsWith n arg

def scmdDone : Nat := 0
def scmdRefused : Nat := 1
def scmdNotFound : Nat := 2

/-- A command on a slice: refused for its operands, not found, refused for the slice's state, or done. -/
def State.onSlice (s : State) (p : Nat) (obj : Word64) (ok : Bool) (accepts : Nat → Bool) (act : Nat → State) : State :=
  if !ok || !nameOk obj then s.scmdStatus p scmdRefused 0
  else
    match s.sliceNamed p obj with
    | none => s.scmdStatus p scmdNotFound 0
    | some n => if accepts n then (act n).scmdStatus p scmdDone 0 else s.scmdStatus p scmdRefused 0

/-! ### EXTEND (R178, R358) -/

/-- A held slice gains clocks, and its gangs are released. -/
def State.extendSlice (s : State) (n clocks : Nat) : State :=
  let subs := (s.slice n).subs
  let total := min ((s.slice n).budget + clocks) (2 ^ 40 - 1)
  ({ s with gangs := s.gangs.map fun g : Nat × Gang =>
      if subs.contains g.2.sub then (g.1, { g.2 with stopped := false }) else g }).changeSlice n fun l =>
    { l with budget := total, told := false, state := .running }

/-- SCMD_EXTEND. -/
def execScmdExtend (p : Nat) (obj arg1 arg2 : Word64) (s : State) : Host.Outcome State Fault Refusal :=
  .next (s.onSlice p obj (arg1.toNat < 2 ^ 40 && arg2 == 0) (fun n => (s.slice n).state == .held)
    fun n => s.extendSlice n arg1.toNat)

/-! ### PREEMPT (R374, R375) -/

/-- A dispatched slice with no gang placed goes back to its queue: its staging ends, and its sub-launches have not
started. One that was dispatched again after a pre-emption is PREEMPTED as before: its gangs that are saved or have retired are
not touched (R350, R374, R375). -/
def State.undispatch (s : State) (n : Nat) : State :=
  let subs := (s.slice n).subs
  let s := subs.foldl (fun (s : State) u => s.endStaging u) s
  if s.gangs.any fun g => subs.contains g.2.sub && (g.2.saved.isSome || g.2.state == .retired) then
    s.changeSlice n fun l => { l with state := .preempted }
  else
  let s := { s with
    gangs := s.gangs.filter fun g => !subs.contains g.2.sub
    subs := s.subs.map fun u : Nat × Sub =>
      if subs.contains u.1 && u.2.state == SubState.started then (u.1, { u.2 with state := SubState.waiting, nextGang := 0 }) else u }
  s.changeSlice n fun l => { l with state := .queued }

/-- A pre-emption request for gangs of a slice. -/
def State.preemptSlice (s : State) (n : Nat) (arg : Word64) : State :=
  if (s.slice n).state == .dispatched then s.undispatch n
  else (s.gangsNamed n arg).foldl (fun (s : State) g => s.requestPreempt g) s

/-- SCMD_PREEMPT. -/
def execScmdPreempt (p : Nat) (obj arg1 arg2 : Word64) (s : State) : Host.Outcome State Fault Refusal :=
  let known := fun n => arg1 == BitVec.allOnes 64 || !(s.gangsNamed n arg1).isEmpty
  match s.sliceNamed p obj with
  | some n =>
    if nameOk obj && arg2 == 0 && !known n then .next (s.scmdStatus p scmdNotFound 0)
    else .next (s.onSlice p obj (arg2 == 0) (fun n => (s.slice n).live) fun n => s.preemptSlice n arg1)
  | none => .next (s.onSlice p obj (arg2 == 0) (fun _ => false) fun _ => s)

/-! ### KILL and CANCEL (R273, R355, R374) -/

/-- SCMD_KILL. Every value of ARG1[7:0] is accepted as DETAIL (log entry 109). -/
def execScmdKill (p : Nat) (obj arg1 arg2 : Word64) (s : State) : Host.Outcome State Fault Refusal :=
  s.orWait (.scmdKill p obj arg1 arg2) (s.onSlice p obj (arg1.toNat < 256 && arg2 == 0) (fun n => (s.slice n).state != .killed)
    fun n => if s.justOver n then s else s.killSlice n killedStatus 0xFF (arg1.setWidth 8))

/-- SCMD_CANCEL. -/
def execScmdCancel (p : Nat) (obj arg1 arg2 : Word64) (s : State) : Host.Outcome State Fault Refusal :=
  s.orWait (.scmdCancel p obj arg1 arg2) (s.onSlice p obj (arg1 == 0 && arg2 == 0)
    (fun n => (s.slice n).state == .queued || (s.slice n).state == .eligible || (s.slice n).state == .dispatched)
    fun n => s.killSlice n cancelledStatus 0xFF 0)

/-! ### RESUME (R333, R335) -/

/-- Where a thread of a wave stands: the slot it goes on at. -/
def State.nextPc (s : State) (u l : Nat) : Option Slot :=
  let w := s.weave u
  let t := teamOfWeave u
  let k := s.core (s.team t).core
  let filed := k.filedOf t
  let signed := (s.team t).conv.find? fun c => !w.shadow && c.2.hweave.toNat = w.weaveId && c.2.signed.getLsbD l
  let matrix := s.mats.find? fun m => m.2.weave = u && m.2.members.getLsbD l
  match s.groups.find? fun g => (g.lanes u).getLsbD l with
  | some g => some g.pc
  | none =>
    match filed.find? fun o => o.weave = u && o.lane = l with
    | some o => some o.pc
    | none =>
      match Map.find w.waits l, signed, matrix with
      | some x, _, _ => some x.pc
      | none, some c, _ => some c.2.slot
      | none, none, some m => some m.2.pc
      | none, none, none => if (w.entry.map fun m => m.getLsbD l) = some true then some w.trapPc else none

/-- What a forwarded cause finds of its weave: the slot, the address, the lanes and the trapped set (R335). -/
def State.forwarded (s : State) (g u : Nat) : Slot × Word64 × Mask × Mask :=
  let live := lanesOf (s.weave u).live
  let (pc, addr, lanes) : Slot × Word64 × Mask :=
    match (s.gang g).report with
    | some r =>
      match r.pc with
      | some pc => if r.weave = u then (pc, r.addr, r.lanes) else (((live.head?.bind fun l => s.nextPc u l).getD 0), 0, 0)
      | none => (((live.head?.bind fun l => s.nextPc u l).getD 0), 0, 0)
    | none => ((live.head?.bind fun l => s.nextPc u l).getD 0, 0, 0)
  (pc, addr, lanes, maskOf (live.filter fun l => s.nextPc u l = some pc))

/-- Steps 2 to 4 of R170 for a weave, with a forwarded cause. -/
def State.forward (s : State) (g u : Nat) (cause : Byte) (h : Slot) : State :=
  let (pc, addr, lanes, trapped) := s.forwarded g u
  (((s.unplace u trapped).changeWeave u fun w => { w with entry := none }).writeTrap u cause pc addr lanes).enterHandler u h trapped

/-- The weaves of a gang whose entry restarts at its step 3 (R333). -/
def State.restartEntries (s : State) (g : Nat) (h : Slot) : State :=
  let pending := (s.gangWeaves g).filterMap fun w => w.2.entry.map fun m => (w.1, m)
  pending.foldl
    (fun (s : State) (x : Nat × Mask) =>
      if (s.gang g).state == .parked then s
      else (s.changeWeave x.1 fun w => { w with entry := none }).enterHandler x.1 h (x.2 &&& (s.weave x.1).live)) s

/-- A parked gang runs again; its threads' watchdog counts restart. -/
def State.unpark (s : State) (g : Nat) : State :=
  let s := s.changeGang g fun k => { k with state := .running }
  let now := (s.gang g).lived
  { s with weaves := s.weaves.map fun w : Nat × Weave =>
      if (s.team (teamOfWeave w.1)).gang = g then (w.1, w.2.restart w.2.live now) else w }

/-- The weave that WEAVEID and TEAMID name in a gang: the one that parked it, where they are those of its report, which a
shadow wave has from its partner; else the compute weave (R335, R455). -/
def State.weaveNamed (s : State) (g weaveId teamId : Nat) : Option Nat :=
  let reported := (s.gang g).report.bind fun r =>
    match r.pc, Map.find s.weaves r.weave with
    | some _, some w => if w.weaveId = weaveId && r.team = teamId then some r.weave else none
    | _, _ => none
  match reported with
  | some u => some u
  | none =>
    (s.teams.find? fun t => t.2.gang = g && !t.2.ended && t.2.teamId = teamId).bind fun t =>
      if weaveId < 64 && (Map.find s.weaves (weaveUid t.1 weaveId false)).isSome then some (weaveUid t.1 weaveId false) else none

/-- SCMD_RESUME. -/
def State.resumeParked (s : State) (p : Nat) (n : Nat) (arg1 arg2 : Word64) : State :=
  let x := arg2.toNat
  let cause := x % 256
  match (s.gangsWith n arg1).find? fun g => (s.gang g).state == .parked, s.gangsWith n arg1 with
  | none, [] => s.scmdStatus p scmdNotFound 0
  | none, _ => s.scmdStatus p scmdRefused 0
  | some g, _ =>
    let handler := (s.sub (s.gang g).sub).handler
    if cause = 0 then ((s.unpark g).restartEntries g (handler.getD 0)).scmdStatus p scmdDone 0
    else
      match s.weaveNamed g (bits x 31 16) (x / 2 ^ 32), handler with
      | none, _ => s.scmdStatus p scmdNotFound 0
      | some _, none => s.scmdStatus p scmdRefused 0
      | some u, some h =>
        (((s.unpark g).forward g u (BitVec.ofNat 8 cause) h).restartEntries g h).scmdStatus p scmdDone 0

/-- A frame that the resume may have to store waits for stores that its core has logged (R317). -/
def State.resumeWaits (s : State) (n : Nat) (arg1 : Word64) : Bool :=
  (s.gangsWith n arg1).any fun g => (s.gang g).state == .parked && (s.gangWeaves g).any fun w => s.frameWaits w.1

def execScmdResume (p : Nat) (obj arg1 arg2 : Word64) (s : State) : Host.Outcome State Fault Refusal :=
  if !nameOk obj || bits arg2.toNat 15 8 ≠ 0 || 0x18 < arg2.toNat % 256 then .next (s.scmdStatus p scmdRefused 0)
  else
    match s.sliceNamed p obj with
    | none => .next (s.scmdStatus p scmdNotFound 0)
    | some n =>
      if s.resumeWaits n arg1 then .next { s with waiting := s.waiting ++ [.scmdResume p obj arg1 arg2] }
      else s.orWait (.scmdResume p obj arg1 arg2) (s.resumeParked p n arg1 arg2)

/-! ### UNRECOVERABLE (R212, R329, R330) -/

/-- The side-log entries that stand anywhere, each with its core: in the logs of the cores, or saved with its gang (R317). -/
def State.loggedEntries (s : State) : List (Nat × SideEntry) :=
  (s.cores.flatMap fun c => c.2.sideLog.map fun e => (c.1, e)) ++
    s.gangs.flatMap fun g => ((g.2.saved.map fun x => x.side).getD []).map fun e => ((s.team e.team).core, e)

/-- The copies of a context frozen on a page complete with FAULT, and its side-log entries for the page fail. -/
def State.failPage (s : State) (n page : Nat) : State :=
  let frozen := (s.copies.filter fun c => c.2.slice = n && c.2.active && c.2.frozen && c.2.pages.contains page).map Prod.fst
  let s := frozen.foldl (fun (s : State) k => s.endCopy k statusFault) s
  (s.loggedEntries.filter fun e => e.2.slice = n && e.2.page = page).foldl
    (fun (s : State) e => s.failEntry e.1 e.2 causeAccessViolation) s

/-- SCMD_UNRECOVERABLE. -/
def execScmdUnrecoverable (p : Nat) (obj arg1 arg2 : Word64) (s : State) : Host.Outcome State Fault Refusal :=
  if arg1.toNat % 65536 ≠ 0 || 2 ^ 56 ≤ arg1.toNat || arg2 != 0 then .next (s.scmdStatus p scmdRefused 0)
  else
    match s.slicesUnder p obj with
    | [] => .next (s.scmdStatus p scmdNotFound 0)
    | l => s.orWait (.scmdUnrecoverable p obj arg1 arg2) ((l.foldl (fun (s : State) n => s.failPage n arg1.toNat) s).scmdStatus p scmdDone 0)

end Sys2Proof.Machine
end

