-- ==== Sys2Proof/Machine/Images.lean ====
section
/-! DEFINITION. Checkpoint images: what a cut holds of a context and the records it becomes (R426 to R430, R432, R436). -/

namespace Sys2Proof.Machine

/-! ### What a control record stands for (R384, R426) -/

/-- The issue state and the other control state of a team, as its control record holds them. -/
def State.teamImage (s : State) (t : Nat) : TeamImage :=
  let m := s.team t
  let g := s.gang m.gang
  let mine := fun (x : Group) => x.team = t
  let saved := g.saved.getD {}
  { team := { m with tiles := [] }, gangId := g.gangId, windows := g.windows
    parked := if g.state == .parked || saved.parked then some (g.report.getD {}) else none
    window := (g.pdis.map fun p => (s.clock - p.opened, p.crit)) <|> saved.window
    crit := saved.crit
    weaves := s.weaves.filter fun w => teamOfWeave w.1 = t
    groups := (s.groups ++ saved.groups).filter mine
    filed := (s.core m.core).filedOf t ++ saved.filed.filter fun o => o.team = t
    copies := (s.copies.filter fun c => s.copyHolder c.2 = t).map fun c => { c.2 with team := t }
    side := ((s.core m.core).sideLog ++ saved.side).filter fun e => e.team = t
    jobs := (s.jobs.filter fun j => j.2.team = some t).map Prod.snd
    ctx := s.ctx (s.sub m.sub).slice }

/-- Fresh bytes for a control record, noted with what they stand for. -/
def State.controlBytes (s : State) (k : Kernel) (image : TeamImage) : List Byte × State :=
  let (bs, s) := s.freeBytes (k.ctl / 8)
  (bs, { s with controls := s.controls.filter (fun c => c.1 ≠ bs) ++ [(bs, image)] })

/-- The bytes of a queue window: its FIFOs (R384). -/
def State.queueBytes (s : State) (t : Nat) : List Byte :=
  let k := (s.site t).kernel
  if k.sh = 1 then [] else (List.range (8 * k.weaves)).flatMap fun n => s.pieceBytes t (.fifo n)

/-! ### Records (R432) -/

/-- A record with its 16-byte header. -/
def imageRecord (rtype sub flags team off : Nat) (data : List Byte) (toxic : List Nat) : ImageRecord :=
  { bytes := bytesOfNat 1 rtype ++ bytesOfNat 1 sub ++ bytesOfNat 2 flags ++ bytesOfNat 4 team ++ bytesOfNat 8 off ++ data
    toxic := toxic.map (· + 16) }

/-- The 128-byte units of a unit that is poisoned. -/
def toxicUnits (bad : Bool) (n : Nat) : List Nat := if bad then (List.range (n / 128)).map (· * 128) else []

/-- The unit that a part of a team is (R427). -/
def Piece.unit (t : Nat) : Piece → HeldUnit
  | .vreg u n => .vreg u n
  | .row key => .row t key
  | .line ln => .line ln
  | _ => .none_

/-- What a team wrote: the parts that are dirty since the last cut, or since the start. -/
structure Held where
  v : List Nat
  rows : List Nat
  lines : List Nat

/-- The parts of a team that a cut holds, in the order of the record (R427). Dead registers are absent. -/
def State.heldPieces (s : State) (t : Nat) (h : Held) : List Piece :=
  let vs := (s.weaves.filter fun w => teamOfWeave w.1 = t).flatMap fun w =>
    ((List.range 128).filter fun n => h.v.contains (w.1 * 256 + n) && !w.2.dead.contains n).map fun n => Piece.vreg w.1 n
  let rows := sortBy id ((h.rows.filter fun r => r / 4096 = t).map fun r => r % 4096)
  let lines := sortBy id (h.lines.filter fun ln => ownedBy t (ln * 128))
  vs ++ rows.map Piece.row ++ lines.map Piece.line

/-- The bytes of a part of a team and whether it is poisoned: where it stands now, or in the save area where it stands no more
(R424, R428). -/
def State.imageBytes (s : State) (t : Nat) (p : Piece) : List Byte × Bool × State :=
  let bad := s.pieceToxic t p
  if !s.inRecord t p then (s.pieceBytes t p, bad, s)
  else
    let e := s.site t
    match s.recordAddr t with
    | (.error _, s) => (s.pieceBytes t p, bad, s)
    | (.ok record, s) =>
      match s.deviceGet (s.contextWalker e.slice e.core) ((record + s.offsetOf t p) % 2 ^ 56) (p.bytes e.kernel) with
      | (.ok bs, s) => (bs, bad, s)
      | (.error m, s) => (s.pieceBytes t p, bad || m.1 = causePoison, s)

/-- The poisoned 128-byte units of a team's s registers within its record: by the registers' own poison, and for a saved team by that of
its save area (R428, R441). -/
def State.imageToxic (s : State) (t : Nat) : List Nat × State :=
  let e := s.site t
  let k := e.kernel
  let own := (s.toxicScalars t).map fun off => off / 128 * 128
  if !s.isSavedGang (s.team t).gang then (own.eraseDups, s)
  else
    match s.recordAddr t with
    | (.error _, s) => (own.eraseDups, s)
    | (.ok record, s) =>
      let r := (List.range (4 * k.weaves * k.sh)).foldl
        (fun (r : List Nat × State) i =>
          match r.2.deviceGet (r.2.contextWalker e.slice e.core) ((record + k.ctl + 128 * i) % 2 ^ 56) 128 with
          | (.error m, s) => (if m.1 = causePoison then r.1 ++ [k.ctl + 128 * i] else r.1, s)
          | (.ok _, s) => (r.1, s)) (own, s)
      (r.1.eraseDups, r.2)

/-- The records of one team: its control section, then its units, with what came about since a save (R214, R223). -/
def State.teamRecords (s : State) (t : Nat) (h : Held) : List ImageRecord × State :=
  let m := s.team t
  let sub := (s.sub m.sub).index
  if m.ended then ([imageRecord 1 sub 1 m.teamId 0 [] []], s)
  else
    let k := (s.site t).kernel
    let s := (s.settleTeam t).2
    let (ctl, s) := s.controlBytes k (s.teamImage t)
    let waves := (List.range (k.weaves * k.sh)).map fun i => s.weave (waveAt k t i)
    let (toxic, s) := s.imageToxic t
    let head := imageRecord 1 sub 0 m.teamId 0
      (ctl ++ waves.flatMap Weave.scalarBytes ++ waves.flatMap Weave.predBytes ++ s.queueBytes t) toxic
    (s.heldPieces t h).foldl
      (fun (r : List ImageRecord × State) p =>
        let (bs, bad, s) := r.2.imageBytes t p
        (r.1 ++ [{ imageRecord 2 sub 0 m.teamId (s.offsetOf t p) bs (toxicUnits bad (p.bytes k)) with unit := p.unit t }], s))
      ([head], s)

/-- The lines of the .x windows of a slice's sub-launches. No place within a team's record is theirs: they carry the
TEAMID of no team and their offset within the window. -/
def State.windowRecords (s : State) (n : Nat) (h : Held) : List ImageRecord :=
  (s.slice n).subs.flatMap fun u =>
    let x := s.sub u
    let low := onChip .chip (s.partOfSlice n) + x.xbase
    (sortBy id (h.lines.filter fun ln => low ≤ ln * 128 && ln * 128 < low + x.xsize)).map fun ln =>
      { imageRecord 2 x.index 0 (2 ^ 32 - 1) (ln * 128 - low) (Memory.readBytes s.mem (ln * 128) 128)
          (toxicUnits (s.poison.contains ln) 128) with unit := .line ln }

/-- The offsets of the poisoned lines of a frame. -/
def State.toxicFrame (s : State) (frame : Nat) : List Nat :=
  ((List.range 512).filter fun i => s.poison.contains (frame * 512 + i)).map (· * 128)

/-- A held page, from the frame that its leaf names at the cut. One whose leaf is not valid, or names a frame that the
tenant may not read, is left out (R427). -/
def State.pageRecord (s : State) (fn page : Nat) : List ImageRecord × State :=
  match s.walkChecked (s.deviceWalker fn) page with
  | (.page t, s) =>
    let pa := t.pa page
    if t.remote || paKind pa != .hbm then ([], s)
    else
      let (bs, s) := s.homeRead none pa 65536
      ([{ imageRecord 3 0 0 0 page bs (s.toxicFrame (pa / 65536)) with unit := .page page (pa / 65536) }], s)
  | (_, s) => ([], s)

/-- A job's record: its card and the bytes of DST it has written (R426). -/
def jobImage (sub : Nat) (card : List Byte) (done : Nat) : ImageRecord := imageRecord 5 sub 0 0 0 (card ++ bytesOfNat 8 done) []

/-- The JOBSUB jobs of a sub-launch's teams that run, in the order of TEAMID. -/
def State.teamJobs (s : State) (u : Nat) : List (Nat × Job) :=
  sortBy (fun x : Nat × Job => (s.team (x.2.team.getD 0)).teamId)
    (s.jobs.filter fun j => !j.2.ended && (j.2.team.map fun t => (s.team t).sub) == some u)

/-- The job records of a slice: its engine sub-launches that have started, a completed one with all it had to write, and the
JOBSUB jobs of each sub-launch's teams (R426). -/
def State.jobRecords (s : State) (n : Nat) : List ImageRecord :=
  (s.slice n).subs.flatMap fun u =>
    let x := s.sub u
    match x.kernel, x.job.bind fun k => Map.find s.jobs k with
    | none, some j => [jobImage x.index x.card (if j.ended then j.length else j.done)]
    | none, none => if x.state == .complete then [jobImage x.index x.card ({ card := x.card } : Job).length] else []
    | some _, _ => (s.teamJobs u).map fun j => jobImage x.index j.2.card j.2.done

/-- The code of a slice's state, as the state record of R466 numbers two of them. -/
def SliceState.code : SliceState → Nat
  | .queued => 0
  | .eligible => 1
  | .dispatched => 2
  | .running => 3
  | .preempted => 4
  | .held => 5
  | .killed => 6
  | .refused => 7
  | .retired => 8

/-- The slice record: the entry, the state and the budget left. -/
def State.sliceRecord (s : State) (n : Nat) : ImageRecord :=
  let l := s.slice n
  imageRecord 4 0 0 0 0 (l.entry.take 64 ++ bytesOfNat 8 l.state.code ++ bytesOfNat 8 l.budget) []

/-- The header of an image (R432). -/
def imageHeader (x : Stream) (rcb length records : Nat) : List Byte :=
  bytesOfNat 4 0x4B434E4B ++ bytesOfNat 1 (if x.full then 1 else 2) ++ bytesOfNat 1 (if x.target.coLocated then 1 else 0) ++
    bytesOfNat 2 0 ++ bytesOfNat 8 x.seq ++ bytesOfNat 8 x.baseSeq ++ bytesOfNat 8 x.cutAt ++ bytesOfNat 8 length ++
    bytesOfNat 8 rcb ++ bytesOfNat 8 records ++ bytesOfNat 8 0

/-! ### The cut (R426, R427) -/

/-- The teams of a slice, placed and ended ones, by sub-launch and TEAMID. -/
def State.imageTeams (s : State) (n : Nat) : List Nat :=
  let mine := s.teams.filter fun t => (s.slice n).subs.contains t.2.sub
  (sortBy (fun a : Nat × Team => (s.sub a.2.sub).index * 2 ^ 32 + a.2.teamId) mine).map Prod.fst

/-- The state with the matrix operations of a slice's gangs before their issue, and its waits at their slots. -/
def State.atRest (s : State) (n : Nat) : State :=
  (s.standingGangs n).foldl (fun (s : State) g => (s.withdrawAll g).withdrawWaits g) s

/-- The slices of a slice's context: it and those of the same RCB. -/
def State.contextSlices (s : State) (n : Nat) : List Nat :=
  (s.slices.filter fun l => l.1 = n || (l.2.kind == .launch && !l.2.past && s.contextKey l.1 = s.contextKey n)).map Prod.fst

/-- The pages that a slice's context wrote since its last cut (R427). -/
def State.contextPages (s : State) (n : Nat) : List Nat :=
  (s.contextSlices n).foldl (fun l m => setUnion l (s.slice m).dirtyPages) []

/-- What a slice wrote since its last cut. -/
def State.dirtOf (s : State) (n : Nat) : Held :=
  let teams := s.imageTeams n
  let chip := fun (ln : Nat) => (s.slice n).subs.any fun u =>
    let low := onChip .chip (s.partOfSlice n) + (s.sub u).xbase
    low ≤ ln * 128 && ln * 128 < low + (s.sub u).xsize
  { v := (s.weaves.filter fun w => teams.contains (teamOfWeave w.1)).flatMap fun w => w.2.dirtyV.map fun n => w.1 * 256 + n
    rows := teams.flatMap fun t => (s.team t).dirtyRows.map fun r => t * 4096 + r
    lines := s.dirtyLines.filter fun ln => chip ln || teams.any fun t => ownedBy t (ln * 128) }

/-- The context's dirty L1 lines performed: what was issued before the cut belongs to the image, wherever it stands (R425). -/
def State.performed (s : State) (n : Nat) : State :=
  let teams := (s.contextSlices n).flatMap s.imageTeams
  (s.cores.map Prod.fst).foldl (fun (s : State) c => s.writeBackWhere c fun l => l.writers.any teams.contains) s

/-- The marks of what was written go: it is held now. Tiles under a matrix operation are written again when it ends. A dead
register reads as zero from the cut on (R41), but for one that an operation in flight, whose issue the image places after the
cut, has marked (R248). -/
def State.cleanSlice (s : State) (n : Nat) : State :=
  let teams := s.imageTeams n
  let d := s.dirtOf n
  let flying := fun (t : Nat) =>
    (s.mats.filter fun m => m.2.team = t).flatMap fun m => span (m.2.tile * 64) (if m.2.pair then 128 else 64)
  let marked := fun (u : Nat) => (s.mats.filter fun m => m.2.weave = u).flatMap fun m => m.2.marked
  ({ s with
      weaves := s.weaves.map fun w : Nat × Weave =>
        if teams.contains (teamOfWeave w.1) then
          (w.1, { w.2.killDead (marked w.1) with dirtyV := [], dirtyS := false, dirtyP := false })
        else w
      teams := s.teams.map fun t : Nat × Team => if teams.contains t.1 then (t.1, { t.2 with dirtyRows := flying t.1 }) else t
      dirtyLines := s.dirtyLines.filter fun ln => !d.lines.contains ln
      slices := s.slices.map fun l : Nat × Slice =>
        if (s.contextSlices n).contains l.1 then (l.1, { l.2 with dirtyPages := [] }) else l })

/-- No instruction of some slices issues in this clock (R425, R464). -/
def State.holdClock (s : State) (which : Nat → Slice → Bool) : State :=
  { s with slices := s.slices.map fun l : Nat × Slice =>
      if which l.1 l.2 then (l.1, { l.2 with notBefore := max l.2.notBefore (s.ptime + 1) }) else l }

/-- The pages of a list, one record after another. -/
def State.pageRecords (s : State) (fn : Nat) : List Nat → List ImageRecord × State
  | [] => ([], s)
  | p :: rest =>
    let (a, s) := s.pageRecord fn p
    let (b, s) := s.pageRecords fn rest
    (a ++ b, s)

/-- The records of every team. -/
def State.allTeamRecords (s : State) (h : Held) : List Nat → List ImageRecord × State
  | [] => ([], s)
  | t :: rest =>
    let (a, s) := s.teamRecords t h
    let (b, s) := s.allTeamRecords h rest
    (a ++ b, s)

/-- Everything a cut holds of a slice, as records: those of a full image, or what was written since the last cut. The
values are those of the cut: what is first touched later is copied before (R427), so that it makes no difference when a
unit is read (log entry 122). -/
def State.capture (s : State) (n : Nat) (full : Bool) (c : Ckpt) : List ImageRecord × Ckpt × State :=
  let d := s.dirtOf n
  let dirty := s.contextPages n
  let c := { c with
    everV := setUnion c.everV d.v, everRows := setUnion c.everRows d.rows, everLines := setUnion c.everLines d.lines
    everPages := setUnion c.everPages dirty }
  let h : Held := if full then ⟨c.everV, c.everRows, c.everLines⟩ else d
  let pages := sortBy id (if full then c.everPages else dirty)
  let still := s.atRest n
  let (teams, t) := still.allTeamRecords h (s.imageTeams n)
  let s := { s with freeCtr := t.freeCtr, controls := t.controls }
  let held := ((s.performed n).pageRecords (s.slice n).fn pages).1
  ([s.sliceRecord n] ++ s.jobRecords n ++ teams ++ s.windowRecords n h ++ held, c, s.cleanSlice n)

end Sys2Proof.Machine
end

