-- ==== Sys2Proof/Machine/Checkpoint.lean ====
section
/-! DEFINITION. Incremental checkpoints and launch rollback (R422 to R431, R434, R435). -/

namespace Sys2Proof.Machine

/-! ### Contexts -/

/-- The checkpoints of a slice's context. -/
def State.ckpt (s : State) (n : Nat) : Ckpt := Map.at s.ckpts { fn := (s.slice n).fn, rcb := (s.slice n).rcb } n
def State.setCkpt (s : State) (n : Nat) (c : Ckpt) : State := { s with ckpts := Map.put s.ckpts n c }

/-- The effective CKPTDESC of a slice's context. -/
def State.descriptorAt (s : State) (n : Nat) : Nat := s.effective (s.sliceChain n) 9 0x50 8

/-! ### The target descriptor (R422, R423) -/

/-- What reading a descriptor gives. -/
inductive Descriptor where
  | met (m : Met)
  /-- a field outside R422, or a reserved bit -/
  | bad
  | ok (t : Target) (power switch : Nat) (override : Bool)
  deriving DecidableEq, Repr

/-- The fields of a descriptor lie within R422. -/
def descriptorOk (bs : List Byte) : Bool :=
  let base := fieldAt bs 0 8
  let size := fieldAt bs 8 8
  0xF4 ≤ bits base 51 44 && bits base 51 44 < 0xF8 && base < 2 ^ 52 && base % 65536 == 0 && size % 65536 == 0 && 2 ^ 24 ≤ size && fieldAt bs 0x14 1 < 4 && zeroAt bs 0x16 2 &&
    zeroAt bs 0x29 23 && (!bit (fieldAt bs 0x14 1) 1 || (1000 ≤ fieldAt bs 0x18 8 && fieldAt bs 0x18 8 ≤ 2 ^ 32))

/-- The descriptor of a context read. -/
def State.readDescriptor (s : State) (fn addr : Nat) : Descriptor × State :=
  if addr % 64 ≠ 0 then (.bad, s)
  else
    match s.deviceGet (s.deviceWalker fn) (addr % 2 ^ 56) 64 with
    | (.error m, s) => (.met m, s)
    | (.ok bs, s) =>
      if !descriptorOk bs then (.bad, s)
      else
        let every := fieldAt bs 0x15 1
        let t : Target :=
          { addr := addr, base := fieldAt bs 0 8, size := fieldAt bs 8 8, every := if every = 0 then 16 else every
            interval := if bit (fieldAt bs 0x14 1) 1 then some (fieldAt bs 0x18 8 * 1000) else none, seq := fieldAt bs 0x20 8 }
        (.ok t (fieldAt bs 0x10 2) (fieldAt bs 0x12 2) (bit (fieldAt bs 0x14 1) 0), s)

/-- SEQ of a descriptor that has no usable image. -/
def noImage : Nat := 2 ^ 64 - 1

/-- LASTSTATUS (R422). -/
def lastComplete : Byte := 1
def lastCoLocated : Byte := 2
def lastRefused : Byte := 3
def lastFailed : Byte := 4
def lastDescriptor : Byte := 5

/-- A report about a context's descriptor (R423, R431). -/
def State.descriptorReport (s : State) (c : Ckpt) (addr : Nat) (m : Met) : State :=
  let part := (s.fn c.fn).part
  s.post { kind := 2, cause := m.1, core := (s.part part).root * 160, context := c.rcb, addr := addr }

/-- LASTSTATUS written; a write that fails is lost and reported. -/
def State.writeLast (s : State) (c : Ckpt) (addr : Nat) (x : Byte) : State :=
  match s.devicePut (s.deviceWalker c.fn) ((addr + 0x28) % 2 ^ 56) [x] with
  | (.ok _, s) => s
  | (.error m, s) => s.descriptorReport c addr m

/-! ### Requests (R424, R425) -/

/-- The first whole microsecond of PTIME at or after a time. -/
def wholeMicro (t : Nat) : Nat := (t + 999) / 1000 * 1000

/-- A request registered for a slice's context may lead to a cut: it is not QUEUED, its CKPTEN is 1, and its gangs have not been
discarded (R424, R437). -/
def State.mayCheckpoint (s : State) (n : Nat) : Bool := (s.slice n).live && (s.ctx n).ckptEn && !(s.slice n).discarded

/-- How often the engine reads the descriptor of a context whose timer is off, in ns of PTIME. -/
def timerReadNs : Nat := 1000000

/-- CHECKPOINT_TIMER: it starts when the slice leaves QUEUED, or when TIMER is found set, and registers a request at each expiry
(R424). The manual does not say when the engine looks at TIMER: here when the slice leaves QUEUED, at each expiry, and each
1 ms while it is clear (log entry 43). -/
def State.runTimer (s : State) (n : Nat) : State :=
  let c := s.ckpt n
  let now := s.ptime
  let read := fun (s : State) (since : Nat) =>
    match s.readDescriptor c.fn (s.descriptorAt n) with
    | (.ok t _ _ _, s) => s.setCkpt n { c with timed := some since, interval := t.interval }
    | (_, s) => s.setCkpt n { c with timed := some since, interval := none }
  if !s.mayCheckpoint n then s
  else
    match c.timed, c.interval with
    | none, _ => read s now
    | some t, some i => if t + i ≤ now then (read s (t + i)).askCheckpoint n else s
    | some t, none => if t + timerReadNs ≤ now then read s now else s

def execCheckpointTimer (n : Nat) (s : State) : Host.Outcome State Fault Refusal := .next (s.runTimer n)

/-- A request decided on its descriptor, which is read when it is registered (R423). While an image is streamed its cut time
is chosen anew when that image ends (R424, R425). -/
def State.decideRequest (s : State) (n asked : Nat) : State :=
  let c := s.ckpt n
  let addr := s.descriptorAt n
  let finished := fun (s : State) => s.changeSlice n fun l => { l with ckptAsked := none }
  match s.readDescriptor c.fn addr with
  | (.met m, s) => finished (s.descriptorReport c addr m)
  | (.bad, s) => finished (s.writeLast c addr lastDescriptor)
  | (.ok t power switch override, s) =>
    let shared : Bool := power = s.root.power.toNat || switch = s.root.switch.toNat
    if shared && !override then finished (s.writeLast c addr lastRefused)
    else s.setCkpt n { c with decided := some ({ t with coLocated := shared }, wholeMicro (max asked c.ended + 2000)) }

/-- CHECKPOINT_REQUEST. Where CKREQ or the timer has registered none, it is the partition scheduler's request, registered now
(R424). -/
def execCheckpointRequest (n : Nat) (s : State) : Host.Outcome State Fault Refusal :=
  if (s.ckpt n).decided.isSome then .next s
  else
    match (s.slice n).ckptAsked with
    | some asked => s.ifRoom (s.decideRequest n asked)
    | none => if s.mayCheckpoint n then s.ifRoom ((s.askCheckpoint n).decideRequest n s.ptime) else .next s

/-! ### The directory and the ring of images (R431) -/

/-- A directory entry's bytes. -/
def entryBytes (x : Stream) (rcb : Nat) (status : Byte) : List Byte :=
  bytesOfNat 8 x.seq ++ bytesOfNat 1 (if x.full then 1 else 2) ++ [status] ++ bytesOfNat 6 0 ++ bytesOfNat 8 x.baseSeq ++
    bytesOfNat 8 x.cutAt ++ bytesOfNat 8 x.start ++ bytesOfNat 8 x.length ++ bytesOfNat 8 rcb ++ bytesOfNat 8 0

def State.writeEntry (s : State) (c : Ckpt) (x : Stream) (status : Byte) : State :=
  s.homeWrite none (x.target.base + 64 * (x.seq % 64)) (entryBytes x c.rcb status)

/-- Where an image stands: offset and length. -/
abbrev Extent := Nat × Nat

/-- The entry of an image that can be used: KIND, BASESEQ, TCUT, OFFSET, LENGTH. -/
structure Usable where
  seq : Nat
  full : Bool
  base : Nat
  cutAt : Nat
  start : Nat
  length : Nat
  coLocated : Bool
  deriving DecidableEq, Repr

def State.usableImage (s : State) (target seq : Nat) : Option Usable × State :=
  let (bs, s) := s.homeRead none (target + 64 * (seq % 64)) 64
  let status := fieldAt bs 9 1
  if fieldAt bs 0 8 = seq && (status = 1 || status = 2) then
    (some ⟨seq, fieldAt bs 8 1 = 1, fieldAt bs 0x10 8, fieldAt bs 0x18 8, fieldAt bs 0x20 8, fieldAt bs 0x28 8, status = 2⟩, s)
  else (none, s)

/-- The chain of an image down to its full image, which comes first; none where an image of it cannot be used. -/
def State.imageChain (s : State) (target : Nat) : Nat → Nat → Option (List Usable) × State
  | 0, _ => (none, s)
  | fuel + 1, seq =>
    match s.usableImage target seq with
    | (none, s) => (none, s)
    | (some x, s) =>
      if x.full then (some [x], s)
      else
        match s.imageChain target fuel x.base with
        | (some l, s) => (some (l ++ [x]), s)
        | (none, s) => (none, s)

/-- The start of a new image: after the last one, at the start of the ring, or after an image of the chain; none where
each place would overwrite the chain. -/
def placeImage (size at_ length : Nat) (chain : List Usable) : Option Nat :=
  ([at_, 65536] ++ chain.map fun x => x.start + x.length).find? fun a =>
    65536 ≤ a && a + length ≤ size && chain.all fun x => a + length ≤ x.start || x.start + x.length ≤ a

/-! ### The cut (R425, R430) -/

/-- A collective of the slice is in flight. -/
def State.collecting (s : State) (n : Nat) : Bool := s.jobs.any fun j => j.2.slice = n && !j.2.ended && j.2.kind = 4

/-- NOINDEP of a context (R36, R423). -/
def State.setNoIndep (s : State) (c : Ckpt) (x : Bool) : State :=
  s.changeNode (nodeKey (s.fn c.fn).part c.rcb) fun k => { k with ctx := { k.ctx with noIndep := x } }

/-- The number of the next image. -/
def Ckpt.number (c : Ckpt) (t : Target) : Nat := if t.seq = noImage then c.next else max c.next (t.seq + 1)

/-- The cut taken: what it holds becomes an image in the target's ring, or fails for want of a place. -/
def State.takeCut (s : State) (n : Nat) (t : Target) (cutAt : Nat) : State :=
  let c := s.ckpt n
  let seq := c.number t
  let (chain, s) := if t.seq = noImage then (none, s) else s.imageChain t.base 64 t.seq
  let full : Bool := c.full || seq % t.every = 0 || chain.isNone || c.lastBase != some t.base
  let (records, c, s) := s.capture n full c
  let length := 64 + (records.map fun r => r.bytes.length).sum
  let at_ := if c.lastBase = some t.base then c.at_ else 65536
  let place := placeImage t.size at_ length (chain.getD [])
  let x : Stream :=
    { target := t, seq := seq, baseSeq := if full then seq else t.seq, full := full, cutAt := cutAt, start := place.getD 0
      length := length, left := records }
  let x := { x with left := { bytes := imageHeader x c.rcb length records.length } :: records }
  let c := { c with decided := none, next := seq + 1, lastBase := some t.base }
  let mine := s.contextSlices n
  let s := (s.changeSlice n fun l => { l with ckptAsked := none }).holdClock fun m _ => mine.contains m
  match place with
  | none =>
    let now := s.ptime
    ((s.writeEntry c x 4).setCkpt n { c with full := true, ended := now }).writeLast c t.addr lastFailed
  | some a =>
    let s := if t.coLocated then s.setNoIndep c true else s
    (s.writeEntry c x 0).setCkpt n { c with stream := some x, at_ := a + length }

/-- CHECKPOINT_CUT. While a collective is in flight the cut moves to the next whole microsecond. -/
def execCheckpointCut (n : Nat) (s : State) : Host.Outcome State Fault Refusal :=
  let c := s.ckpt n
  match c.decided with
  | some (t, cutAt) =>
    if s.ptime < cutAt || c.stream.isSome then .next s
    else if !(s.slice n).live || (s.slice n).discarded then
      .next ((s.setCkpt n { c with decided := none }).changeSlice n fun l => { l with ckptAsked := none })
    else if s.collecting n then .next (s.setCkpt n { c with decided := some (t, wholeMicro (s.ptime + 1)) })
    else s.ifRoom (s.takeCut n t cutAt)
  | none => .next s

/-! ### Streaming (R430, R431) -/

/-- The cut time of a request that waited for an image is chosen when the image ends, on SEQ as it stands then (R424, R425). -/
def Ckpt.released (c : Ckpt) (now : Nat) (seq : Option (Nat × Nat)) : Option (Target × Nat) :=
  c.decided.map fun d =>
    ({ d.1 with seq := (seq.filter fun x => x.1 = d.1.addr).elim d.1.seq Prod.snd }, wholeMicro (now + 2000))

/-- The engine stops an image that has failed: its entry is marked, and the next image is full. -/
def State.failImage (s : State) (n : Nat) (c : Ckpt) (x : Stream) : State :=
  let now := s.ptime
  let c := { c with stream := none, full := true, ended := now, decided := c.released now none }
  ((s.writeEntry c x 4).setCkpt n c).writeLast c x.target.addr lastFailed

/-- A held unit has been written since the cut (R427). -/
def State.touched (s : State) (n : Nat) : HeldUnit → Bool
  | .none_ => false
  | .vreg u r => (s.weave u).dirtyV.contains r
  | .row t key => (s.team t).dirtyRows.contains key
  | .line ln => s.dirtyLines.contains ln
  | .page va _ => (s.contextPages n).contains va

/-- The offsets of a unit's poisoned 128-byte halves and lines as they stand. -/
def State.unitToxic (s : State) : HeldUnit → List Nat
  | .none_ => []
  | .vreg u r => toxicUnits ((s.weave u).poisonV.contains r) 256
  | .row t key => toxicUnits ((s.team t).poisonRows.contains key) 256
  | .line ln => toxicUnits (s.poison.contains ln) 128
  | .page _ f => s.toxicFrame f

/-- The records of an image in the order of the stream: those of units written since the cut were copied then and go first, in
the order in which they are found written (R430; log entry 122). -/
def State.streamOrder (s : State) (n : Nat) (left : List ImageRecord) : List ImageRecord :=
  let fresh := fun (r : ImageRecord) => !r.copied && s.touched n r.unit
  left.filter (fun r => r.copied) ++ (left.filter fresh).map (fun r => { r with copied := true }) ++
    left.filter fun r => !r.copied && !fresh r

/-- The poisoned offsets of a record as it is written: a unit that has not been copied takes the poison that it has come by since
the cut (R428). -/
def State.toxicNow (s : State) (r : ImageRecord) : List Nat :=
  if r.copied then r.toxic else setUnion r.toxic ((s.unitToxic r.unit).map (· + 16))

/-- A range of a target can be written: the ports' decoders map it (R416, R431). -/
def targetTakes (a n : Nat) : Bool :=
  match paKind a, paKind (a + max 1 n - 1) with
  | .cxl p, .cxl q => p = q
  | _, _ => false

/-- One record streamed to the target; units that are poisoned are written as poisoned (R428). -/
def State.streamRecord (s : State) (n : Nat) (c : Ckpt) (x : Stream) (r : ImageRecord) (rest : List ImageRecord) : State :=
  let a := x.target.base + x.start + x.written
  let size := r.bytes.length
  let toxic := s.toxicNow r
  let s := s.homeWrite none a r.bytes
  let s := { s with
    toxic := (s.toxic.filter fun z : Nat × Nat => z.1 + z.2 ≤ a || a + size ≤ z.1) ++ toxic.map fun off => (a + off, 128) }
  s.setCkpt n { c with stream := some { x with written := x.written + size, left := rest } }

/-- What is left of an image in the order of the stream; its header comes first (R432). -/
def State.leftOf (s : State) (n : Nat) (x : Stream) : List ImageRecord := if x.written = 0 then x.left else s.streamOrder n x.left

/-- CHECKPOINT_STREAM. A target write that fails stops the engine (R431). -/
def execCheckpointStream (n : Nat) (s : State) : Host.Outcome State Fault Refusal :=
  let c := s.ckpt n
  match c.stream with
  | some x =>
    if x.failed || (s.fn c.fn).inReset then s.ifRoom (s.failImage n c x)
    else
      match s.leftOf n x with
      | r :: rest =>
        if targetTakes (x.target.base + x.start + x.written) r.bytes.length then .next (s.streamRecord n c x r rest)
        else s.ifRoom (s.failImage n c x)
      | [] => .next s
  | none => .next s

/-- SEQ and LASTSTATUS of the descriptor follow the entry. Where they cannot be written the image has failed. -/
def State.endImage (s : State) (n : Nat) (c : Ckpt) (x : Stream) : State :=
  let status : Byte := if x.target.coLocated then lastCoLocated else lastComplete
  let now := s.ptime
  let s := s.writeEntry c x status
  let c := { c with stream := none, ended := now, decided := c.released now (some (x.target.addr, x.seq)) }
  match s.devicePut (s.deviceWalker c.fn) ((x.target.addr + 0x20) % 2 ^ 56) (bytesOfNat 8 x.seq ++ [status]) with
  | (.ok _, s) =>
    let s := if x.target.coLocated then s else s.setNoIndep c false
    s.setCkpt n { c with full := false }
  | (.error m, s) =>
    ((s.writeEntry c x 4).setCkpt n { c with full := true, decided := c.released now none }).descriptorReport c x.target.addr m

/-- CHECKPOINT_IMAGE_COMPLETE. -/
def execCheckpointImageComplete (n : Nat) (s : State) : Host.Outcome State Fault Refusal :=
  let c := s.ckpt n
  match c.stream with
  | some x => if x.left.isEmpty && !x.failed then s.ifRoom (s.endImage n c x) else .next s
  | none => .next s

/-! ### Launch rollback (R434, R435) -/

/-- The snapshots of a slice copied back to their pages, with their poison (R441); nothing of the pages stays in an L1. -/
def State.copyBack (s : State) (n : Nat) : State :=
  let l := s.slice n
  let inside := fun (a : Nat) => l.snapPages.any fun f => f ≤ a && a < f + 65536
  let s := { s with
    mem := (l.snapshot.foldl (fun m x => Memory.write m x.1 x.2) (s.mem.filter fun x => !inside x.1))
    poison := (s.poison.filter fun ln => !inside (ln * 128)) ++ l.snapPoison
    cores := s.cores.map fun c : Nat × Core => (c.1, { c.2 with l1 := c.2.l1.filter fun x => !inside (x.1 * 128) }) }
  l.snapPages.foldl (fun (s : State) f => s.track l.fn (s.frame (f / 65536)).va) s

/-- Every gang and job of a slice gone without a save, as if its bundle had not started. -/
def State.abandon (s : State) (n : Nat) : State :=
  let subs := (s.slice n).subs
  let teams := (s.teams.filter fun t => subs.contains t.2.sub).map Prod.fst
  let s := (teams.filter fun t => !(s.team t).ended).foldl (fun (s : State) t => s.clearTeam t) s
  let s := subs.foldl (fun (s : State) u => s.endStaging u) s
  let s := ((s.gangs.filter fun g => subs.contains g.2.sub).map Prod.fst).foldl (fun (s : State) g => s.releaseGang g) s
  { s with
    teams := s.teams.filter fun t => !teams.contains t.1
    gangs := s.gangs.filter fun g => !subs.contains g.2.sub
    copies := s.copies.filter fun c => c.2.slice ≠ n
    jobs := s.jobs.filter fun j => j.2.slice ≠ n
    cores := s.cores.map fun c : Nat × Core => (c.1, { c.2 with sideLog := c.2.sideLog.filter fun e => e.slice ≠ n })
    subs := s.subs.map fun u : Nat × Sub =>
      if subs.contains u.1 then
        (u.1, { u.2 with state := .waiting, nextGang := 0, gangsDone := 0, killed := false, job := none })
      else u }

/-- The launch is rolled back: it waits in its queue again with its full budget. -/
def State.rollback (s : State) (n : Nat) : State :=
  let l := s.slice n
  let s := (s.copyBack n).abandon n
  let s := s.setCkpt n { s.ckpt n with full := true, timed := none, interval := none }
  s.changeSlice n fun k =>
    { k with
      state := .queued, budget := fieldAt l.entry 0x10 8 % 2 ^ 40, left := fieldAt l.entry 0x10 8 % 2 ^ 40, told := false
      failure := none, rollbacks := k.rollbacks + 1, irrevocable := false, snapshot := [], snapPages := [], snapPoison := [], setUp := false }

/-- The launch declares that it writes. -/
def State.declaresWrites (s : State) (n : Nat) : Bool := (s.slice n).subs.any fun u => (s.sub u).footprint.any fun r => r.write

/-- The sub-launch whose gang consumed poison. -/
def State.poisonedSub (s : State) (n : Nat) : Option Nat :=
  (s.gangs.find? fun g =>
    (s.slice n).subs.contains g.2.sub && g.2.state == .parked && (g.2.report.map fun r => r.cause) == some causePoison).map fun g => g.2.sub

/-- LAUNCH_ROLLBACK. -/
def execLaunchRollback (n : Nat) (s : State) : Host.Outcome State Fault Refusal :=
  match s.poisonedSub n with
  | some u =>
    let l := s.slice n
    if s.declaresWrites n && !l.irrevocable && l.rollbacks < 2 then .next (s.rollback n)
    else s.ifRoom (s.killSlice n poisonKilled (s.sub u).index causePoison)
  | none => .next s

end Sys2Proof.Machine
end

