-- ==== Sys2Proof/Machine/Coordinate.lean ====
section
/-! DEFINITION. Group 0xC: barriers, sharing groups, queue windows and lazy tasks (R224 to R238). -/

namespace Sys2Proof.Machine

/-! ### Barriers (R225 to R230) -/

/-- The gate of a release by one weave (R193, R310, R328): it traps for a failed entry, or waits for a pending one. -/
def State.gateOne (s : State) (u : Nat) (act : Mask) : Option One :=
  match (s.weave u).unlearnt act with
  | x :: _ =>
    some (.trap (s.changeWeave u fun w => { w with failures := w.failures.erase x }) ⟨u, x.1, BitVec.ofNat 64 x.2.1, x.2.2⟩)
  | [] =>
    if (s.core (s.site (teamOfWeave u)).core).sideLog.any fun q => q.writtenBy u act then some (.wait s)
    else none

/-- The barrier object of a weave, under checks 1 to 3 of R189 and the comparison (R225, R289): its cell. -/
def barrierCell (f : Fields) (s : State) (g : Group) (u : Nat) (act : Mask) : Except One (Nat × State) :=
  let e := s.site g.team
  let x : Access :=
    { weave := u, lane := (lanesOf act).headD 0, lanes := act, addr := accessAddr f (s.weave u) f.t.toNat 0, bytes := 16 }
  match s.checkAccesses e f.t.toNat 16 .update false g.pc [x] with
  | .trap s (q :: _) => .error (.trap s q)
  | .pass s ((_, .cell a) :: _) => .ok (a, s)
  | .trap s _ | .pass s _ => .error (.wait s)
  | .stall => .error (.wait s)

/-- What an arrival's release writes back: on .c its scope is .group (R230, R314). -/
def State.arriving (s : State) (space core : Nat) : State := if space = spaceC then s.releaseEagerly core else s

/-- What a wait's acquire discards: on .c its scope is .group (R230, R315). -/
def State.awaited (s : State) (space core : Nat) : State := if space = spaceC then s.discardClean core false else s

/-- GEN as an arrival returns it: before the update, or 0xF where the update broke the barrier (R228). -/
def genBefore (old new : Barrier) : Nat := if new.broken then 15 else old.gen

/-- One update of the object at a cell; GEN as it stood before. -/
def State.arriveAt (s : State) (cell : Nat) (g : Barrier → Barrier) : Nat × State :=
  let old := s.barrier cell
  (genBefore old (g old), s.updateBarrier cell g)

/-- Arrivals one lane after another, each with count 1: GEN before each (R228). -/
def State.arriveLanes (s : State) (cell : Nat) : List Nat → List (Nat × Nat) × State
  | [] => ([], s)
  | l :: rest =>
    let (gen, s) := s.arriveAt cell fun b => b.arrive 1
    let (more, s) := s.arriveLanes cell rest
    ((l, gen) :: more, s)

/-- The count of an arrival: 1 when B is ZERO (R228). -/
def arrivalCount (f : Fields) (w : Weave) : Nat := if f.b = .zero then 1 else (w.opnd f f.b 0).toNat

def binitOne (f : Fields) (s : State) (g : Group) (u : Nat) (act : Mask) : One :=
  match barrierCell f s g u act with
  | .error o => o
  | .ok (cell, s) =>
    let n := ((s.weave u).opnd f f.b 0).toNat
    if n = 0 ∨ 2 ^ 20 ≤ n then
      .trap s ⟨u, causeIllegalOperand, BitVec.ofNat 64 (accessAddr f (s.weave u) f.t.toNat 0), act⟩
    else .ok (s.putOnChip cell (bytesOfNat 16 (Barrier.start n).toNat))

def barrOne (f : Fields) (s : State) (g : Group) (u : Nat) (act : Mask) : One :=
  match barrierCell f s g u act with
  | .error o => o
  | .ok (cell, s) =>
    match s.gateOne u act with
    | some o => o
    | none =>
      let s := s.arriving f.t.toNat (s.site g.team).core
      if f.x then
        let (gens, s) := s.arriveLanes cell (lanesOf act)
        let at_ := fun l => BitVec.ofNat 64 (Map.at gens 0 l)
        .ok (s.changeWeave u fun w => w.dest f.d act at_ (at_ ((lanesOf act).headD 0)))
      else
        let count := arrivalCount f (s.weave u)
        let (gen, s) := s.arriveAt cell fun b => b.arrive count
        giveOne f s u act (BitVec.ofNat 64 gen)

def barrxOne (f : Fields) (s : State) (g : Group) (u : Nat) (act : Mask) : One :=
  match barrierCell f s g u act with
  | .error o => o
  | .ok (cell, s) =>
    match s.gateOne u act with
    | some o => o
    | none =>
      let s := s.arriving f.t.toNat (s.site g.team).core
      let w := s.weave u
      let units := ((w.opnd f f.c 0).toNat % 2 ^ 32 + 127) / 128
      let (gen, s) := s.arriveAt cell fun b => b.expect (f.rm == 1) units (arrivalCount f w)
      giveOne f s u act (BitVec.ofNat 64 gen)

/-- BWAIT's value given: one other than its phase acquires (R229, R230). -/
def bwaitGives (f : Fields) (s : State) (g : Group) (u : Nat) (act : Mask) (gen : Nat) : One :=
  let moved : Bool := gen != ((s.weave u).opnd f f.b 0).toNat % 16
  let s := s.changeWeave u fun w => w.leaveWait (waitKey g.pc act)
  giveOne f (if moved then s.awaited f.t.toNat (s.site g.team).core else s) u act (BitVec.ofNat 64 gen)

/-- BWAIT at a barrier whose checks it has passed: a broken one is returned at once (R302). -/
def bwaitAt (f : Fields) (s : State) (g : Group) (u : Nat) (act : Mask) (cell : Nat) : One :=
  let gen := (s.barrier cell).gen
  if gen ≠ ((s.weave u).opnd f f.b 0).toNat % 16 ∨ gen = 15 then bwaitGives f s g u act gen
  else .wait (s.parkOn g u (waitKey g.pc act) (g.lanes u) cell)

/-- BWAIT (R229). A wait that stands has passed its checks and does not repeat them (R283); one on the contribution of a team
that ended returns 0xF (R272). -/
def bwaitOne (f : Fields) (s : State) (g : Group) (u : Nat) (act : Mask) : One :=
  let key := waitKey g.pc act
  match Map.find (s.weave u).bwaits key with
  | some (_, true) => bwaitGives f s g u act 15
  | some (cell, false) =>
    if s.poisoned cell 16 then
      .trap (s.changeWeave u fun w => w.leaveWait key)
        ⟨u, causePoison, BitVec.ofNat 64 (accessAddr f (s.weave u) f.t.toNat 0), act⟩
    else bwaitAt f s g u act cell
  | none =>
    match barrierCell f s g u act with
    | .error o => o
    | .ok (cell, s) => bwaitAt f s g u act cell

def btestOne (f : Fields) (s : State) (g : Group) (u : Nat) (act : Mask) : One :=
  match barrierCell f s g u act with
  | .error o => o
  | .ok (cell, s) =>
    let b := s.barrier cell
    let moved : Bool := b.gen != ((s.weave u).opnd f f.b 0).toNat % 16
    let s := if moved then s.awaited f.t.toNat (s.site g.team).core else s
    giveOne f s u act (BitVec.ofNat 64 (b.gen + b.pending * 2 ^ 4 + (if moved then 2 ^ 24 else 0)))

/-! ### Sharing groups (R231) -/

/-- Threads of a wave stand at the slot of a wait. -/
def State.threadsAt (s : State) (u key : Nat) : Bool :=
  s.groups.any fun g => g.pc.toNat = key / 2 ^ 32 && g.lanes u &&& BitVec.ofNat 32 key != 0

/-- A wait on a place of the cluster window that a team reaches through its mappings, or that lies in its contribution: an access
that has passed check 3 and has not completed, be it of BWAIT, SYNCT or WAITV (R202, R283). -/
def State.mappedWait (s : State) (t : Nat) : Bool :=
  s.weaves.any fun w =>
    let mine := fun (cell : Nat) =>
      match ownerOf cell with
      | some (r, o) => r = Region.cluster.code && (teamOfWeave w.1 = t || o = t)
      | none => false
    (w.2.bwaits.any fun x => mine x.2.1 && !x.2.2 && s.threadsAt w.1 x.1) || w.2.waits.any fun x => mine (x.2.line / 4096 * 128)

/-- CJOIN or CLEAVE. A leaver first waits for the accesses through its mappings (R231, R283). -/
def memberOne (f : Fields) (joins : Bool) (s : State) (g : Group) (u : Nat) (act : Mask) : One :=
  if !joins && (s.team g.team).joined && s.mappedWait g.team then .wait s
  else
    let s := s.membership g.team joins
    giveOne f s u act (s.cgen g.team)

/-- CGEN; with .wait it parks the weave (R231). -/
def cgenOne (f : Fields) (s : State) (g : Group) (u : Nat) (act : Mask) : One :=
  let x := s.cgen g.team
  let key := waitKey g.pc act
  if f.x && x.toNat / 2 ^ 32 % 2 ^ 16 = ((s.weave u).opnd f f.a 0).toNat % 2 ^ 16 then .wait (s.parkOn g u key (g.lanes u) 0)
  else giveOne f (s.changeWeave u fun w => w.leaveWait key) u act x

/-! ### The queue window (R232 to R234) -/

def queueNamed : Operand → Option Nat
  | .q n => some n.toNat
  | _ => none

/-- The key of a FIFO of a pair. -/
def fifoKey (w : Weave) (n : Nat) : Nat := w.weaveId * 8 + n

def State.fifo (s : State) (t key : Nat) : List Lanes := Map.at (s.team t).fifos [] key

def State.setFifo (s : State) (t key : Nat) (q : List Lanes) : State :=
  s.changeTeam t fun m => { m with fifos := Map.put m.fifos key q, savedFifos := setAdd m.savedFifos key }

/-- The shadow wave writes q0 to q3 and its compute weave q4 to q7. -/
def Weave.writesFifo (w : Weave) (n : Nat) : Bool := if w.shadow then n < 4 else 4 ≤ n

/-- A queue-window trap; no rule gives its address. -/
def queueTrap (s : State) (u : Nat) (act : Mask) : One :=
  let (a, s) := s.free
  .trap s ⟨u, causeQueueWindow, a, act⟩

/-- The partner wave has exited. -/
def State.partnerGone (s : State) (u : Nat) : Bool := (s.weave (partnerOf u)).live == 0

def qsendOne (f : Fields) (s : State) (g : Group) (u : Nat) (act : Mask) : One :=
  let w := s.weave u
  let n := (queueNamed f.d).getD 0
  let key := fifoKey w n
  let q := s.fifo g.team key
  if !w.writesFifo n then queueTrap s u act
  else if s.claimHolds g.team (.fifo key) then .wait s
  else if 4 ≤ q.length then (if s.partnerGone u then queueTrap s u act else .wait s)
  else
    match s.gateOne u act with
    | some o => o
    | none =>
      let entry : Lanes := (List.range 32).map fun l => if act.getLsbD l then w.opnd f f.a l else 0
      .ok (s.setFifo g.team key (q ++ [entry]))

def qrecvOne (f : Fields) (s : State) (g : Group) (u : Nat) (act : Mask) : One :=
  let w := s.weave u
  let n := (queueNamed f.a).getD 0
  let key := fifoKey w n
  if w.writesFifo n then queueTrap s u act
  else if s.claimHolds g.team (.fifo key) then .wait s
  else
    match s.fifo g.team key with
    | [] => if s.partnerGone u then queueTrap s u act else .wait s
    | entry :: rest =>
      .ok ((s.setFifo g.team key rest).changeWeave u fun w => w.dest f.d act (fun l => entry.getD l 0) 0)

def qpeekOne (f : Fields) (s : State) (g : Group) (u : Nat) (act : Mask) : One :=
  let key := fifoKey (s.weave u) ((queueNamed f.a).getD 0)
  let n := (s.fifo g.team key).length
  if s.claimHolds g.team (.fifo key) then .wait s
  else giveOne f s u act (if f.t = 0 then (if n = 0 then 0 else 1) else (if n < 4 then 1 else 0))

/-! ### Lazy tasks (R235 to R238) -/

/-- The marker accesses of the active lanes: lane by lane the index, and its place where the slice holds it. -/
def State.markers (s : State) (g : Group) (f : Fields) : List (Nat × Nat × Nat) :=
  (s.activeLanes g f).map fun x => (x.1, x.2, ((s.weave x.1).opnd f f.a x.2).toNat)

/-- Traps of lanes by weave, at an address that no rule gives. -/
def openTraps (s : State) (cause : Byte) (lanes : List (Nat × Nat × Nat)) : State × List TrapReq :=
  let (a, s) := s.free
  (s, ((lanes.map Prod.fst).eraseDups).map fun u =>
    ⟨u, cause, a, maskOf ((lanes.filter fun x => x.1 = u).map fun x => x.2.1)⟩)

/-- The checks of marker indices (R235), then those of R189 on the markers. -/
def State.checkMarkers (s : State) (g : Group) (f : Fields) (need : Need) : Checked :=
  let e := s.site g.team
  let size := e.kernel.sliceBytes
  let all := s.markers g f
  let high := all.filter fun x => 63 < x.2.2
  let outside := all.filter fun x => size < 16 * (x.2.2 + 1)
  if !high.isEmpty then
    let (s, qs) := openTraps s causeIllegalOperand high
    .trap s qs
  else if !outside.isEmpty then
    let (s, qs) := openTraps s causeStackBounds outside
    .trap s qs
  else
    s.checkListed false e spaceL 16 need false g.pc (all.map fun x =>
      { weave := x.1, lane := x.2.1, lanes := laneBit x.2.1, addr := size - 16 * (x.2.2 + 1), bytes := 16 })

/-- SPAWN (R235). -/
def spawnBody (f : Fields) : Body := fun s g =>
  match s.checkMarkers g f .write with
  | .stall => .stall
  | .trap s reqs => .traps s g reqs
  | .pass s places =>
    let slot := (g.pc + f.imm.signExtend 40).toNat
    .done (places.foldl
      (fun s x =>
        match x.2 with
        | .cell a =>
          let frame := ((s.weave x.1.weave).opnd f f.b x.1.lane).toNat
          s.putOnChip a (bytesOfNat 8 (2 ^ 63 + slot) ++ bytesOfNat 8 frame)
        | _ => s) s) g.next

/-- The cell of marker j of a thread. -/
def markerCell (size u l j : Nat) : Nat := onChip .slice (u * 32 + l) + (size - 16 * (j + 1))

/-- The lanes of home weave n that were launched (R258). -/
def Kernel.launched (k : Kernel) (n : Nat) : Mask := maskOf ((List.range 32).filter fun l => n * 32 + l < k.teamThreads)

/-- The threads a thief scans: those of its group's members in (TEAMID, THREADID) order, cyclically from after the thief. A
thread that has exited leaves its markers to be stolen (R271). -/
def State.victims (s : State) (e : Site) (u l : Nat) : List (Nat × Nat) :=
  let teams := (List.range 32).filterMap fun k =>
    if (s.window e).members.getLsbD k then s.teamAt e.gang (s.groupIndex e.team k) else none
  let all := teams.flatMap fun t =>
    (List.range e.kernel.weaves).flatMap fun n =>
      (lanesOf (e.kernel.launched n)).map fun lane => (weaveUid t n false, lane)
  let after := all.dropWhile fun x => x != (u, l)
  after.drop 1 ++ all.takeWhile fun x => x != (u, l)

/-- The valid marker of lowest index of a thread. -/
def State.validMarker (s : State) (size : Nat) (x : Nat × Nat) : Option Nat :=
  (List.range (min 64 (size / 16))).find? fun j => bit (Memory.readNat s.mem (markerCell size x.1 x.2 j) 8) 63

/-- STEAL of one lane whose record goes to a checked cell (R236). -/
def State.stealOne (s : State) (f : Fields) (e : Site) (u l off cell : Nat) : State :=
  let size := e.kernel.sliceBytes
  let found := (s.victims e u l).findSome? fun x => (s.validMarker size x).map fun j => (x, j)
  let flag := fun (s : State) (b : Bool) =>
    s.changeWeave u fun w => w.dest f.c (laneBit l) (fun _ => if b then 1 else 0) 0
  match found with
  | none => flag s false
  | some (x, j) =>
    let at_ := markerCell size x.1 x.2 j
    let victim := (s.team (teamOfWeave x.1)).teamId * 2 ^ 32 + (s.weave x.1).weaveId * 32 + x.2
    let record := bytesOfNat 8 (Memory.readNat s.mem at_ 5) ++ Memory.readBytes s.mem (at_ + 8) 8 ++ bytesOfNat 8 victim ++
      bytesOfNat 8 1 ++ List.replicate 32 0
    let s := s.putOnChip cell record
    let s := s.putOnChip at_ (bytesOfNat 8 (2 ^ 62 + off % 2 ^ 40))
    (flag s true).changeWeave u fun w => w.dest f.d (laneBit l) (fun _ => BitVec.ofNat 64 off) 0

/-- STEAL. Its record is checked under R189; it is not among the accesses that R289 compares with copies. -/
def stealBody (f : Fields) : Body := fun s g =>
  let e := s.site g.team
  let accs := (s.activeLanes g f).map fun x =>
    ({ weave := x.1, lane := x.2, lanes := laneBit x.2, addr := ((s.weave x.1).opnd f f.a x.2).toNat, bytes := 64 } : Access)
  match s.checkListed false e spaceC 64 .write false g.pc accs with
  | .stall => .stall
  | .trap s reqs => .traps s g reqs
  | .pass s places =>
    .done (places.foldl
      (fun s x =>
        match x.2 with
        | .cell a => s.stealOne f e x.1.weave x.1.lane x.1.addr a
        | _ => s) s) g.next

/-- The state of a marker (R235). -/
structure Marker where
  valid : Bool
  stolen : Bool
  target : Nat
  deriving DecidableEq, Repr

def State.marker (s : State) (a : Nat) : Marker :=
  let n := Memory.readNat s.mem a 8
  { valid := bit n 63, stolen := bit n 62, target := n % 2 ^ 40 }

def Place.cell? : Place → Option Nat
  | .cell a => some a
  | _ => none

/-- A lane's wait in SYNCT that stands: the cell of COUNT, whose checks it has passed (R283). -/
def State.synctWait (s : State) (g : Group) (u l : Nat) : Option Nat :=
  (Map.find (s.weave u).bwaits (waitKey g.pc (laneBit l))).map Prod.fst

/-- The waits of the lanes that go on waiting, and only those, stand (R237). -/
def State.keepWaits (s : State) (g : Group) (f : Fields) (cell : Nat → Nat → Option Nat) : State :=
  (s.activeLanes g f).foldl
    (fun (s : State) x =>
      let key := waitKey g.pc (laneBit x.2)
      match cell x.1 x.2 with
      | some a => s.parkOn g x.1 key (laneBit x.2) a
      | none => s.changeWeave x.1 fun w => w.leaveWait key) s

/-- SYNCT (R237). Each lane acts for itself: those that wait stay at the slot. Its accesses are not among those that R289
compares with copies. -/
def synctBody (f : Fields) : Body := fun s g =>
  let e := s.site g.team
  match s.checkMarkers g f .update with
  | .stall => .stall
  | .trap s reqs => .traps s g reqs
  | .pass s places =>
    let marks := places.filterMap fun x => (x.2.cell?).map fun a => (x.1, a, s.marker a)
    let stolen := marks.filter fun x => x.2.2.stolen
    let fresh := stolen.filter fun x => (s.synctWait g x.1.weave x.1.lane).isNone
    let counts := fresh.map fun x => ({ x.1 with addr := x.2.2.target + 0x18, bytes := 8 } : Access)
    match s.checkListed false e spaceC 8 .read false g.pc counts with
    | .stall => .stall
    | .trap s reqs => .traps s g reqs
    | .pass s reads =>
      let at_ := fun (u l : Nat) =>
        match reads.find? fun r => r.1.weave = u && r.1.lane = l with
        | some r => r.2.cell?
        | none => if stolen.any fun x => x.1.weave = u && x.1.lane = l then s.synctWait g u l else none
      let cell := fun (u l : Nat) => (at_ u l).filter fun a => Memory.readNat s.mem a 8 != 0
      let waits := fun (u l : Nat) => (cell u l).isSome
      let s := s.keepWaits g f cell
      let gone := fun u => maskOf ((lanesOf (g.lanes u)).filter (waits u))
      let ended := marks.filter fun x => !waits x.1.weave x.1.lane
      let s := if ended.any fun x => x.2.2.stolen then s.discardClean e.core false else s
      let s := ended.foldl
        (fun s x => if x.2.2.valid || x.2.2.stolen then s.putOnChip x.2.1 (List.replicate 16 0) else s) s
      let took := fun u l => ended.any fun x => x.1.weave = u && x.1.lane = l && x.2.2.stolen
      let s := s.eachWeave g fun u m w => w.dest f.d (w.active f m &&& ~~~gone u) (fun l => if took u l then 1 else 0) 0
      let rest := g.without fun u => ~~~(gone u)
      if rest.members.isEmpty then .done s g.next else .trap s [] [(g.without gone).at_ (g.pc + 1), rest]

def execBinit (f : Fields) : State → Host.Outcome State Fault Refusal := run (.binit f) f (weaveForm f (binitOne f))
def execBarr (f : Fields) : State → Host.Outcome State Fault Refusal := run (.barr f) f (weaveForm f (barrOne f))
def execBarrx (f : Fields) : State → Host.Outcome State Fault Refusal := run (.barrx f) f (weaveForm f (barrxOne f))
def execBwait (f : Fields) : State → Host.Outcome State Fault Refusal := run (.bwait f) f (weaveForm f (bwaitOne f))
def execBtest (f : Fields) : State → Host.Outcome State Fault Refusal := run (.btest f) f (weaveForm f (btestOne f))
def execCjoin (f : Fields) : State → Host.Outcome State Fault Refusal := run (.cjoin f) f (weaveForm f (memberOne f true))
/-- CLEAVE: of the accesses through the mappings only waits can be under way when it issues (R283). -/
def execCleave (f : Fields) : State → Host.Outcome State Fault Refusal := run (.cleave f) f (weaveForm f (memberOne f false))
def execCgen (f : Fields) : State → Host.Outcome State Fault Refusal := run (.cgen f) f (weaveForm f (cgenOne f))
def execQsend (f : Fields) : State → Host.Outcome State Fault Refusal := run (.qsend f) f (weaveForm f (qsendOne f))
def execQrecv (f : Fields) : State → Host.Outcome State Fault Refusal := run (.qrecv f) f (weaveForm f (qrecvOne f))
def execQpeek (f : Fields) : State → Host.Outcome State Fault Refusal := run (.qpeek f) f (weaveForm f (qpeekOne f))
def execSpawn (f : Fields) : State → Host.Outcome State Fault Refusal := run (.spawn f) f (spawnBody f)
def execSteal (f : Fields) : State → Host.Outcome State Fault Refusal := run (.steal f) f (stealBody f)
def execSynct (f : Fields) : State → Host.Outcome State Fault Refusal := run (.synct f) f (synctBody f)

end Sys2Proof.Machine
end

