-- ==== Sys2Proof/Machine/CrossLane.lean ====
section
/-! DEFINITION. Group 0x6: moving values between lanes, comparing lanes and combining them (R149 to R161). -/

namespace Sys2Proof.Machine

/-! ### PERM, BCAST and SHFL (R154, R155) -/

/-- The fill value of a sub-element (R154). -/
def fillOf (f : Fields) : Nat := if f.x then (f.imm.signExtend 64).toNat % 2 ^ f.width.bits else 0

/-- A source position by an index byte: lane and sub-element (R155). -/
def bySelector (f : Fields) (i : Nat) : Int × Nat := ((bits i 7 3 : Nat), i % 8 % f.width.count)

/-- `src` of PERM. -/
def permSource (f : Fields) (x : Weave) (l k : Nat) : Int × Nat :=
  bySelector f (elem (x.opnd f f.b l) f.width.bits k % 256)

/-- `src` of BCAST. -/
def bcastSource (f : Fields) (x : Weave) (_l _k : Nat) : Int × Nat := bySelector f ((x.opnd f f.b 0).toNat % 256)

/-- `src` of SHFL. -/
def shflSource (f : Fields) (x : Weave) (l k : Nat) : Int × Nat :=
  let d := (x.opnd f f.b l).toNat % 32
  let sl : Int :=
    if f.rm = 0 then ((l + d : Nat) : Int) else if f.rm = 1 then (l : Int) - d
    else if f.rm = 2 then ((l ^^^ d : Nat) : Int) else (((l + d) % 32 : Nat) : Int)
  (sl, k)

/-- A lane of the set `m` supplies its values (R150). -/
def supplies (x : Weave) (m : Mask) (sl : Int) : Bool := 0 ≤ sl && (m &&& x.live).getLsbD sl.toNat

/-- The shared body of the moves: the result of a lane, and whether it took the fill (R154). -/
def movedLane (f : Fields) (src : Fields → Weave → Nat → Nat → Int × Nat) (x : Weave) (m : Mask) (l : Nat) : Word64 × Bool :=
  let w := f.width.bits
  let one := fun k =>
    let (sl, sk) := src f x l k
    if supplies x m sl then elem (x.opnd f f.a sl.toNat) w sk else fillOf f
  (packElems w one f.width.count, (List.range f.width.count).any fun k => !supplies x m (src f x l k).1)

/-- The body of PERM, BCAST and SHFL. -/
def moveBody (f : Fields) (src : Fields → Weave → Nat → Nat → Int × Nat) : Body := fun s g =>
  .done (s.eachWeave g fun _ m x =>
    let act := x.active f m
    let y := x.dest f.d act (fun l => (movedLane f src x m l).1) 0
    if f.t = 0 then y else y.pwrite (f.t.toNat - 1) act fun l => (movedLane f src x m l).2) g.next

/-! ### VOTE and MATCH (R156, R157) -/

/-- The ballot of the active lanes. -/
def ballot (f : Fields) (x : Weave) (act : Mask) : Mask := maskOf ((lanesOf act).filter fun l => x.opnd f f.a l != 0)

/-- VOTE in one weave. -/
def voteValue (f : Fields) (x : Weave) (act : Mask) : Word64 :=
  let b := ballot f x act
  if f.t = 0 then b.setWidth 64
  else if f.t = 1 then boolWord (b == act)
  else if f.t = 2 then boolWord (b != 0)
  else boolWord (b == 0 || b == act)

/-- The key of a lane. -/
def matchKey (f : Fields) (x : Weave) (l : Nat) : Nat := elem (x.opnd f f.a l) f.width.bits 0

/-- MATCH in one lane. -/
def matchValue (f : Fields) (x : Weave) (act : Mask) (l : Nat) : Word64 :=
  let same := maskOf ((lanesOf act).filter fun j => matchKey f x j == matchKey f x l)
  if f.t = 0 then same.setWidth 64 else boolWord (same == act)

/-! ### REDUCE and SCAN (R66, R67, R158 to R161) -/

/-- A full binary tree over 2^d positions from `low` on (R66). -/
def treeOf (op : Nat → Nat → Nat) (val : Nat → Nat) : Nat → Nat → Nat
  | 0, low => val low
  | d + 1, low => op (treeOf op val d low) (treeOf op val d (low + 2 ^ d))

/-- The floating format of T and W (R160). -/
def combineFmt (f : Fields) : FloatFmt :=
  if 12 ≤ f.t.toNat then b16Fmt else match f.width with
    | .d => f64Fmt
    | .w => f32Fmt
    | _ => h16Fmt

/-- The identity of the operation, as a W-bit code (R160). -/
def identityOf (f : Fields) : Nat :=
  let w := f.width.bits
  match f.t.toNat with
  | 2 => 2 ^ (w - 1) - 1
  | 3 => 2 ^ (w - 1)
  | 4 | 6 => 2 ^ w - 1
  | 9 | 12 => (combineFmt f).code true 0 0
  | 10 | 13 => (combineFmt f).infCode false
  | 11 | 14 => (combineFmt f).infCode true
  | _ => 0

/-- The operation at a node, on W-bit codes (R160); the integer sums are formed apart. -/
def combineCodes (f : Fields) (a b : Nat) : Nat :=
  let w := f.width.bits
  match f.t.toNat with
  | 2 => if signed w b < signed w a then b else a
  | 3 => if signed w a < signed w b then b else a
  | 4 => min a b
  | 5 => max a b
  | 6 => a &&& b
  | 7 => a ||| b
  | 8 => a ^^^ b
  | 9 | 12 => addCodes (combineFmt f) f.rm.toNat f.sat a b
  | 10 | 13 => pickCode (combineFmt f) false a b
  | _ => pickCode (combineFmt f) true a b

/-- The exact sum of the positions below `n`, fitted to W bits (R159). -/
def sumCodes (f : Fields) (val : Nat → Nat) (n : Nat) : Nat :=
  let w := f.width.bits
  let unsigned := f.t == 1
  fit w unsigned f.sat (((List.range n).map fun i => if unsigned then (val i : Int) else signed w (val i)).sum)

/-- The result over the positions below `n`, the others entering as the identity. -/
def combined (f : Fields) (val : Nat → Nat) (n : Nat) : Nat :=
  if f.t.toNat ≤ 1 then sumCodes f val n
  else treeOf (combineCodes f) (fun i => if i < n then val i else identityOf f) (5 + Nat.log2 f.width.count) 0

/-- The value of a position: that of an active lane, else the identity (R158). -/
def positionValue (f : Fields) (x : Weave) (act : Mask) (i : Nat) : Nat :=
  let n := f.width.count
  if act.getLsbD (i / n) then elem (x.opnd f f.a (i / n)) f.width.bits (i % n) else identityOf f

/-- REDUCE in one weave (R161). -/
def reduceValue (f : Fields) (x : Weave) (act : Mask) : Word64 :=
  let r := combined f (positionValue f x act) (32 * f.width.count)
  packElems f.width.bits (fun _ => r) f.width.count

/-- SCAN in one lane (R161). -/
def scanValue (f : Fields) (x : Weave) (act : Mask) (l : Nat) : Word64 :=
  let n := f.width.count
  packElems f.width.bits
    (fun k => combined f (positionValue f x act) (if f.x then l * n + k else l * n + k + 1)) n

/-- A result of the active lanes, written to each of them or once. -/
def acrossBody (f : Fields) (val : Weave → Mask → Nat → Word64) : Body := fun s g =>
  .done (s.eachWeave g fun _ m x =>
    let act := x.active f m
    x.dest f.d act (val x act) (val x act 0)) g.next

def execPerm (f : Fields) : State → Host.Outcome State Fault Refusal := run (.perm f) f (moveBody f permSource)
def execBcast (f : Fields) : State → Host.Outcome State Fault Refusal := run (.bcast f) f (moveBody f bcastSource)
def execShfl (f : Fields) : State → Host.Outcome State Fault Refusal := run (.shfl f) f (moveBody f shflSource)
def execVote (f : Fields) : State → Host.Outcome State Fault Refusal :=
  run (.vote f) f (acrossBody f fun x act _ => voteValue f x act)
def execReduce (f : Fields) : State → Host.Outcome State Fault Refusal :=
  run (.reduce f) f (acrossBody f fun x act _ => reduceValue f x act)
def execScan (f : Fields) : State → Host.Outcome State Fault Refusal := run (.scan f) f (acrossBody f (scanValue f))
def execMatch (f : Fields) : State → Host.Outcome State Fault Refusal := run (.matchOp f) f (acrossBody f (matchValue f))

end Sys2Proof.Machine
end

