-- ==== Sys2Proof/Machine/Digest.lean ====
section
/-! DEFINITION. The SM3 digest that R457 and R462 name, as its published standard gives it. -/

namespace Sys2Proof.Machine

abbrev Word32 := BitVec 32

/-- The first chaining value. -/
def sm3Start : List Word32 :=
  [0x7380166F, 0x4914B2B9, 0x172442D7, 0xDA8A0600, 0xA96F30BC, 0x163138AA, 0xE38DEE4D, 0xB0FB0E4E]

/-- Bytes as big-endian words. -/
def wordsOf : Nat → List Byte → List Word32
  | 0, _ => []
  | n + 1, bs => BitVec.ofNat 32 (natOfBytes (bs.take 4).reverse) :: wordsOf n (bs.drop 4)

def word32Bytes (w : Word32) : List Byte := (bytesOfNat 4 w.toNat).reverse

/-- The message padded to blocks of 64 bytes. -/
def sm3Pad (bs : List Byte) : List Byte :=
  let n := bs.length
  bs ++ [0x80] ++ List.replicate ((119 - n % 64) % 64) 0 ++ (bytesOfNat 8 (8 * n)).reverse

def permute0 (x : Word32) : Word32 := x ^^^ x.rotateLeft 9 ^^^ x.rotateLeft 17
def permute1 (x : Word32) : Word32 := x ^^^ x.rotateLeft 15 ^^^ x.rotateLeft 23

/-- The message words, latest first, extended by `n` more. -/
def sm3Extend : Nat → List Word32 → List Word32
  | 0, ws => ws
  | n + 1, ws =>
    let at_ := fun k => ws.getD (k - 1) 0
    let w := permute1 (at_ 16 ^^^ at_ 9 ^^^ (at_ 3).rotateLeft 15) ^^^ (at_ 13).rotateLeft 7 ^^^ at_ 6
    sm3Extend n (w :: ws)

/-- One round. -/
def sm3Round (v : List Word32) (j : Nat) (w w' : Word32) : List Word32 :=
  match v with
  | [a, b, c, d, e, f, g, h] =>
    let t : Word32 := if j < 16 then 0x79CC4519 else 0x7A879D8A
    let x := (a.rotateLeft 12 + e + t.rotateLeft (j % 32)).rotateLeft 7
    let y := x ^^^ a.rotateLeft 12
    let ff := if j < 16 then a ^^^ b ^^^ c else (a &&& b) ||| (a &&& c) ||| (b &&& c)
    let gg := if j < 16 then e ^^^ f ^^^ g else (e &&& f) ||| (~~~e &&& g)
    [ff + d + y + w', a, b.rotateLeft 9, c, permute0 (gg + h + x + w), e, f.rotateLeft 19, g]
  | _ => v

/-- One block compressed into the chaining value. -/
def sm3Block (v : List Word32) (block : List Byte) : List Word32 :=
  let ws := (sm3Extend 52 (wordsOf 16 block).reverse).reverse
  let last := (List.range 64).foldl (fun v j => sm3Round v j (ws.getD j 0) (ws.getD j 0 ^^^ ws.getD (j + 4) 0)) v
  List.zipWith (· ^^^ ·) last v

def sm3Blocks : Nat → List Word32 → List Byte → List Word32
  | 0, v, _ => v
  | n + 1, v, bs => sm3Blocks n (sm3Block v (bs.take 64)) (bs.drop 64)

/-- The 32 bytes of the digest. -/
def sm3 (bs : List Byte) : List Byte :=
  let m := sm3Pad bs
  (sm3Blocks (m.length / 64) sm3Start m).flatMap word32Bytes

end Sys2Proof.Machine
end

