-- ==== Sys2Proof/Machine/Restore.lean ====
section
/-! DEFINITION. Discarding gangs and resuming a context from its images (R433, R436, R437, R456). -/

namespace Sys2Proof.Config

/-- What a control record of another module stands for: its internal format is not given (R384). -/
opaque controlOf : List Byte → Sys2Proof.Machine.TeamImage

end Sys2Proof.Config

namespace Sys2Proof.Machine

/-! ### Reading images (R432) -/

/-- A record of an image as it is read. -/
structure ReadRecord where
  rtype : Nat
  sub : Nat
  flags : Nat
  team : Nat
  off : Nat
  data : List Byte
  /-- the offsets of its poisoned 128-byte units -/
  toxic : List Nat
  deriving DecidableEq, Repr

/-- The TEAMID of no team, which window lines carry. -/
def noTeam : Nat := 2 ^ 32 - 1

/-- The size of a unit by its place in the team record. -/
def unitSize (k : Kernel) (off : Nat) : Option Nat :=
  if off < k.secV then none
  else if off < k.secL then some 256
  else if off < k.secAcc then some 128
  else if off < k.secOpbuf then some 256
  else if off < k.secQueue then some 128
  else none

/-- The bytes that follow a record's header; none where it names what the bundle does not have. -/
def payloadSize (subs : List Sub) (rtype sub flags team off : Nat) : Option Nat :=
  let kernel := (subs.find? fun u => u.index = sub).bind fun u => u.kernel
  let inBundle := fun (k : Kernel) => subs.any fun u => u.index = sub && team < u.gangs * k.gangTeams
  if rtype = 1 then
    kernel.bind fun k => if inBundle k then some (if flags % 2 = 1 then 0 else k.secV + 8192 * k.weaves * (k.sh - 1)) else none
  else if rtype = 2 then
    if team = noTeam then kernel.map fun _ => 128 else kernel.bind fun k => if inBundle k then unitSize k off else none
  else if rtype = 3 then some 65536
  else if rtype = 4 then some 80
  else if rtype = 5 then if subs.any fun u => u.index = sub then some 72 else none
  else none

/-- The records that stand at an address. -/
def readRecords (subs : List Sub) (toxic : List (Nat × Nat)) : Nat → Nat → List Byte → Option (List ReadRecord)
  | 0, _, _ => some []
  | n + 1, at_, bs =>
    let rtype := fieldAt bs 0 1
    let sub := fieldAt bs 1 1
    let flags := fieldAt bs 2 2
    let team := fieldAt bs 4 4
    let off := fieldAt bs 8 8
    match payloadSize subs rtype sub flags team off with
    | none => none
    | some size =>
      let bad := (toxic.filter fun z => at_ + 16 ≤ z.1 && z.1 < at_ + 16 + size).map fun z => z.1 - (at_ + 16)
      let r : ReadRecord := ⟨rtype, sub, flags, team, off, (bs.drop 16).take size, bad⟩
      (readRecords subs toxic n (at_ + 16 + size) (bs.drop (16 + size))).map fun l => r :: l

/-- An image of a context read: its records, if its header is the context's. -/
def State.readImage (s : State) (subs : List Sub) (target rcb : Nat) (x : Usable) : Option (List ReadRecord) × State :=
  let a := target + x.start
  let (bs, s) := s.homeRead none a x.length
  if fieldAt bs 0 4 ≠ 0x4B434E4B || fieldAt bs 0x28 8 ≠ rcb then (none, s)
  else (readRecords subs s.toxic (fieldAt bs 0x30 8) (a + 64) (bs.drop 64), s)

/-- The images of a chain, their records in order. The last image alone says which jobs run (R426). -/
def State.readImages (s : State) (subs : List Sub) (target rcb : Nat) : List Usable → Option (List ReadRecord) × State
  | [] => (some [], s)
  | x :: rest =>
    match s.readImage subs target rcb x with
    | (none, s) => (none, s)
    | (some a, s) =>
      match s.readImages subs target rcb rest with
      | (none, s) => (none, s)
      | (some b, s) => (some ((a.filter fun r => rest.isEmpty || r.rtype ≠ 5) ++ b), s)

/-- The slice record of an image stands first: its entry, and the budget left. -/
def State.sliceOfImage (s : State) (target : Nat) (x : Usable) : List Byte × Nat × State :=
  let (bs, s) := s.homeRead none (target + x.start + 64) 96
  ((bs.drop 16).take 64, fieldAt bs 88 8 % 2 ^ 40, s)

/-! ### What the records come to (R433) -/

/-- Of records at one place the last one stands. -/
def lastRecords : List ReadRecord → List ReadRecord
  | [] => []
  | r :: rest =>
    if r.rtype ≠ 5 && rest.any fun x => x.rtype = r.rtype && x.sub = r.sub && x.team = r.team && (r.rtype = 1 || x.off = r.off) then
      lastRecords rest
    else r :: lastRecords rest

/-- A team that is to stand again. -/
structure Revived where
  sub : Nat
  team : Nat
  ended : Bool
  control : List Byte
  image : TeamImage

/-- What a control record stands for. -/
def State.imageOf (s : State) (bs : List Byte) : TeamImage :=
  match s.controls.find? fun c => c.1 = bs with
  | some c => c.2
  | none => Config.controlOf bs

/-- The teams of a context's records. -/
def State.revivedOf (s : State) (subs : List Sub) (rs : List ReadRecord) : List Revived :=
  (rs.filter fun r => r.rtype = 1).map fun r =>
    let k := ((subs.find? fun u => u.index = r.sub).bind fun u => u.kernel).getD {}
    let control := r.data.take k.ctl
    { sub := r.sub, team := r.team, ended := r.flags % 2 = 1, control := control, image := s.imageOf control }

/-- Bytes laid over others. -/
def overlay (l : List Byte) (off : Nat) (data : List Byte) : List Byte := l.take off ++ data ++ l.drop (off + data.length)

/-- A team's record in the save area, absent units zero (R384, R433). -/
def teamRecord (k : Kernel) (rs : List ReadRecord) (r : ReadRecord) : List Byte :=
  let start := overlay (overlay (List.replicate k.tsz 0) 0 (r.data.take k.secV)) k.secQueue (r.data.drop k.secV)
  (rs.filter fun x => x.rtype = 2 && x.sub = r.sub && x.team = r.team).foldl (fun l x => overlay l x.off x.data) start

/-- The records of the live teams written to the save area at `area`. -/
def State.assemble (s : State) (w : Walker) (subs : List Sub) (area : Nat) (rs : List ReadRecord) :
    List ReadRecord → Except Met Unit × State
  | [] => (.ok (), s)
  | r :: rest =>
    if r.rtype ≠ 1 || r.flags % 2 = 1 then s.assemble w subs area rs rest
    else
      let k := ((subs.find? fun u => u.index = r.sub).bind fun u => u.kernel).getD {}
      match s.deviceGet w ((area + 8 * r.sub) % 2 ^ 56) 8 with
      | (.error m, s) => (.error m, s)
      | (.ok off, s) =>
        match s.devicePut w ((area + natOfBytes off + r.team * k.tsz) % 2 ^ 56) (teamRecord k rs r) with
        | (.error m, s) => (.error m, s)
        | (.ok _, s) => s.assemble w subs area rs rest

/-- Pages written at their virtual addresses, with their poison. -/
def State.placePages (s : State) (w : Walker) : List ReadRecord → Except Met Unit × State
  | [] => (.ok (), s)
  | r :: rest =>
    if r.rtype ≠ 3 then s.placePages w rest
    else
      match s.devicePut w (r.off % 2 ^ 56) r.data with
      | (.error m, s) => (.error m, s)
      | (.ok _, s) =>
        let s := r.toxic.foldl (fun (s : State) off => s.poisonAt w ((r.off + off) % 2 ^ 56) 128) s
        s.placePages w rest

/-- GEN of a save area advances. -/
def State.advanceGen (s : State) (w : Walker) (area : Nat) : Except Met Unit × State :=
  match s.deviceGet w ((area + 0x40) % 2 ^ 56) 8 with
  | (.error m, s) => (.error m, s)
  | (.ok bs, s) => s.devicePut w ((area + 0x40) % 2 ^ 56) (bytesOfNat 8 ((natOfBytes bs + 1) % 2 ^ 64))

/-! ### Teams and gangs that stand again (R365, R433, R436) -/

/-- A number renamed. -/
def renamed (names : Map Nat) (t : Nat) : Nat := Map.at names t t

/-- The wave of a renamed team. -/
def renamedWave (names : Map Nat) (u : Nat) : Nat := renamed names (u / 128) * 128 + u % 128

def Group.rename (names : Map Nat) (g : Group) : Group :=
  { members := g.members.map fun m : Nat × Mask => (renamedWave names m.1, m.2), pc := g.pc }

def Filed.rename (names : Map Nat) (o : Filed) : Filed :=
  { o with weave := renamedWave names o.weave, team := renamed names o.team }

def SideEntry.rename (names : Map Nat) (n fn : Nat) (e : SideEntry) : SideEntry :=
  { e with slice := n, asid := fn, members := e.members.map fun m : Nat × Mask => (renamedWave names m.1, m.2), team := renamed names e.team }

def Copy.rename (names : Map Nat) (n fn : Nat) (c : Copy) : Copy :=
  { c with
    slice := n, asid := fn, team := renamed names c.team, weave := renamedWave names c.weave, targets := c.targets.map (renamed names)
    saved := true }

def Job.rename (names : Map Nat) (n fn : Nat) (j : Job) : Job :=
  { j with slice := n, fn := fn, team := j.team.map (renamed names), weave := renamedWave names j.weave }

/-- The number that a team had where its image was made. -/
def TeamImage.oldTeam (i : TeamImage) : Nat := ((i.weaves.map fun w => teamOfWeave w.1).head?).getD 0

/-- A team as it stands saved: what its record holds is read back when it resumes. -/
def State.reviveTeam (s : State) (n u g t : Nat) (names : Map Nat) (r : Revived) : State :=
  let k := ((s.sub u).kernel).getD {}
  let base : Team := { gang := g, sub := u, teamId := r.team, index := r.team % max 1 k.gangTeams, ended := r.ended, released := r.ended, away := true }
  if r.ended then { s with teams := Map.put s.teams t base }
  else
    let i := r.image
    let m : Team :=
      { i.team with
        gang := g, sub := u, teamId := r.team, index := base.index, core := 0, tiles := [], poisonRows := [], dirtyRows := []
        savedRows := [], savedFifos := [], owed := [], gone := [], stateHeld := false, ended := false, away := true, inArea := []
        reservations := i.team.reservations.map fun r : Nat × Reservation => (r.1, { r.2 with place := [] }) }
    let waves := (List.range (k.weaves * k.sh)).map fun j =>
      let uid := waveAt k t j
      let old := i.weaves.find? fun w => waveIndex k w.1 = j
      let w := (old.map Prod.snd).getD {}
      (uid, { w with
        team := t, weaveId := uid % 64, shadow := decide (64 ≤ uid % 128), v := [], s := [], p := [], dirtyV := [], savedV := []
        poisonV := [], poisonS := [], waits := [], lastPage := [], yielding := [], recovering := [], issued := [], late := []
        bwaits := w.bwaits.filter fun x => x.2.2 })
    let s := { s with
      teams := Map.put s.teams t m
      weaves := s.weaves ++ waves
      copies := i.copies.foldl (fun (cs : Map Copy) (c : Copy) => Map.put cs (Map.next cs) (c.rename names n (s.slice n).fn)) s.copies
      jobs := i.jobs.foldl (fun (js : Map Job) (j : Job) => Map.put js (Map.next js) (j.rename names n (s.slice n).fn)) s.jobs }
    let offs := (s.allPieces t).map (s.offsetOf t)
    s.changeTeam t fun m => { m with inArea := offs }

/-- The s registers of a team in a 128-byte unit of its record are poisoned (R428, R439). -/
def State.reviveScalars (s : State) (t off : Nat) : State :=
  let k := (s.site t).kernel
  if off < k.ctl || k.secP ≤ off then s
  else
    s.changeWeave (waveAt k t ((off - k.ctl) / 512)) fun w => { w with poisonS := setUnion w.poisonS (span ((off - k.ctl) % 512 / 8) 16) }

/-- The poisoned units of a team's records poison what they stand for (R428). -/
def State.reviveToxic (s : State) (t : Nat) (rs : List ReadRecord) : State :=
  rs.foldl
    (fun (s : State) r =>
      if r.toxic.isEmpty then s
      else if r.rtype = 1 then r.toxic.foldl (fun (s : State) off => s.reviveScalars t off) s
      else
        match (s.allPieces t).find? fun p => s.offsetOf t p = r.off with
        | some (.vreg u v) => s.changeWeave u fun w => { w with poisonV := setAdd w.poisonV v }
        | some (.row key) => s.changeTeam t fun m => { m with poisonRows := setAdd m.poisonRows key }
        | some (.line ln) => { s with poison := setAdd s.poison ln }
        | _ => s) s

/-- One gang of a sub-launch and its teams; a gang whose teams have all ended has retired. -/
def State.reviveGang (s : State) (n u gangId : Nat) (mine : List Revived) : State :=
  let g := Map.next s.gangs
  let first := Map.next s.teams
  let ids := mine.zipIdx.map fun r => (r.1, first + r.2)
  let live := ids.filter fun r => !r.1.ended
  let names : Map Nat := live.map fun r => (r.1.image.oldTeam, r.2)
  let s := ids.foldl (fun (s : State) r => s.reviveTeam n u g r.2 names r.1) s
  let head := (live.head?.map fun r => r.1.image).getD {}
  let saved : Saved :=
    { groups := live.flatMap fun r => r.1.image.groups.map (Group.rename names)
      filed := live.flatMap fun r => r.1.image.filed.map (Filed.rename names)
      parked := head.parked.isSome, crit := head.crit, window := head.window, at_ := s.clock, time := s.ptime
      side := live.flatMap fun r => r.1.image.side.map (SideEntry.rename names n (s.slice n).fn)
      controls := live.map fun r => (r.2, r.1.control) }
  let report := head.parked.map fun x => { x with weave := renamedWave names x.weave }
  let k : Gang :=
    { sub := u, gangId := gangId, state := if live.isEmpty then .retired else .preempted, windows := head.windows
      report := report, saved := if live.isEmpty then none else some saved }
  { s with gangs := Map.put s.gangs g k }

/-- The gangs of one sub-launch. -/
def State.reviveSub (s : State) (n u : Nat) (rs : List Revived) : State :=
  let x := s.sub u
  match x.kernel with
  | none => s
  | some k =>
    let mine := rs.filter fun r => r.sub = x.index
    if mine.isEmpty then s
    else
      let per := max 1 k.gangTeams
      let gangs := ((mine.map fun r => r.team / per).foldl max 0) + 1
      let ofGang := fun (g : Nat) => mine.filter fun r => r.team / per = g
      let s := (List.range gangs).foldl (fun (s : State) g => s.reviveGang n u g (ofGang g)) s
      let finished := ((List.range gangs).filter fun g => (ofGang g).all fun r => r.ended).length
      let s := s.changeSub u fun v =>
        { v with state := if v.gangs ≤ finished then .complete else .started, nextGang := gangs, gangsDone := finished }
      s.nextGang u

/-- The engine sub-launches of JOB records go on from the bytes written; one that had written all has completed. -/
def State.reviveJobs (s : State) (n : Nat) (rs : List ReadRecord) : State :=
  rs.foldl
    (fun (s : State) r =>
      if r.rtype ≠ 5 then s
      else
        match (s.slice n).subs.find? fun u => (s.sub u).index = r.sub with
        | none => s
        | some u =>
          let card := r.data.take 64
          let done := fieldAt r.data 64 8
          let j : Job := { fn := (s.slice n).fn, slice := n, sub := some u, card := card, cardAddr := (s.sub u).cardAddr, done := done }
          if j.length ≤ done then s.changeSub u fun v => { v with state := .complete }
          else
            let k := Map.next s.jobs
            ({ s with jobs := Map.put s.jobs k j }).changeSub u fun v => { v with state := .started, job := some k }) s

/-- JOB records of a sub-launch's teams set the restart points of their jobs, which stand in the order of TEAMID (R426, R456). -/
def State.restartJobs (s : State) (u : Nat) (rs : List ReadRecord) : State :=
  let index := (s.sub u).index
  if (s.sub u).kernel.isNone then s
  else
    { s with
      jobs := (((s.teamJobs u).map Prod.fst).zip (rs.filter fun r => r.rtype = 5 && r.sub = index)).foldl
        (fun (js : Map Job) (x : Nat × ReadRecord) =>
          Map.change js x.1 fun j => { j with card := x.2.data.take 64, done := fieldAt x.2.data 64 8 }) s.jobs }

/-- The units that records hold have been written since the sub-launches started: the next image is full, and holds them (R427,
R430). -/
def State.everHeld (s : State) (n : Nat) (rs : List ReadRecord) (c : Ckpt) : Ckpt :=
  let pieces := (s.imageTeams n).flatMap fun t =>
    let mine := rs.filter fun r => r.rtype = 2 && r.sub = (s.sub (s.team t).sub).index && r.team = (s.team t).teamId
    ((s.allPieces t).filter fun p => mine.any fun r => s.offsetOf t p = r.off).map (Piece.unit t)
  let windows := (rs.filter fun r => r.rtype = 2 && r.team = noTeam).flatMap fun r =>
    ((s.slice n).subs.filter fun u => (s.sub u).index = r.sub).map fun u =>
      lineOf (onChip .chip (s.partOfSlice n) + (s.sub u).xbase + r.off)
  { c with
    everV := pieces.filterMap fun x => match x with
      | .vreg u r => some (u * 256 + r)
      | _ => none
    everRows := pieces.filterMap fun x => match x with
      | .row t key => some (t * 4096 + key)
      | _ => none
    everLines := (pieces.filterMap fun x => match x with
      | .line ln => some ln
      | _ => none) ++ windows
    everPages := (rs.filter fun r => r.rtype = 3).map fun r => r.off }

/-- The lines of .x windows written back. -/
def State.reviveWindows (s : State) (n : Nat) (rs : List ReadRecord) : State :=
  rs.foldl
    (fun (s : State) r =>
      if r.rtype ≠ 2 || r.team ≠ noTeam then s
      else
        match (s.slice n).subs.find? fun u => (s.sub u).index = r.sub with
        | none => s
        | some u =>
          let a := onChip .chip (s.partOfSlice n) + (s.sub u).xbase + r.off
          let s := s.putOnChip a r.data
          if r.toxic.isEmpty then s else { s with poison := setAdd s.poison (lineOf a) }) s

/-! ### DISCARD (R437) -/

/-- The latest usable image of a context, with its target. -/
def State.latestImage (s : State) (fn addr : Nat) : Option (Target × List Usable) × State :=
  match s.readDescriptor fn addr with
  | (.ok t _ _ _, s) =>
    if t.seq = noImage then (none, s)
    else
      match s.imageChain t.base 64 t.seq with
      | (some l, s) => (some (t, l), s)
      | (none, s) => (none, s)
  | (_, s) => (none, s)

/-- A slice's standing gangs discarded, with any checkpoint request of its context: what they hold is lost. -/
def State.discardSlice (s : State) (n : Nat) : State :=
  let s := s.setCkpt n { s.ckpt n with decided := none }
  let gangs := s.standingGangs n
  let budget := match s.latestImage (s.slice n).fn (s.descriptorAt n) with
    | (some (t, l), s) => (l.getLast?.map fun x => (s.sliceOfImage t.base x).2.1).getD (s.slice n).budget
    | (none, s) => (s.slice n).budget
  let teams := gangs.flatMap s.gangTeams
  let s := teams.foldl (fun (s : State) t => s.clearTeam t) s
  let s := gangs.foldl (fun (s : State) g => s.releaseGang g) s
  let s := { s with gangs := s.gangs.map fun g : Nat × Gang =>
    if gangs.contains g.1 then
      (g.1, { g.2 with
        state := GangState.unplaced, cores := [], windows := [], pdis := none, report := none, requested := false
        draining := none, stopped := false })
    else g }
  let s := (s.slice n).subs.foldl (fun (s : State) u => s.endStaging u) s
  s.changeSlice n fun l => { l with state := .preempted, discarded := true, budget := budget, left := budget, ckptAsked := none }

/-- SCMD_DISCARD. -/
def execScmdDiscard (p : Nat) (obj arg1 arg2 : Word64) (s : State) : Host.Outcome State Fault Refusal :=
  .next (if arg1 != 0 || arg2 != 0 then s.scmdStatus p scmdRefused 0
    else
      match s.slicesUnder p obj with
      | [] => s.scmdStatus p scmdNotFound 0
      | l =>
        let placed := l.filter fun n => !(s.standingGangs n).isEmpty
        if placed.isEmpty then s.scmdStatus p scmdRefused 0
        else (placed.foldl (fun (s : State) n => s.discardSlice n) s).scmdStatus p scmdDone 0)

/-! ### RESTORE (R456) -/

def scmdNoImage : Nat := 3
def scmdPageFault : Nat := 4

/-- The slice of a context as RESTORE finds it. -/
inductive Restorable where
  | refused
  | known (n : Nat)
  | unknown
  deriving DecidableEq, Repr

def State.restorable (s : State) (p : Nat) (obj : Word64) : Restorable :=
  match s.slicesUnder p obj with
  | [] => .unknown
  | l =>
    match l.find? fun n => (s.slice n).state == .preempted || (s.slice n).discarded with
    | some n => .known n
    | none => .refused

/-- The sub-launches of a context: as they were read, or read again from its bundle where the module does not know it. -/
def State.restoreSubs (s : State) (fn queue : Nat) (found : Restorable) (entry : List Byte) : Except Bad (Slice × List Sub) × State :=
  match found with
  | .known n => (.ok (s.slice n, (s.slice n).subs.map s.sub), s)
  | _ =>
    let q := s.queue (queueKey fn queue)
    let l := sliceOfEntry fn queue 0 q entry
    let f := s.fn fn
    match (readingSlice (s.deviceWalker fn) (s.part f.part).dies.length f.counters l q entry).run.run s with
    | (.ok subs, s) => (.ok (l, subs), s)
    | (.error bad, s) => (.error bad, s)

/-- The slice that stands again: the context's own, or a new one. -/
def State.restoredSlice (s : State) : Restorable → Nat
  | .known n => n
  | _ => Map.next s.slices

/-- The slice stands ahead of its queue's head entry and consumes no ring entry: where it still holds one, that entry is passed as a
retired slice's (R456). -/
def State.standAhead (s : State) (n fn queue : Nat) : State :=
  let k := queueKey fn queue
  let old := s.slice n
  let oldKey := queueKey old.fn old.queue
  let s :=
    if (s.queue oldKey).slices.contains n then
      let m := Map.next s.slices
      let ghost : Slice := { fn := old.fn, queue := old.queue, ringIndex := old.ringIndex, offRing := old.offRing, state := .retired }
      (({ s with slices := Map.put s.slices m ghost }).changeQueue oldKey fun q =>
        { q with slices := q.slices.map fun x => if x = n then m else x }).advanceHead oldKey
    else s
  (s.changeQueue k fun q => { q with slices := n :: q.slices }).changeSlice n fun l =>
    { l with fn := fn, queue := queue, offRing := true, qclass := (s.queue k).qclass, prio := (s.queue k).prio }

/-- The registers of a context that stands again: those that its program set are its image's; RESTORECOUNT and SAVECOST, which
the device keeps, stay, or are those of its RCB and of its latest image where the context was not known (R28, R36). -/
def State.revivedCtx (s : State) (n : Nat) (found : Restorable) (coLocated : Bool) (c image : Context) : Context :=
  match found with
  | .known _ => { image with restoreCount := c.restoreCount, saveCost := c.saveCost, noIndep := c.noIndep }
  | _ =>
    { image with
      restoreCount := (s.node (s.contextKey n)).num 0x60 8, saveCost := (s.node (s.contextKey n)).num 0x58 8 % 2 ^ 40
      noIndep := coLocated }

/-- The context stands PREEMPTED with what its records hold. -/
def State.revive (s : State) (found : Restorable) (fn queue : Nat) (l : Slice) (subs : List Sub) (rs : List ReadRecord)
    (teams : List Revived) (budget cutAt : Nat) (coLocated : Bool) : State :=
  let n := s.restoredSlice found
  let s := match found with
    | .known n => s.abandon n
    | _ => (({ s with slices := Map.put s.slices n { l with offRing := true } }).addSubs n subs).changeQueue (queueKey fn queue) fun q =>
        { q with slices := n :: q.slices }
  let s := match found with
    | .known _ => s.standAhead n fn queue
    | _ => s
  let s := (s.slice n).subs.foldl (fun (s : State) u => s.reviveSub n u teams) s
  let s := (s.reviveJobs n rs).reviveWindows n rs
  let mine := s.teams.filter fun t => (s.slice n).subs.contains t.2.sub && !t.2.ended
  let s := mine.foldl
    (fun (s : State) t =>
      s.reviveToxic t.1 (rs.filter fun r => (r.rtype = 1 || r.rtype = 2) && r.sub = (s.sub t.2.sub).index && r.team = t.2.teamId)) s
  let flags := (teams.find? fun r => !r.ended).map fun r => r.image
  let s := (s.slice n).subs.foldl (fun (s : State) u => s.restartJobs u rs) s
  let s := s.changeSlice n fun x =>
    { x with
      state := .preempted, discarded := false, budget := budget, left := budget, notBefore := cutAt + 1, failure := none
      told := false, setUp := flags.isSome
      dirtyPages := (rs.filter fun r => r.rtype = 3).map fun r => r.off }
  let s := match flags with
    | some i => s.changeCtx n fun c => s.revivedCtx n found coLocated c i.ctx
    | none => s
  s.setCkpt n (s.everHeld n rs { s.ckpt n with full := true, timed := none, interval := none })

/-- The slice as the writes of steps 3 and 4 are its context's: under the function of ARG1's queue, whose translation they go
through, and with the RCB that frames are claimed for. -/
def State.writesFor (s : State) (found : Restorable) (fn : Nat) (l : Slice) : State :=
  match found with
  | .known n => s.changeSlice n fun x => { x with fn := fn }
  | _ => { s with slices := Map.put s.slices (s.restoredSlice found) { l with fn := fn } }

/-- What stands of the slice where the command ends with PAGE_FAULT. -/
def State.writesEnd (s : State) (found : Restorable) (n fn : Nat) : State :=
  match found with
  | .known n => s.changeSlice n fun x => { x with fn := fn }
  | _ => { s with slices := s.slices.filter fun x => x.1 ≠ n }

/-- Steps 3 to 6 of R456. -/
def State.applyImages (s : State) (p fn queue : Nat) (found : Restorable) (area : Nat) (l : Slice) (subs : List Sub)
    (rs : List ReadRecord) (budget cutAt : Nat) (coLocated : Bool) : State :=
  let n := s.restoredSlice found
  let own := (s.slice n).fn
  let s := s.writesFor found fn l
  let w := s.contextWalker n ((s.part p).root * 160)
  let fault := fun (s : State) (m : Met) => (s.writesEnd found n own).scmdStatus p scmdPageFault m.2
  let rs := lastRecords rs
  match s.assemble w subs area rs rs with
  | (.error m, s) => fault s m
  | (.ok _, s) =>
    match s.advanceGen w area with
    | (.error m, s) => fault s m
    | (.ok _, s) =>
      match s.placePages w rs with
      | (.error m, s) => fault s m
      | (.ok _, s) =>
        ((s.writesEnd found n own).revive found fn queue l subs rs (s.revivedOf subs rs) budget cutAt coLocated).scmdStatus p scmdDone 0

/-- SCMD_RESTORE. -/
def State.restore (s : State) (p : Nat) (obj arg1 : Word64) : State :=
  let fn := bits arg1.toNat 22 16
  let queue := arg1.toNat % 65536
  let found := s.restorable p obj
  let refused := s.scmdStatus p scmdRefused 0
  let missing := s.scmdStatus p scmdNoImage 0
  if found = .refused || !(s.queue (queueKey fn queue)).bound || (s.fn fn).part ≠ p || (s.fn fn).inReset then refused
  else
    let key := nodeKey p obj.toNat
    let t := s.readChain fn chainFuel key
    let chain := t.chain chainFuel key
    if !t.chainOk chain then missing
    else
      match t.latestImage fn (t.effective chain 9 0x50 8) with
      | (none, _) => missing
      | (some (target, images), t) =>
        match images.getLast? with
        | none => missing
        | some last =>
          let (entry, budget, t) := t.sliceOfImage target.base last
          match t.restoreSubs fn queue found entry with
          | (.error bad, t) =>
            match bad.met with
            | some m => t.scmdStatus p scmdPageFault m.2
            | none => missing
          | (.ok (l, subs), t) =>
            match t.readImages subs target.base obj.toNat images with
            | (none, _) => missing
            | (some rs, t) => t.applyImages p fn queue found (t.effective chain 8 0x48 8) l subs rs budget last.cutAt last.coLocated

def execScmdRestore (p : Nat) (obj arg1 arg2 : Word64) (s : State) : Host.Outcome State Fault Refusal :=
  if arg2 != 0 || 2 ^ 23 ≤ arg1.toNat then .next (s.scmdStatus p scmdRefused 0) else s.orWait (.scmdRestore p obj arg1 arg2) (s.restore p obj arg1)

end Sys2Proof.Machine
end

