-- ==== Sys2Proof/Machine/Repair.lean ====
section
/-! DEFINITION. Errors and the in-field test (R438 to R450). -/

namespace Sys2Proof.Machine

/-! ### Patrol (R438, R439, R444) -/

/-- The row of R438 that a unit belongs to. -/
def storeOf : StorageUnit → Nat
  | .vreg _ _ => 0
  | .sreg _ _ | .pred _ _ | .teamReg _ _ _ => 1
  | .tileRow _ _ _ => 2
  | .line cell _ =>
    match ownerOf (cell * 128) with
    | some (r, _) => if r = Region.chip.code then 4 else 3
    | none => 5
  | .l1 _ _ _ | .code _ _ _ => 3
  | .l2 _ _ | .firmware _ _ | .sideLog _ _ | .releases _ _ => 4

/-- The core that a unit stands on; none for a base die and HBM. -/
def State.unitCore (s : State) : StorageUnit → Option Nat
  | .vreg w _ | .sreg w _ | .pred w _ => some (s.team (teamOfWeave w)).core
  | .tileRow t _ _ | .teamReg t _ _ => some (s.team t).core
  | .l1 c _ _ | .code c _ _ | .sideLog c _ | .releases c _ => some c
  | .l2 _ _ | .firmware _ _ => none
  | .line cell _ =>
    match ownerOf (cell * 128) with
    | some (r, o) =>
      if r = Region.chip.code then none
      else if r = Region.slice.code then some (s.team (o / 4096)).core
      else some (s.team o).core
    | none => none

/-- ADDR of a record: the address of a codeword, or the operand code of a register with its wave above it (R447; log entry 129).
A codeword has 64 bytes in HBM and 32 in every other memory (R438). -/
def unitAddr : StorageUnit → Nat
  | .vreg w n => n + w % 128 * 256
  | .sreg w n => 0x80 + n + w % 128 * 256
  | .pred w n => 0xC0 + n + w % 128 * 256
  | .teamReg _ code pair => code + pair * 256
  | .tileRow _ tile row => 0xF0 + tile + row * 256
  | .line cell word => cell * 128 + (if (ownerOf (cell * 128)).isNone then 64 * (word % 2) else 32 * (word % 4))
  | .l1 _ line word | .l2 line word => line * 128 + 32 * (word % 4)
  | .code _ key word => key % 2 ^ 56 + 32 * (word % 6)
  | .firmware _ word | .sideLog _ word | .releases _ word => 32 * word

/-- A unit poisoned. No rule says what consumes an error of a predicate, of a c, w or q register, of the firmware SRAM, or of a side
log or release table: it is logged alone (log entry 129). -/
def State.poisonUnit (s : State) : StorageUnit → State
  | .vreg w n => s.changeWeave w fun k => { k with poisonV := setAdd k.poisonV n }
  | .sreg w n => s.changeWeave w fun k => { k with poisonS := setAdd k.poisonS n }
  | .tileRow t tile row => s.changeTeam t fun k => { k with poisonRows := setAdd k.poisonRows (tile * 64 + row) }
  | .line cell _ | .l2 cell _ => { s with poison := setAdd s.poison cell }
  | .l1 c line _ => s.changeCore c fun k => if (Map.find k.l1 line).isSome then { k with toxicL1 := setAdd k.toxicL1 line } else k
  | .code c key _ => s.changeCore c fun k => if (Map.find k.icache key).isSome then { k with toxicCode := setAdd k.toxicCode key } else k
  | .pred _ _ | .teamReg _ _ _ | .firmware _ _ | .sideLog _ _ | .releases _ _ => s

/-- PATROL_READ. It also stands for the check of R438 on a read, which finds the same and comes just before it (log entry 129). -/
def execPatrolRead (d : Nat) (unit : StorageUnit) (found : PatrolFinding) (s : State) : Host.Outcome State Fault Refusal :=
  let r := fun (kind : Nat) =>
    ({ kind := kind, store := storeOf unit, core := ((s.unitCore unit).map logCore).getD 0xFF, addr := unitAddr unit
       unit := some unit } : LogFields)
  .next (match found with
    | .clean => s
    | .correctable => s.logError d (r logCorrected)
    | .uncorrectable => (s.poisonUnit unit).logError d (r logPoisoned))

/-! ### Timing detectors (R443) -/

/-- TIMING_REPLAY: logged; after more than 1,024 within 1 ms a test is scheduled, as if the core's interval had expired. -/
def execTimingReplay (c : Nat) (s : State) : Host.Outcome State Fault Refusal :=
  let now := s.ptime
  let s := s.logError (dieOfCore c) { kind := logTiming, core := logCore c }
  .next (s.changeCore c fun k =>
    let recent := (k.replays.filter fun t => now < t + 1000000) ++ [now]
    { k with replays := recent, testAsked := k.testAsked || decide (1024 < recent.length) })

/-! ### The in-field test (R448 to R450) -/

/-- The partition of a core. -/
def State.partOfCore (s : State) (c : Nat) : Part := s.part (s.partOfDie (dieOfCore c))

/-- The gangs that stand on a core, no request for them being under way. -/
def State.gangsOn (s : State) (c : Nat) : List Nat :=
  (s.gangs.filter fun g => g.2.stands && g.2.cores.contains c).map Prod.fst

/-- A run away from the core is free for a gang. -/
def State.movable (s : State) (g : Nat) : Bool := ((s.withoutGangs [g]).runForSaved g).isSome

/-- A gang pre-empted by a test. -/
def State.preemptForTest (s : State) (g : Nat) : State :=
  (s.changeGang g fun k => { k with forTest := true }).requestPreempt g

/-- The gangs of a due core that no request is under way for. -/
def State.notAsked (s : State) (c : Nat) : List Nat :=
  (s.gangsOn c).filter fun g => !(s.gang g).requested && (s.gang g).draining.isNone

/-- Those of them for which a run elsewhere is free, and the others. -/
def State.emptiable (s : State) (c : Nat) : List Nat × List Nat :=
  let closed := s.changeCore c fun k => { k with testWait := [] }
  ((s.notAsked c).filter closed.movable, (s.notAsked c).filter fun g => !closed.movable g)

/-- Of the gangs of a due core those for which a run is free are pre-empted; for each of the others the test waits, for the lesser of
DEADLINE − PTIME of its slice and WAITMAX (R448, R450). -/
def State.emptyCore (s : State) (c : Nat) : State :=
  let (free, stuck) := s.emptiable c
  let now := s.ptime
  let limit := fun (g : Nat) => now + min ((s.slice (s.sub (s.gang g).sub).slice).deadline - now) (s.partOfCore c).waitMax
  (free.foldl (fun (s : State) g => s.preemptForTest g) s).changeCore c fun k =>
    { k with testWait := stuck.map fun g => (g, Map.at k.testWait (limit g) g) }

/-- The core's interval has expired, or counts as expired (R443, R448). -/
def State.testExpired (s : State) (c : Nat) : Bool :=
  let p := s.partOfCore c
  p.testing && ((s.core c).testAsked || (s.core c).tested + p.interval ≤ s.ptime)

/-- IFT_DUE. -/
def execIftDue (c : Nat) (s : State) : Host.Outcome State Fault Refusal :=
  let k := s.core c
  let now := s.ptime
  .next (if k.testRuns || !(s.partOfCore c).testing then s
    else if k.testDue.isSome then s.emptyCore c
    else if s.testExpired c then (s.changeCore c fun k => { k with testDue := some now }).emptyCore c
    else s)

/-- The state that gangs left on a core is spilled: its arrays are about to be zeroed. -/
def State.vacate (s : State) (c : Nat) : State :=
  let left := (s.teams.filter fun t => t.2.core = c && !t.2.ended && !t.2.away && (s.gang t.2.gang).saved.isSome).map Prod.fst
  left.foldl
    (fun (s : State) t =>
      match s.spillTeam t with
      | (.ok _, s) => s
      | (.error m, s) => s.saveFault (s.site t).slice (s.site t).sub c m) s

/-- IFT_RUN: the core is empty, its arrays are zeroed, and the bits whose vectors mismatch are cleared. -/
def State.runTest (s : State) (c : Nat) (mismatch : Word64) : State :=
  let cleared := (s.core c).capmask &&& mismatch
  let now := s.ptime
  let s := (s.vacate c).changeCore c fun k =>
    { k with
      testRuns := true, testFrom := now, testWait := [], claims := [], capmask := k.capmask &&& ~~~mismatch, toxicL1 := [], toxicCode := []
      icache := [] }
  if cleared = 0 then s else s.logError (dieOfCore c) { kind := logFenced, core := logCore c, detail := cleared.toNat }

def execIftRun (c : Nat) (mismatch : Word64) (s : State) : Host.Outcome State Fault Refusal :=
  let k := s.core c
  if k.testDue.isSome && !k.testRuns && (s.partOfCore c).testing && (s.gangsOn c).isEmpty then s.ifRoom (s.runTest c mismatch)
  else .next s

/-- The cut that a test asked for has not ended. -/
def State.cutPending (s : State) (n : Nat) : Bool :=
  (s.slice n).ckptAsked.isSome || (s.ckpt n).decided.isSome || (s.ckpt n).stream.isSome

/-- The gangs of a core whose wait is over. -/
def State.waitedOut (s : State) (c : Nat) : List Nat :=
  (s.notAsked c).filter fun g => ((Map.find (s.core c).testWait g).map fun t => decide (t ≤ s.ptime)) == some true

/-- IFT_WAIT_EXPIRE: no run has freed; each context is cut if it may be, and its gang is then pre-empted. -/
def State.endWait (s : State) (c : Nat) : State :=
  (s.waitedOut c).foldl
    (fun (s : State) g =>
      let n := (s.sub (s.gang g).sub).slice
      if (s.ctx n).ckptEn && !(s.core c).testCuts.contains n then
        (s.askCheckpoint n).changeCore c fun k => { k with testCuts := setAdd k.testCuts n }
      else if (s.core c).testCuts.contains n && s.cutPending n then s
      else s.preemptForTest g) s

def execIftWaitExpire (c : Nat) (s : State) : Host.Outcome State Fault Refusal :=
  .next (s.endWait c)

/-- IN_FIELD_TEST_END. -/
def execInFieldTestEnd (c : Nat) (s : State) : Host.Outcome State Fault Refusal :=
  let now := s.ptime
  .next (if (s.core c).testRuns then
      s.changeCore c fun k =>
        { k with testRuns := false, testDue := none, testAsked := false, testWait := [], testCuts := [], tested := now, replays := [] }
    else s)

end Sys2Proof.Machine
end

