-- ==== Sys2Proof/Machine/Firmware.lean ====
section
/-! DEFINITION. The root of trust: boot, customer firmware, the management interface, the lease reset and its record (R457
to R462), and the module's rails and temperature (R469 to R471). -/

namespace Sys2Proof.Machine

/-! ### Firmware images (R457) -/

/-- What a manifest says. -/
structure Manifest where
  version : Nat
  length : Nat
  entry : Nat
  digest : List Byte
  signature : List Byte

/-- The manifest at the start of an image, if it is well formed. -/
def manifestOf (bs : List Byte) : Option Manifest :=
  let n := fun off size => natOfBytes ((bs.drop off).take size)
  let m : Manifest :=
    { version := n 4 4, length := n 8 8, entry := n 0x10 8, digest := (bs.drop 0x18).take 32, signature := (bs.drop 0x38).take 64 }
  if 256 ≤ bs.length && n 0 4 == 0x57464E4B && m.length % 64 == 0 && m.length ≤ 2 ^ 22 && m.entry < m.length &&
      n 0x78 136 == 0 then
    some m
  else none

/-- The bytes that an image is measured over. -/
def measuredPart (image : List Byte) : List Byte := image.take (256 + natOfBytes ((image.drop 8).take 8))

/-- The body and the entry of an operator image that a filled slot vouches for. -/
def Root.operatorImage (r : Root) : Option (List Byte × Nat) :=
  match manifestOf r.flash with
  | none => none
  | some m =>
    let body := (r.flash.drop 256).take m.length
    let vouched := r.slots.any fun k => k.2.2.toNat ≤ m.version && Config.verifies k.2.1 (r.flash.take 56) m.signature
    if vouched && body.length == m.length && sm3 body == m.digest then some (body, m.entry) else none

/-- The firmware of some dies. -/
def State.setFirmware (s : State) (dies : List Nat) (f : Option (List Byte × Nat)) : State :=
  dies.foldl (fun (s : State) d => s.changeDie d fun k => { k with firmware := f }) s

/-- Steps 1 to 5 of R457 for some dies. Where no firmware core of the module runs, it answers its management interface alone. -/
def State.loadOperator (s : State) (dies : List Nat) : State :=
  let r := s.root
  let measured := Map.put r.measured 0 (sm3 (measuredPart r.flash))
  let others := s.dies.any fun d => d.2.firmware.isSome && !dies.contains d.1
  let s := { s with root := { r with measured := measured, booted := r.operatorImage.isSome || (r.booted && others) } }
  s.setFirmware dies r.operatorImage

/-- Dies are freshly lease-reset and not yet leased, or no longer so (R460). -/
def State.setDiesFresh (s : State) (dies : List Nat) (x : Bool) : State :=
  dies.foldl (fun (s : State) d => s.changeDie d fun k => { k with fresh := x }) s

def allDies : List Nat := List.range 16

/-- POWER_UP: the rails come up in order, and the root of trust runs its ROM (R471). -/
def execPowerUp (bootFlash : List Byte) (s : State) : Host.Outcome State Fault Refusal :=
  .next (if s.root.up then s
    else
      let s := { s with root := { s.root with up := true, flash := bootFlash, booting := true, booted := false, measured := [] } }
      (s.setFirmware allDies none).soon .romBoot)

/-- ROM_BOOT: at every reset, before any firmware core leaves reset. Cores of a halted partition stay halted. -/
def execRomBoot (s : State) : Host.Outcome State Fault Refusal :=
  .next (if !s.root.up || !s.root.booting then s
    else
      let s := s.loadOperator (allDies.filter fun d => s.partRuns (s.partOfDie d))
      { s with root := { s.root with booting := false, booted := s.root.operatorImage.isSome } })

/-- What the module itself had still to do, as opposed to what comes to it from outside. -/
def isOwn : Instr → Bool
  | .rcbFieldWriteback _ | .waitvWake _ | .launchRollback _ | .sidelogReplay _ _ | .sliceDispatch _ _ | .ctrset _ _ | .nopSlice _ _ |
    .scrubRecord _ => true
  | _ => false

/-- RAIL_OUT_OF_RANGE: the module stands still, without the scrub record of a lease reset that runs; every partition needs a lease
reset. Without VAUX the root of trust is down too (R469, R471). -/
def execRailOutOfRange (rail : Rail) (s : State) : Host.Outcome State Fault Refusal :=
  let s := s.setFirmware allDies none
  .next { s with
    root := { s.root with halted := true, up := s.root.up && rail != .vaux, resetFrom := none }
    agenda := s.agenda.filter fun i => !isOwn i
    waiting := []
    parts := s.parts.map fun p : Nat × Part => (p.1, { p.2 with halted := true, resetFrom := none })
    dies := s.dies.map fun d : Nat × Die => (d.1, { d.2 with fresh := false }) }

/-- THERMAL_THROTTLE: the main clock is halved, which changes time alone, and the halving is logged (R470). -/
def execThermalThrottle (die : Nat) (s : State) : Host.Outcome State Fault Refusal :=
  .next (if (s.die die).throttled then s
    else (s.changeDie die fun d => { d with throttled := true }).logError die { kind := logTiming })

/-- THERMAL_RECOVER. -/
def execThermalRecover (die : Nat) (s : State) : Host.Outcome State Fault Refusal :=
  .next (s.changeDie die fun d => { d with throttled := false })

/-! ### Customer firmware (R459) -/

/-- The low word of FWLOAD. -/
def fwDone : Nat := 0
def fwPolicy : Nat := 1
def fwMalformed : Nat := 2
def fwMismatch : Nat := 3

/-- A permitted load: the cores are halted, the image is measured and copied, and the cores run it from its entry. -/
def State.loadCustomer (s : State) (part image : Nat) : State :=
  let dies := (s.part part).dies
  let finished := fun (s : State) (status : Nat) => s.setCommand regFwload part false status
  let s := (s.setFirmware dies none).lease part
  let (head, s) := s.physRead image 256
  match manifestOf head with
  | none => finished s fwMalformed
  | some m =>
    if image % 256 ≠ 0 then finished s fwMalformed
    else
      let (body, s) := s.physRead (image + 256) m.length
      let r := s.root
      let s := { s with root := { r with measured := Map.put r.measured (1 + part) (sm3 (head ++ body)) } }
      if sm3 body ≠ m.digest then finished s fwMismatch else finished (s.setFirmware dies (some (body, m.entry))) fwDone

/-- FWLOAD. -/
def execFwload (part : Nat) (image : Word64) (s : State) : Host.Outcome State Fault Refusal :=
  .next (if !s.awake then s
    else if (Map.find s.parts part).isSome && (s.part part).policy.getLsbD 0 && s.partRuns part then s.loadCustomer part image.toNat
    else s.setCommand regFwload part false fwPolicy)

/-! ### The management interface (R460) -/

/-- A command is accepted: the mask ROM has run (R457), a filled slot holds the key that signed it, and its nonce is fresh. -/
def State.accepted (s : State) (a : MgmtAuth) : Bool :=
  s.root.up && !s.root.booting && s.root.nonce.ult a.nonce && s.root.slots.any fun k => a.signer == some k.2.1

/-- A lease reset runs, whose record is still to come. -/
def State.resetting (s : State) : Bool :=
  s.agenda.any fun i =>
    match i with
    | .scrubRecord _ => true
    | _ => false

/-- Commands are carried out one at a time, in their order: one that arrives while a lease reset runs waits for its end. -/
def State.inTurn (s : State) (i : Instr) (act : State) : Host.Outcome State Fault Refusal :=
  .next (if s.resetting then { s with agenda := s.agenda ++ [i] } else act)

/-- A command carried out if it is accepted. -/
def State.managed (s : State) (a : MgmtAuth) (act : State → State) : State :=
  if s.accepted a then act { s with root := { s.root with nonce := a.nonce } } else s

/-- The dies of a mask. -/
def diesOf (mask : BitVec 16) : List Nat := allDies.filter fun d => mask.getLsbD d

/-- The masks reshape partitions: each names a legal number of dies, no die twice, all of them freshly lease-reset and not
yet leased, and no partition in part. -/
def State.mayReshape (s : State) (masks : List (BitVec 16)) : Bool :=
  let dies := masks.flatMap diesOf
  (masks.all fun m => [1, 2, 4, 8, 16].contains (diesOf m).length) && dies.eraseDups.length == dies.length &&
    (dies.all fun d => (s.die d).fresh) &&
    s.parts.all fun p => p.2.dies.all dies.contains || p.2.dies.all fun d => !dies.contains d

/-- The functions of a partition whose quotas exceed its share have none until they are configured. -/
def State.clampShare (s : State) (p : Nat) : State :=
  if s.shareKept p then s
  else (s.fnsOf p).foldl (fun (s : State) fn => s.changeFn fn fun f => { f with queues := 0, counters := 0 }) s

/-- The new partitions take the lowest free numbers, and their chip scratchpads are zero (R285). The functions keep their
partition numbers, and their quotas where these keep to the share of R6: the manual is silent, and the model chooses so (log
entry 78). -/
def State.reshape (s : State) (masks : List (BitVec 16)) : State :=
  let dies := masks.flatMap diesOf
  let kept := s.parts.filter fun p => !p.2.dies.all dies.contains
  let add := fun (m : Map Part) (x : BitVec 16) =>
    let p : Part := { dies := diesOf x, root := (diesOf x).headD 0 }
    Map.put m (Map.fresh m) p
  let old := fun (a : Nat) =>
    match ownerOf a with
    | some (r, o) => r == Region.chip.code && (Map.find kept o).isNone
    | none => false
  let s := { s with
    parts := masks.foldl add kept
    mem := s.mem.filter fun c => !old c.1
    poison := s.poison.filter fun ln => !old (ln * 128)
    dirtyLines := s.dirtyLines.filter fun ln => !old (ln * 128)
    savedLines := s.savedLines.filter fun ln => !old (ln * 128) }
  (s.parts.map Prod.fst).foldl (fun (s : State) p => s.clampShare p) s

/-- MGMT_PARTITION. -/
def execMgmtPartition (auth : MgmtAuth) (masks : List (BitVec 16)) (s : State) : Host.Outcome State Fault Refusal :=
  s.inTurn (.mgmtPartition auth masks) (s.managed auth fun t => if s.mayReshape masks then t.reshape masks else t)

/-- MGMT_SETFD. -/
def execMgmtSetfd (auth : MgmtAuth) (power switch : BitVec 16) (s : State) : Host.Outcome State Fault Refusal :=
  s.inTurn (.mgmtSetfd auth power switch) (s.managed auth fun t => { t with root := { t.root with power := power, switch := switch } })

/-- The key slots after KEYSLOT; the last filled slot is not cleared. -/
def Root.setSlot (r : Root) (slot : Nat) (key : Option (BitVec 512)) (floor : BitVec 32) : Root :=
  match key with
  | some k => if slot < 4 then { r with slots := Map.put r.slots slot (k, floor) } else r
  | none => if (Map.drop r.slots slot).isEmpty then r else { r with slots := Map.drop r.slots slot }

/-- MGMT_KEYSLOT. -/
def execMgmtKeyslot (auth : MgmtAuth) (slot : Nat) (key : Option (BitVec 512)) (floor : BitVec 32) (s : State) :
    Host.Outcome State Fault Refusal :=
  s.inTurn (.mgmtKeyslot auth slot key floor) (s.managed auth fun t => { t with root := t.root.setSlot slot key floor })

/-- MGMT_CAPSET: bits of CAPMASK are set, on a core that no gang stands on. -/
def execMgmtCapset (auth : MgmtAuth) (core : Nat) (mask : Word64) (s : State) : Host.Outcome State Fault Refusal :=
  s.inTurn (.mgmtCapset auth core mask) (s.managed auth fun t =>
    if (s.gangsOn core).isEmpty then t.changeCore core fun k => { k with capmask := k.capmask ||| mask } else t)

/-- MGMT_POLICY. -/
def execMgmtPolicy (auth : MgmtAuth) (part : Nat) (flags : BitVec 32) (s : State) : Host.Outcome State Fault Refusal :=
  s.inTurn (.mgmtPolicy auth part flags)
    (s.managed auth fun t => { t with parts := Map.change t.parts part fun (p : Part) => { p with policy := flags } })

/-- What READ answers. -/
def State.mgmtObject (s : State) : MgmtObject → List Byte
  | .errorLog d => (List.range 256).flatMap fun n => Map.at (s.die d).log (List.replicate 32 0) n
  | .measurement n => Map.at s.root.measured (List.replicate 32 0) n
  | .scrubRecord => s.root.scrubbed
  | .identityKey => bytesOfNat 64 Config.identityKey.toNat

/-- MGMT_READ: it carries no signature. -/
def execMgmtRead (object : MgmtObject) (s : State) : Host.Outcome State Fault Refusal :=
  s.inTurn (.mgmtRead object) (if s.root.up && !s.root.booting then s.answer (some (s.mgmtObject object)) else s)

/-! ### The lease reset (R461) -/

/-- What a lease reset covers. -/
structure Lease where
  dies : List Nat
  /-- a partition, or all of them -/
  part : Option Nat

/-- The partition number of a lease reset of the whole module. -/
def wholeModule : Nat := 0xFF

def Lease.covers (l : Lease) (p : Nat) : Bool := (l.part.map fun n => n == p) != some false

/-- A lease reset of a partition; none where there is no such partition. -/
def State.leaseOf (s : State) (part : Nat) : Option Lease :=
  if part = wholeModule then some ⟨allDies, none⟩
  else (Map.find s.parts part).map fun p => ⟨p.dies, some part⟩

/-- A function belongs to what is reset. -/
def State.leases (s : State) (l : Lease) (fn : Nat) : Bool := l.covers (s.fn fn).part

/-- The physical function's queues, counters, translation queue and event ring after a reset. -/
def State.clearPhysical (s : State) : State :=
  ({ s.resetWork 0 with
      queues := s.queues.filter fun q => q.1 / 65536 ≠ 0
      counters := s.counters.filter fun c => c.1 / 65536 ≠ 0 }).changeFn 0 fun f =>
    { f with regs := f.regs.filter fun r => 0x80 ≤ r.1, scrubbing := false }

/-- What is left of the work of functions that are reset. -/
def State.dropWork (s : State) (gone : Nat → Bool) : State :=
  let slices := (s.slices.filter fun l => gone l.2.fn).map Prod.fst
  let subs := (s.subs.filter fun u => slices.contains u.2.slice).map Prod.fst
  let teams := (s.teams.filter fun t => subs.contains t.2.sub).map Prod.fst
  { s with
    slices := s.slices.filter fun l => !slices.contains l.1
    subs := s.subs.filter fun u => !subs.contains u.1
    gangs := s.gangs.filter fun g => !subs.contains g.2.sub
    teams := s.teams.filter fun t => !teams.contains t.1
    weaves := s.weaves.filter fun w => !teams.contains (teamOfWeave w.1)
    groups := s.groups.filter fun g : Group => !teams.contains g.team
    copies := s.copies.filter fun c => !slices.contains c.2.slice
    jobs := s.jobs.filter fun j => !slices.contains j.2.slice
    mats := s.mats.filter fun m => !teams.contains m.2.team
    ckpts := s.ckpts.filter fun c => !gone c.2.fn
    queues := s.queues.map fun q : Nat × Queue => if gone (q.1 / 65536) then (q.1, { q.2 with slices := [] }) else q }

/-- Step 1: the firmware cores halt, gangs go without a save, virtual functions take a function-level reset, checkpoint
streaming stops. -/
def State.haltLease (s : State) (l : Lease) : State :=
  let gone := s.leases l
  let s := s.setFirmware l.dies none
  let s := ((s.fns.map Prod.fst).filter fun f => f ≠ 0 && gone f).foldl (fun (s : State) f => s.resetFn f) s
  let s := if gone 0 then s.clearPhysical else s
  s.dropWork gone

/-- A frame of the dies of a lease reset. -/
def Lease.frame (l : Lease) (k : Nat) : Bool := l.dies.contains (k * 65536 / (96 * 2 ^ 30))

/-- A cell that a lease reset zeroes: HBM of its dies and the chip scratchpad; what belongs to teams has gone with them. -/
def Lease.cell (l : Lease) (a : Nat) : Bool :=
  match ownerOf a with
  | none => a < hbmBytes && l.dies.contains (a / (96 * 2 ^ 30))
  | some (r, o) => r == Region.chip.code && l.covers o

/-- Step 2: every storage element of the dies zeroed. Registers of the partition take their reset values. -/
def State.scrubLease (s : State) (l : Lease) : State :=
  let s := { s with
    mem := s.mem.filter fun c => !l.cell c.1
    poison := s.poison.filter fun ln => !l.cell (ln * 128)
    dirtyLines := s.dirtyLines.filter fun ln => !l.cell (ln * 128)
    savedLines := s.savedLines.filter fun ln => !l.cell (ln * 128)
    frames := s.frames.filter fun f => !l.frame f.1
    cores := s.cores.map fun c : Nat × Core => if l.dies.contains (dieOfCore c.1) then (c.1, { tested := c.2.tested }) else c
    nodes := s.nodes.filter fun n => !l.covers (nodePart n.1)
    fns := s.fns.map fun f : Nat × Fn => (f.1, { f.2 with pool := f.2.pool.filter fun k => !l.frame k })
    parts := s.parts.map fun p : Nat × Part => if l.covers p.1 then (p.1, { p.2 with regs := [], staged := 0, used := false }) else p }
  l.dies.foldl (fun (s : State) d => s.changeDie d fun k => { k with pending := [] }) s

/-- The lease reset runs until its record. -/
def State.markLease (s : State) (l : Lease) (since : Option Nat) : State :=
  match l.part with
  | some p => s.changePart p fun k => { k with resetFrom := since }
  | none =>
    { s with
      root := { s.root with resetFrom := since }
      parts := s.parts.map fun p : Nat × Part => (p.1, { p.2 with resetFrom := none }) }

/-- A lease reset of the same dies runs already, so that another is merged into it. -/
def State.leaseRuns (s : State) (l : Lease) : Bool :=
  s.root.resetFrom.isSome || (l.part.map fun p => (s.part p).resetFrom.isSome) == some true

/-- Steps 1 to 3; the record follows. -/
def State.leaseReset (s : State) (l : Lease) (part : Nat) : State :=
  let now := s.ptime
  let s := (((s.haltLease l).scrubLease l).loadOperator l.dies).markLease l (some now)
  { s with agenda := s.agenda ++ [Instr.scrubRecord part] }

/-- MGMT_LEASE_RESET. One of the same dies is merged into the reset that runs. -/
def execMgmtLeaseReset (auth : MgmtAuth) (part : Nat) (s : State) : Host.Outcome State Fault Refusal :=
  let act := s.managed auth fun t =>
    match t.leaseOf part with
    | some l => if t.leaseRuns l then t else t.leaseReset l part
    | none => t
  if ((s.leaseOf part).map s.leaseRuns) == some true then .next act else s.inTurn (.mgmtLeaseReset auth part) act

/-! ### The scrub completion record (R462) -/

/-- The kinds of storage of a die, by KIND, each with its array offset or address and, where the manual gives it, its
length. -/
def storageOf (die : Nat) : List (Nat × Nat × Option Nat) :=
  [(1, 0, none), (2, 0, none), (3, 0, none), (4, 0, none), (5, 0, some (2 ^ 29)), (6, 0, some (2 ^ 26)),
    (7, die * (96 * 2 ^ 30), some (96 * 2 ^ 30)), (8, 0, none)]

/-- One region entry; whether the read-back finds the region sound is the storage's own affair. -/
def regionEntry (kind die base length : Nat) (sound : Bool) : List Byte :=
  bytesOfNat 1 kind ++ bytesOfNat 1 die ++ bytesOfNat 1 (if sound then 1 else 2) ++ bytesOfNat 5 0 ++ bytesOfNat 8 base ++
    bytesOfNat 8 length ++ bytesOfNat 8 0

/-- The entries of a list of regions, and the dies with a region that failed. -/
def State.regionEntries (s : State) : List (Nat × Nat × Nat × Option Nat) → List Byte × List Nat × State
  | [] => ([], [], s)
  | (die, kind, base, length) :: rest =>
    let (x, s) := s.free
    let (y, s) := s.free
    let (more, bad, s) := s.regionEntries rest
    let sound := x.getLsbD 0
    (regionEntry kind die base (length.getD y.toNat) sound ++ more, if sound then bad else setAdd bad die, s)

/-- The header of a record, before its signature. -/
def recordHeader (part : Nat) (sound : Bool) (ctr start end_ entries : Nat) (measured regions : List Byte) : List Byte :=
  bytesOfNat 4 0x52534E4B ++ bytesOfNat 1 part ++ bytesOfNat 1 (if sound then 0 else 1) ++ bytesOfNat 2 0 ++ bytesOfNat 8 ctr ++
    bytesOfNat 8 start ++ bytesOfNat 8 end_ ++ bytesOfNat 4 entries ++ List.replicate 28 0 ++ measured ++ sm3 regions

/-- When the lease reset that a record is about began. -/
def State.leaseSince (s : State) (l : Lease) : Option Nat :=
  match l.part with
  | some p => (s.part p).resetFrom
  | none => s.root.resetFrom

/-- What follows from the result: a partition with a region that failed stays halted, without firmware. The others go on; what a rail
halted goes on once no partition is halted (R471). -/
def State.closeLease (s : State) (l : Lease) (bad : List Nat) : State :=
  let s := s.markLease l none
  let failed := fun (p : Part) => p.dies.any bad.contains
  let parts := s.parts.map fun p : Nat × Part => if l.covers p.1 then (p.1, { p.2 with halted := failed p.2 }) else p
  let s := { s with parts := parts, root := { s.root with halted := s.root.halted && parts.any fun p : Nat × Part => p.2.halted } }
  let lost := l.dies.filter fun d => bad.contains d || (s.part (s.partOfDie d)).halted
  let kept := l.dies.filter fun d => !lost.contains d
  ((s.setFirmware lost none).setDiesFresh lost false).setDiesFresh (kept.filter fun d => !(s.part (s.partOfDie d)).used) true

/-- SCRUB_RECORD: the record that ends a lease reset. -/
def State.scrubRecord (s : State) (l : Lease) (part start : Nat) : State :=
  let regions := l.dies.flatMap fun d => (storageOf d).map fun r => (d, r)
  let (entries, bad, s) := s.regionEntries regions
  let ctr := s.root.leaseCtr + 1
  let head := recordHeader part bad.isEmpty ctr start s.ptime regions.length (Map.at s.root.measured (List.replicate 32 0) 0) entries
  let record := head ++ bytesOfNat 64 (Config.identitySign head).toNat ++ entries
  ({ s with root := { s.root with leaseCtr := ctr, scrubbed := record } }).closeLease l bad

def execScrubRecord (part : Nat) (s : State) : Host.Outcome State Fault Refusal :=
  .next (match s.leaseOf part with
    | some l =>
      match s.leaseSince l with
      | some start => s.scrubRecord l part start
      | none => s
    | none => s)

end Sys2Proof.Machine
end

