-- ==== Sys2Proof/Machine/Integer.lean ====
section
/-! DEFINITION. Group 0x0: integer arithmetic (R104 to R111). -/

namespace Sys2Proof.Machine

/-- Truncating division with the edges of R108. -/
def divEdge (w : Nat) (a b : Int) : Int :=
  if b = 0 then 2 ^ w - 1 else if a = -2 ^ (w - 1) ∧ b = -1 then a else Int.tdiv a b

/-- The remainder of R108. -/
def remEdge (a b : Int) : Int := if b = 0 then a else Int.tmod a b

/-- IADDS and ISUBS: the element operation, and a flag for a result outside the range in any sub-element (R106). -/
def flagOp (f : Fields) (op : Int → Int → Int) : Body :=
  let w := f.width.bits
  let u := unsignedT f
  let exact := fun (x : Weave) (l k : Nat) =>
    op (readElem u w (x.elemOpnd f f.a w l) k) (readElem u w (x.elemOpnd f f.b w l) k)
  computedPair f f.c (fun x l => packElems w (fun k => fit w u f.sat (exact x l k)) f.width.count)
    fun x l => (List.range f.width.count).any fun k => outOfRange w u (exact x l k)

/-- IADDC: the sum or difference with the predicate's carry (R109). -/
def carryExact (f : Fields) (x : Weave) (l : Nat) : Int :=
  let a := ((x.opnd f f.a l).toNat : Int)
  let b := ((x.opnd f f.b l).toNat : Int)
  let c := ((x.opnd f f.c l).toNat : Int)
  if f.t = 0 then a + b + c else a - b - c

/-- The carry or the borrow out (R109). -/
def carryOut (f : Fields) (t : Int) : Bool := if f.t = 0 then 2 ^ 64 ≤ t else t < 0

/-- One half of IDOT (R111): the exact sum over its sub-elements. -/
def dotHalf (f : Fields) (a b c : Word64) (j : Nat) : Int :=
  let w := f.width.bits
  let n := 32 / w
  let ua := f.t == 1 || f.t == 2
  let ub := f.t == 1 || f.t == 3
  signed 32 (elem c 32 j) + ((List.range n).map fun k => readElem ua w a (j * n + k) * readElem ub w b (j * n + k)).sum

/-- IDOT of one lane (R111). -/
def dotLane (f : Fields) (x : Weave) (l : Nat) : Word64 :=
  let w := f.width.bits
  let a := x.elemOpnd f f.a w l
  let b := x.elemOpnd f f.b w l
  let c := x.elemOpnd f f.c 32 l
  packElems 32 (fun j => fit 32 false f.sat (dotHalf f a b c j)) 2

def execIadd (f : Fields) : State → Host.Outcome State Fault Refusal := run (.iadd f) f (intOp f (unsignedT f) fun a b _ => a + b)
def execIsub (f : Fields) : State → Host.Outcome State Fault Refusal := run (.isub f) f (intOp f (unsignedT f) fun a b _ => a - b)
def execIadds (f : Fields) : State → Host.Outcome State Fault Refusal := run (.iadds f) f (flagOp f (· + ·))
def execIsubs (f : Fields) : State → Host.Outcome State Fault Refusal := run (.isubs f) f (flagOp f (· - ·))
def execImul (f : Fields) : State → Host.Outcome State Fault Refusal := run (.imul f) f (intOp f (unsignedT f) fun a b _ => a * b)

/-- IMULH: the upper W bits of the exact product (R107). -/
def execImulh (f : Fields) : State → Host.Outcome State Fault Refusal :=
  run (.imulh f) f (intOp f (unsignedT f) fun a b _ => a * b / 2 ^ f.width.bits)

def execImad (f : Fields) : State → Host.Outcome State Fault Refusal := run (.imad f) f (intOp f (unsignedT f) fun a b c => a * b + c)
def execIdiv (f : Fields) : State → Host.Outcome State Fault Refusal :=
  run (.idiv f) f (intOp f (unsignedT f) fun a b _ => divEdge f.width.bits a b)
def execIrem (f : Fields) : State → Host.Outcome State Fault Refusal := run (.irem f) f (intOp f (unsignedT f) fun a b _ => remEdge a b)
def execImin (f : Fields) : State → Host.Outcome State Fault Refusal := run (.imin f) f (intOp f (unsignedT f) fun a b _ => min a b)
def execImax (f : Fields) : State → Host.Outcome State Fault Refusal := run (.imax f) f (intOp f (unsignedT f) fun a b _ => max a b)
def execIabs (f : Fields) : State → Host.Outcome State Fault Refusal := run (.iabs f) f (intOp f false fun a _ _ => (a.natAbs : Int))
def execIneg (f : Fields) : State → Host.Outcome State Fault Refusal := run (.ineg f) f (intOp f false fun a _ _ => -a)

def execIaddc (f : Fields) : State → Host.Outcome State Fault Refusal :=
  run (.iaddc f) f
    (computedPair f f.c (fun x l => BitVec.ofInt 64 (carryExact f x l)) fun x l => carryOut f (carryExact f x l))

/-- LEA (R110). -/
def execLea (f : Fields) : State → Host.Outcome State Fault Refusal :=
  run (.lea f) f (wholeOp f fun a b c => a + (b <<< f.t.toNat) + c)

def execIdot (f : Fields) : State → Host.Outcome State Fault Refusal := run (.idot f) f (computed f (dotLane f))

end Sys2Proof.Machine
end

