-- ==== Sys2Proof/Machine/Logic.lean ====
section
/-! DEFINITION. Group 0x1: logic, shifts and bits (R112 to R116). -/

namespace Sys2Proof.Machine

/-- SHL of a W-bit element (R113). -/
def shiftLeft (w a n : Nat) : Nat := if w ≤ n then 0 else a * 2 ^ n % 2 ^ w

/-- SHR (R113). -/
def shiftRight (w a n : Nat) : Nat := if w ≤ n then 0 else a / 2 ^ n

/-- SAR (R113): W copies of the top bit when the count reaches W. -/
def shiftArith (w a n : Nat) : Nat := wrapInt w (signed w a / 2 ^ min n w)

/-- ROT (R113). -/
def rotateLeft (w a n : Nat) : Nat := let n := n % w; (a * 2 ^ n % 2 ^ w) ||| (a / 2 ^ (w - n))

/-- FSHR (R113). -/
def funnelRight (w a b c : Nat) : Nat := (a * 2 ^ w + b) / 2 ^ (c % w) % 2 ^ w

/-- The number of ones of a W-bit element (R114). -/
def onesOf (w a : Nat) : Nat := ((List.range w).filter a.testBit).length

/-- CLZ (R114). -/
def leadingZeros (w a : Nat) : Nat := ((List.range w).find? fun i => a.testBit (w - 1 - i)).getD w

/-- CTZ (R114). -/
def trailingZeros (w a : Nat) : Nat := ((List.range w).find? a.testBit).getD w

/-- BREV (R114). -/
def reverseBits (w a : Nat) : Nat := (List.range w).foldl (fun r i => if a.testBit i then r ||| 2 ^ (w - 1 - i) else r) 0

/-- The clipped position and length of BFX and BFI (R115). -/
def fieldPos (f : Fields) : Nat := min (bits f.imm.toNat 7 0) f.width.bits
def fieldLen (f : Fields) : Nat := min (bits f.imm.toNat 15 8) (f.width.bits - fieldPos f)

/-- BFX of one element (R115). -/
def fieldExtract (f : Fields) (a : Nat) : Nat :=
  let len := fieldLen f
  let x := a / 2 ^ fieldPos f % 2 ^ len
  if len = 0 then 0 else if f.t = 1 then x else wrapInt f.width.bits (signed len x)

/-- BFI of one element (R115). -/
def fieldInsert (f : Fields) (a b : Nat) : Nat :=
  let pos := fieldPos f
  let len := fieldLen f
  a - a / 2 ^ pos % 2 ^ len * 2 ^ pos + b % 2 ^ len * 2 ^ pos

/-- PRMB (R116). -/
def permuteBytes (a b c : Word64) : Word64 :=
  packElems 8
    (fun j =>
      let k := elem c 8 j
      if k.testBit 4 then 0 else if k % 16 < 8 then elem a 8 (k % 16) else elem b 8 (k % 16 - 8)) 8

def execAnd (f : Fields) : State → Host.Outcome State Fault Refusal := run (.andOp f) f (elemOp f fun a b _ => a &&& b)
def execOr (f : Fields) : State → Host.Outcome State Fault Refusal := run (.orOp f) f (elemOp f fun a b _ => a ||| b)
def execXor (f : Fields) : State → Host.Outcome State Fault Refusal := run (.xorOp f) f (elemOp f fun a b _ => a ^^^ b)
def execAndn (f : Fields) : State → Host.Outcome State Fault Refusal :=
  run (.andn f) f (elemOp f fun a b _ => a &&& (2 ^ f.width.bits - 1 - b))
def execNot (f : Fields) : State → Host.Outcome State Fault Refusal :=
  run (.notOp f) f (elemOp f fun a _ _ => 2 ^ f.width.bits - 1 - a)
def execShl (f : Fields) : State → Host.Outcome State Fault Refusal :=
  run (.shl f) f (elemOp f fun a b _ => shiftLeft f.width.bits a b)
def execShr (f : Fields) : State → Host.Outcome State Fault Refusal :=
  run (.shr f) f (elemOp f fun a b _ => shiftRight f.width.bits a b)
def execSar (f : Fields) : State → Host.Outcome State Fault Refusal :=
  run (.sar f) f (elemOp f fun a b _ => shiftArith f.width.bits a b)
def execRot (f : Fields) : State → Host.Outcome State Fault Refusal :=
  run (.rot f) f (elemOp f fun a b _ => rotateLeft f.width.bits a b)
def execFshr (f : Fields) : State → Host.Outcome State Fault Refusal :=
  run (.fshr f) f (elemOp f fun a b c => funnelRight f.width.bits a b c)
def execPopc (f : Fields) : State → Host.Outcome State Fault Refusal := run (.popc f) f (elemOp f fun a _ _ => onesOf f.width.bits a)
def execClz (f : Fields) : State → Host.Outcome State Fault Refusal :=
  run (.clz f) f (elemOp f fun a _ _ => leadingZeros f.width.bits a)
def execCtz (f : Fields) : State → Host.Outcome State Fault Refusal :=
  run (.ctz f) f (elemOp f fun a _ _ => trailingZeros f.width.bits a)
def execBrev (f : Fields) : State → Host.Outcome State Fault Refusal :=
  run (.brev f) f (elemOp f fun a _ _ => reverseBits f.width.bits a)
def execBfx (f : Fields) : State → Host.Outcome State Fault Refusal := run (.bfx f) f (elemOp f fun a _ _ => fieldExtract f a)
def execBfi (f : Fields) : State → Host.Outcome State Fault Refusal := run (.bfi f) f (elemOp f fun a b _ => fieldInsert f a b)
def execPrmb (f : Fields) : State → Host.Outcome State Fault Refusal := run (.prmb f) f (wholeOp f permuteBytes)

end Sys2Proof.Machine
end

