-- ==== Sys2Proof/Machine/Migration.lean ====
section
/-! DEFINITION. Moving a virtual function to another module: the commands of MIGCTL, rounds of dirty tracking, the stop, the
state record and the resume (R463 to R468). -/

namespace Sys2Proof.Machine

/-! ### MIGCTL (R463) -/

/-- MIGCTL as a command leaves it. -/
def State.setMig (s : State) (op fn rounds : Nat) (bitmap : Word64) (busy : Bool) (status : Nat) : State :=
  let low := rounds % 256 * 2 ^ 48 + op * 2 ^ 32 + fn * 65536
  (s.changeFn 0 fun f => f.setReg (regMigctl + 8) bitmap.toNat).setCommand regMigctl low busy status

/-- MIGCTL holds a command that runs. -/
def State.migBusy (s : State) : Bool := bit ((s.fn 0).reg regMigctl) 63

/-- The rounds that the register shows. -/
def State.migRounds (s : State) (fn : Nat) : Nat :=
  match (s.fn fn).mig with
  | some m => m.rounds
  | none => bits ((s.fn 0).reg regMigctl) 55 48

def State.refuseMig (s : State) (op fn : Nat) (bitmap : Word64) : State := s.setMig op fn (s.migRounds fn) bitmap false 1

def State.setMigration (s : State) (fn : Nat) (m : Option Migration) : State := s.changeFn fn fun f => { f with mig := m }

/-! ### START and CANCEL -/

/-- START is in order. -/
def State.mayStart (s : State) (fn : Nat) (bitmap : Word64) : Bool :=
  let base := (s.fn 0).reg regMigVa
  let pages := (s.fn 0).reg regMigNp
  fn != 0 && fn < 128 && !(s.fn fn).inReset && (s.fn fn).mig.isNone && bitmap.toNat % 8 == 0 && base % 65536 == 0 && 1 ≤ pages &&
    pages ≤ 2 ^ 24

/-- MIG_START. -/
def execMigStart (fn : Nat) (bitmap : Word64) (s : State) : Host.Outcome State Fault Refusal :=
  .next (if !s.awake || s.migBusy then s
    else if s.mayStart fn bitmap then
      let m : Migration := { base := (s.fn 0).reg regMigVa, pages := (s.fn 0).reg regMigNp, bitmap := bitmap.toNat }
      (s.setMigration fn (some m)).setMig 0 fn 0 bitmap false 0
    else s.refuseMig 0 fn bitmap)

/-- MIG_CANCEL: allowed before STOP; tracking stops and the function runs on. -/
def execMigCancel (fn : Nat) (bitmap : Word64) (s : State) : Host.Outcome State Fault Refusal :=
  .next (if !s.awake || s.migBusy then s
    else
      match (s.fn fn).mig with
      | some m => if m.stopping then s.refuseMig 4 fn bitmap else (s.setMigration fn none).setMig 4 fn m.rounds bitmap false 0
      | none => s.refuseMig 4 fn bitmap)

/-! ### Rounds (R464) -/

/-- The bytes of the bitmap of a round. -/
def Migration.bytes (m : Migration) : List Byte :=
  (List.range ((m.pages + 7) / 8)).map fun i =>
    BitVec.ofNat 8 (((List.range 8).map fun j =>
      let k := 8 * i + j
      if k < m.pages && (m.rounds == 0 || m.dirty.contains (m.base + 65536 * k)) then 2 ^ j else 0).sum)

/-- A round takes effect: the bitmap is written and the tracking cleared. -/
def State.writeRound (s : State) (fn : Nat) (m : Migration) : State :=
  (s.physWrite m.bitmap m.bytes).setMigration fn (some { m with dirty := [], rounds := m.rounds + 1, due := none })

/-- When a round that is asked for now takes effect. -/
def State.roundTime (s : State) : Nat := wholeMicro (s.ptime + 2000)

/-- MIG_ROUND: it starts, or the one that runs takes effect at its time. -/
def execMigRound (fn : Nat) (bitmap : Word64) (s : State) : Host.Outcome State Fault Refusal :=
  .next (if !s.awake then s
    else
      match (s.fn fn).mig with
      | none => if s.migBusy then s else s.refuseMig 1 fn bitmap
      | some m =>
        match m.due with
        | some t =>
          if m.stopping || s.ptime < t then s
          else
            let base := BitVec.ofNat 64 m.bitmap
            ((s.writeRound fn m).holdClock fun _ l => l.fn == fn).setMig 1 fn (m.rounds + 1) base false 0
        | none =>
          if s.migBusy then s
          else if m.stopping || bitmap.toNat % 8 ≠ 0 then s.refuseMig 1 fn bitmap
          else (s.setMigration fn (some { m with bitmap := bitmap.toNat, due := some s.roundTime })).setMig 1 fn m.rounds bitmap true 0)

/-! ### What a stopped function leaves in its save areas (R384, R465) -/

/-- The slices of a function that have been dispatched and are not over. -/
def State.liveSlices (s : State) (fn : Nat) : List Nat := (s.slices.filter fun l => l.2.fn = fn && l.2.live).map Prod.fst

/-- The engine sub-launches of a slice that have completed. -/
def State.enginesDone (s : State) (n : Nat) : List Nat :=
  ((s.slice n).subs.map s.sub).filterMap fun u => if u.kernel.isNone && u.state == .complete then some u.index else none

/-- A control record noted with what it stands for. -/
def State.noteControl (s : State) (bs : List Byte) (image : TeamImage) : State :=
  { s with controls := s.controls.filter (fun c => c.1 ≠ bs) ++ [(bs, image)] }

/-- The control records that the save of a gang wrote stand for its teams. -/
def State.noteSaved (s : State) (n : Nat) : State :=
  let mine := s.gangs.filter fun g => (s.slice n).subs.contains g.2.sub
  let records := mine.flatMap fun g => ((g.2.saved.map fun x => x.controls).getD [])
  let engines := s.enginesDone n
  records.foldl (fun (s : State) r => s.noteControl r.2 { s.teamImage r.1 with engines := engines }) s

/-- A control record written in the place of a team that has none of its own. -/
def State.markControl (s : State) (n : Nat) (u : Sub) (teamId : Nat) (image : TeamImage) : Except Met Unit × State :=
  match u.kernel with
  | none => (.ok (), s)
  | some k =>
    let w := s.contextWalker n 0
    let area := s.saveArea n
    match s.deviceGet w ((area + 8 * u.index) % 2 ^ 56) 8 with
    | (.error m, s) => (.error m, s)
    | (.ok off, s) =>
      let (bs, s) := s.freeBytes (k.ctl / 8)
      match s.devicePut w ((area + natOfBytes off + teamId * k.tsz) % 2 ^ 56) bs with
      | (.error m, s) => (.error m, s)
      | (.ok _, s) => (.ok (), s.noteControl bs image)

/-- The teams of a sub-launch that have ended, and the first team of its first gang that has not been placed. -/
def State.marksOf (s : State) (n u : Nat) : List (Nat × TeamImage) :=
  let x := s.sub u
  match x.kernel with
  | none => []
  | some k =>
    let engines := s.enginesDone n
    let mine := s.teams.filter fun t => t.2.sub = u
    let finished : TeamImage := { team := { ended := true }, engines := engines }
    let none_ : TeamImage := { placed := false, engines := engines }
    let first := (List.range x.gangs).find? fun g => !mine.any fun t => t.2.teamId / max 1 k.gangTeams = g
    ((mine.filter fun t => t.2.ended).map fun t => (t.2.teamId, finished)) ++
      (first.map fun g => (g * k.gangTeams, none_)).toList

/-- Each of the marks of a slice written. -/
def State.writeMarks (s : State) (n : Nat) : List (Sub × Nat × TeamImage) → Except Met Unit × State
  | [] => (.ok (), s)
  | (u, t, image) :: rest =>
    match s.markControl n u t image with
    | (.error m, s) => (.error m, s)
    | (.ok _, s) => s.writeMarks n rest

/-- Every resident bank of a slice spilled. -/
def State.spillAll (s : State) : List Nat → Except Met Unit × State
  | [] => (.ok (), s)
  | t :: rest =>
    match s.spillTeam t with
    | (.error m, s) => (.error m, s)
    | (.ok _, s) => s.spillAll rest

/-- What came about for saved teams since their saves written into their records (R214, R223). -/
def State.settleTeams (s : State) : List Nat → Except Met Unit × State
  | [] => (.ok (), s)
  | t :: rest =>
    match s.settleTeam t with
    | (.error m, s) => (.error m, s)
    | (.ok _, s) => s.settleTeams rest

/-- What the save area of a slice must hold is performed, behind what its cores' L1s hold dirty (R322). A save that fails kills the context's gangs (R385). -/
def State.settleSave (s : State) (n : Nat) : State :=
  let fault := fun (s : State) (m : Met) => s.saveFault n ((s.slice n).subs.headD 0) 0 m
  let s := (((s.sliceTeams n).map fun t => (s.team t).core).eraseDups).foldl (fun (s : State) c => s.leaveCore c) s
  let saved : Except Met Unit × State := match s.settleTeams (s.sliceTeams n) with
    | (.error m, s) => (.error m, s)
    | (.ok _, s) => s.spillAll ((s.sliceTeams n).filter fun t => !(s.team t).away)
  match saved with
  | (.error m, s) => fault s m
  | (.ok _, s) =>
    let s := s.noteSaved n
    let marks := (s.slice n).subs.flatMap fun u => (s.marksOf n u).map fun m => (s.sub u, m)
    match s.writeMarks n marks with
    | (.error m, s) => fault s m
    | (.ok _, s) => s

/-! ### STOP (R465, R466) -/

/-- Work of a function stands on cores or in engines. -/
def State.stillRuns (s : State) (fn : Nat) : Bool :=
  (s.liveSlices fn).any fun n => !(s.standingGangs n).isEmpty || s.jobs.any fun j => j.2.slice = n && !j.2.ended

/-- Gangs that stand are pre-empted. -/
def State.stopGangs (s : State) (fn : Nat) : State :=
  ((s.liveSlices fn).flatMap s.standingGangs).foldl (fun (s : State) g => s.requestPreempt g) s

/-- The queues of a function that are bound. -/
def State.exported (s : State) (fn : Nat) : List (Nat × Queue) :=
  (s.queues.filter fun q => q.1 / 65536 = fn && q.2.bound).map fun q => (q.1 % 65536, q.2)

def queueEntry (queue : Nat) (q : Queue) : List Byte :=
  bytesOfNat 2 queue ++ bytesOfNat 2 0 ++ bytesOfNat 4 q.head ++ bytesOfNat 4 q.tail ++ bytesOfNat 4 0

def sliceEntry (l : Slice) : List Byte :=
  bytesOfNat 2 l.queue ++ bytesOfNat 1 (if l.state == .preempted then 4 else 2) ++ bytesOfNat 1 0 ++ bytesOfNat 4 l.ringIndex ++
    bytesOfNat 8 (l.budget % 2 ^ 40) ++ bytesOfNat 8 l.rcb ++ bytesOfNat 8 0

/-- The counters of a function in index order. -/
def State.counterEntries (s : State) (fn : Nat) : List Byte :=
  (List.range (s.fn fn).counters).flatMap fun c => bytesOfNat 4 (Map.at s.counters 0 (counterKey fn c)).toNat

/-- The state record. -/
def State.stateRecord (s : State) (fn : Nat) : List Byte :=
  let queues := s.exported fn
  let slices := queues.flatMap fun q => (q.2.slices.filter fun n => (s.slice n).live).map s.slice
  bytesOfNat 4 0x474D4E4B ++ bytesOfNat 4 queues.length ++ bytesOfNat 4 (s.fn fn).counters ++ bytesOfNat 4 slices.length ++
    List.replicate 48 0 ++ (queues.flatMap fun q => queueEntry q.1 q.2) ++ s.counterEntries fn ++ slices.flatMap sliceEntry

/-- Steps 1 to 3 while work goes on; then step 4 is asked for, and at its time steps 4 and 5 are done. -/
def State.advanceStop (s : State) (fn : Nat) (m : Migration) : State :=
  match m.due with
  | some t =>
    if s.ptime < t then s
    else
      let s := (s.writeRound fn m).changeFn fn fun f => { f with mig := f.mig.map fun (m : Migration) => { m with stopped := true } }
      let s := s.physWrite ((s.fn 0).reg regMigState) (s.stateRecord fn)
      s.setMig 2 fn (m.rounds + 1) (BitVec.ofNat 64 m.bitmap) false 0
  | none =>
    if s.stillRuns fn then s.stopGangs fn
    else
      let s := (s.liveSlices fn).foldl (fun (s : State) n => s.settleSave n) s
      let due := s.roundTime
      s.changeFn fn fun f => { f with mig := f.mig.map fun (m : Migration) => { m with due := some due } }

/-- MIG_STOP: it starts, or the one that runs goes on. -/
def execMigStop (fn : Nat) (bitmap : Word64) (s : State) : Host.Outcome State Fault Refusal :=
  if !s.awake then .next s
  else
    match (s.fn fn).mig with
    | none => .next (if s.migBusy then s else s.refuseMig 2 fn bitmap)
    | some m =>
      if m.stopping && !m.stopped then s.ifRoom (s.advanceStop fn m)
      else if s.migBusy then .next s
      else if m.stopped || bitmap.toNat % 8 ≠ 0 || (s.fn 0).reg regMigState % 64 ≠ 0 then .next (s.refuseMig 2 fn bitmap)
      else
        let m := { m with bitmap := bitmap.toNat, stopping := true }
        .next (((s.setMigration fn (some m)).stopGangs fn).setMig 2 fn m.rounds bitmap true 0)

/-! ### RESUME (R467) -/

/-- A slice entry of the state record. -/
structure Moved where
  queue : Nat
  state : Nat
  ring : Nat
  budget : Nat
  rcb : Nat
  deriving DecidableEq, Repr

/-- The state record as it is read. -/
structure StateRecord where
  queues : List (Nat × Nat × Nat)
  counters : List Nat
  slices : List Moved

/-- The entries of `n` that stand one after another, each of `size` bytes. -/
def chunks (size n : Nat) (bs : List Byte) : List (List Byte) := (List.range n).map fun i => (bs.drop (size * i)).take size

/-- The state record at MIGSTATE, if it is one. -/
def State.readStateRecord (s : State) : Option StateRecord × State :=
  let at_ := (s.fn 0).reg regMigState
  let (head, s) := s.physRead at_ 64
  let nq := fieldAt head 4 4
  let nctr := fieldAt head 8 4
  let ns := fieldAt head 12 4
  if fieldAt head 0 4 ≠ 0x474D4E4B || at_ % 64 ≠ 0 || 65536 < nq || 65536 < nctr || 65536 < ns then (none, s)
  else
    let (bs, s) := s.physRead (at_ + 64) (16 * nq + 4 * nctr + 32 * ns)
    let queues := (chunks 16 nq bs).map fun b => (fieldAt b 0 2, fieldAt b 4 4, fieldAt b 8 4)
    let counters := (chunks 4 nctr (bs.drop (16 * nq))).map natOfBytes
    let slices := (chunks 32 ns (bs.drop (16 * nq + 4 * nctr))).map fun b =>
      ({ queue := fieldAt b 0 2, state := fieldAt b 2 1, ring := fieldAt b 4 4, budget := fieldAt b 8 8, rcb := fieldAt b 0x10 8 } : Moved)
    (some ⟨queues, counters, slices⟩, s)

/-- The function is ready for what a record holds: the same quotas, and each exported queue bound. -/
def State.readyFor (s : State) (fn : Nat) (r : StateRecord) : Bool :=
  let f := s.fn fn
  fn != 0 && fn < 128 && !f.inReset && f.mig.isNone && (s.slices.all fun l => l.2.fn != fn) && r.counters.length == f.counters &&
    (r.queues.all fun q => q.1 < f.queues && (s.queue (queueKey fn q.1)).bound) &&
    r.slices.all fun l => (r.queues.any fun q => q.1 = l.queue) && (l.state == 2 || l.state == 4) && l.budget < 2 ^ 40

/-- The control record of a team read. -/
def State.readControl (s : State) (w : Walker) (area : Nat) (u : Sub) (k : Kernel) (teamId : Nat) : Except Met (List Byte) × State :=
  match s.deviceGet w ((area + 8 * u.index) % 2 ^ 56) 8 with
  | (.error m, s) => (.error m, s)
  | (.ok off, s) => s.deviceGet w ((area + natOfBytes off + teamId * k.tsz) % 2 ^ 56) k.ctl

/-- The teams of a sub-launch from a TEAMID on, up to one that has not been placed, and the completed engines that a record
names. -/
def State.readTeams (s : State) (w : Walker) (area : Nat) (u : Sub) (k : Kernel) :
    Nat → Nat → Except Met (List Revived × List Nat) × State
  | 0, _ => (.ok ([], []), s)
  | n + 1, t =>
    match s.readControl w area u k t with
    | (.error m, s) => (.error m, s)
    | (.ok bs, s) =>
      let image := s.imageOf bs
      if !image.placed then (.ok ([], image.engines), s)
      else
        match s.readTeams w area u k n (t + 1) with
        | (.error m, s) => (.error m, s)
        | (.ok (rest, engines), s) =>
          (.ok ({ sub := u.index, team := t, ended := image.team.ended, control := bs, image := image } :: rest,
            setUnion image.engines engines), s)

def State.readAllTeams (s : State) (w : Walker) (area : Nat) : List Sub → Except Met (List Revived × List Nat) × State
  | [] => (.ok ([], []), s)
  | u :: rest =>
    match u.kernel with
    | none => s.readAllTeams w area rest
    | some k =>
      match s.readTeams w area u k (u.gangs * k.gangTeams) 0 with
      | (.error m, s) => (.error m, s)
      | (.ok (a, x), s) =>
        match s.readAllTeams w area rest with
        | (.error m, s) => (.error m, s)
        | (.ok (b, y), s) => (.ok (a ++ b, setUnion x y), s)

/-- The parts of a team that its record holds. -/
def State.recordHolds (s : State) (n : Nat) (r : Revived) : State :=
  { s with teams := s.teams.map fun t : Nat × Team =>
      if (s.slice n).subs.contains t.2.sub && (s.sub t.2.sub).index = r.sub && t.2.teamId = r.team && !t.2.ended then
        (t.1, { t.2 with inArea := r.image.team.inArea })
      else t }

/-- A slice placed PREEMPTED with its budget left, its teams as their records hold them. -/
def State.placeMoved (s : State) (fn : Nat) (x : Moved) (l : Slice) (subs : List Sub) (teams : List Revived) (engines : List Nat)
    (time : Nat) : State :=
  let k := queueKey fn x.queue
  let n := Map.next s.slices
  let s := (({ s with slices := Map.put s.slices n l }).addSubs n subs).changeQueue k fun q => { q with slices := q.slices ++ [n] }
  let s := (s.slice n).subs.foldl
    (fun (s : State) u =>
      let s := s.reviveSub n u teams
      if engines.contains (s.sub u).index && (s.sub u).kernel.isNone then s.changeSub u fun v => { v with state := .complete } else s) s
  let s := teams.foldl (fun (s : State) r => s.recordHolds n r) s
  let flags := (teams.find? fun r => !r.ended).map fun r => r.image
  let s := s.changeSlice n fun y =>
    { y with
      state := .preempted, rcb := x.rcb, budget := x.budget, left := x.budget, notBefore := time + 1, setUp := flags.isSome }
  let s := match flags with
    | some i => s.changeCtx n fun _ => i.ctx
    | none => s
  s.setCkpt n { s.ckpt n with full := true }

/-- One slice entry read from its ring, its bundle and its save area; none where one of them cannot be read. -/
def State.resumeSlice (s : State) (fn : Nat) (x : Moved) : Option State :=
  let f := s.fn fn
  let w := s.deviceWalker fn
  let q := s.queue (queueKey fn x.queue)
  match s.deviceGet w ((q.ringBase + 64 * x.ring) % 2 ^ 56) 64 with
  | (.error _, _) => none
  | (.ok bs, s) =>
    let l := sliceOfEntry fn x.queue x.ring q bs
    match (readingSlice w (s.part f.part).dies.length f.counters l q bs).run.run s with
    | (.error _, _) => none
    | (.ok subs, s) =>
      let key := nodeKey f.part x.rcb
      let s := s.readChain fn chainFuel key
      let area := s.effective (s.chain chainFuel key) 8 0x48 8
      match s.readAllTeams w area subs with
      | (.error _, _) => none
      | (.ok (teams, engines), s) =>
        match s.deviceGet w ((area + 0x48) % 2 ^ 56) 8 with
        | (.error _, _) => none
        | (.ok time, s) => some (s.placeMoved fn x l subs teams engines (natOfBytes time))

/-- An entry of a queue ahead of the first slice of the record: its slice was QUEUED, and is read anew. -/
def State.rereadEntry (s : State) (fn queue ring : Nat) : Option State :=
  let k := queueKey fn queue
  let t := (s.changeQueue k fun q => { q with next := ring }).readSlice fn queue
  if (t.queue k).waits then none else some t

/-- An entry behind the first slice of the record that the record does not name: its slice has retired, and waits for HEAD. -/
def State.retiredEntry (s : State) (fn queue ring : Nat) : State :=
  s.enqueue (queueKey fn queue) (Map.next s.slices) { fn := fn, queue := queue, ringIndex := ring, state := .retired }

/-- The entries of a queue in ring order, up to the last that the record names. Which of the others were QUEUED the record does not
say (log entry 130). -/
def State.resumeEntries (s : State) (fn queue : Nat) (mine : List Moved) : Bool → List Nat → Option State
  | _, [] => some s
  | first, ring :: rest =>
    match mine.find? fun x => x.ring = ring with
    | some x => (s.resumeSlice fn x).bind fun s => s.resumeEntries fn queue mine false rest
    | none =>
      if first then (s.rereadEntry fn queue ring).bind fun s => s.resumeEntries fn queue mine true rest
      else (s.retiredEntry fn queue ring).resumeEntries fn queue mine false rest

/-- HEAD and TAIL of a queue, the slices that the record names or passes over, and the reading that goes on behind them. -/
def State.resumeQueue (s : State) (fn : Nat) (r : StateRecord) (q : Nat × Nat × Nat) : Option State :=
  let k := queueKey fn q.1
  let size := max 1 (s.queue k).ringSize
  let head := q.2.1 % size
  let mine := (r.slices.filter fun l => l.queue = q.1).map fun l => { l with ring := l.ring % size }
  let count := (mine.map fun l => (l.ring + size - head) % size + 1).foldl max 0
  let s := s.changeQueue k fun x => { x with head := head, tail := q.2.2, next := head, started := true }
  (s.resumeEntries fn q.1 mine true ((List.range count).map fun i => (head + i) % size)).map fun s =>
    s.changeQueue k fun x => { x with next := (head + count) % size }

def State.resumeQueues (s : State) (fn : Nat) (r : StateRecord) : List (Nat × Nat × Nat) → Option State
  | [] => some s
  | q :: rest => (s.resumeQueue fn r q).bind fun s => s.resumeQueues fn r rest

/-- RESUME of a function whose record has been read. -/
def State.resumeFunction (s : State) (fn : Nat) (r : StateRecord) : Option State :=
  let s := (s.exported fn).foldl (fun (s : State) q => s.readGuest (queueKey fn q.1)) s
  let s := r.counters.zipIdx.foldl (fun (s : State) c => s.setCounter (counterKey fn c.2) (BitVec.ofNat 32 c.1).toInt) s
  (s.resumeQueues fn r r.queues).map fun s =>
    (s.exported fn).foldl (fun (s : State) q => s.readGuest (queueKey fn q.1)) s

/-- MIG_RESUME. -/
def execMigResume (fn : Nat) (bitmap : Word64) (s : State) : Host.Outcome State Fault Refusal :=
  if !s.awake || s.migBusy then .next s
  else
    let refused := s.refuseMig 3 fn bitmap
    match s.readStateRecord with
    | (none, _) => .next refused
    | (some r, t) =>
      if !t.readyFor fn r then .next refused
      else
        match t.resumeFunction fn r with
        | some t => s.orWait (.migResume fn bitmap) (t.setMig 3 fn (t.migRounds fn) bitmap false 0)
        | none => .next refused

end Sys2Proof.Machine
end

