-- ==== Sys2Proof/Machine/Dispatch.lean ====
section
/-! DEFINITION. The meaning of every instruction and event: one arm for each constructor. -/

namespace Sys2Proof.Machine

def exec (i : Instr) (s : State) : Host.Outcome State Fault Refusal :=
  match i with
  | .iadd f => Sys2Proof.Machine.execIadd f s
  | .isub f => Sys2Proof.Machine.execIsub f s
  | .iadds f => Sys2Proof.Machine.execIadds f s
  | .isubs f => Sys2Proof.Machine.execIsubs f s
  | .imul f => Sys2Proof.Machine.execImul f s
  | .imulh f => Sys2Proof.Machine.execImulh f s
  | .imad f => Sys2Proof.Machine.execImad f s
  | .idiv f => Sys2Proof.Machine.execIdiv f s
  | .irem f => Sys2Proof.Machine.execIrem f s
  | .imin f => Sys2Proof.Machine.execImin f s
  | .imax f => Sys2Proof.Machine.execImax f s
  | .iabs f => Sys2Proof.Machine.execIabs f s
  | .ineg f => Sys2Proof.Machine.execIneg f s
  | .iaddc f => Sys2Proof.Machine.execIaddc f s
  | .lea f => Sys2Proof.Machine.execLea f s
  | .idot f => Sys2Proof.Machine.execIdot f s
  | .andOp f => Sys2Proof.Machine.execAnd f s
  | .orOp f => Sys2Proof.Machine.execOr f s
  | .xorOp f => Sys2Proof.Machine.execXor f s
  | .andn f => Sys2Proof.Machine.execAndn f s
  | .notOp f => Sys2Proof.Machine.execNot f s
  | .shl f => Sys2Proof.Machine.execShl f s
  | .shr f => Sys2Proof.Machine.execShr f s
  | .sar f => Sys2Proof.Machine.execSar f s
  | .rot f => Sys2Proof.Machine.execRot f s
  | .fshr f => Sys2Proof.Machine.execFshr f s
  | .popc f => Sys2Proof.Machine.execPopc f s
  | .clz f => Sys2Proof.Machine.execClz f s
  | .ctz f => Sys2Proof.Machine.execCtz f s
  | .brev f => Sys2Proof.Machine.execBrev f s
  | .bfx f => Sys2Proof.Machine.execBfx f s
  | .bfi f => Sys2Proof.Machine.execBfi f s
  | .prmb f => Sys2Proof.Machine.execPrmb f s
  | .icmp f => Sys2Proof.Machine.execIcmp f s
  | .sel f => Sys2Proof.Machine.execSel f s
  | .mov f => Sys2Proof.Machine.execMov f s
  | .movSubelement f => Sys2Proof.Machine.execMovSubelement f s
  | .movi f => Sys2Proof.Machine.execMovi f s
  | .movs f => Sys2Proof.Machine.execMovs f s
  | .movv f => Sys2Proof.Machine.execMovv f s
  | .pset f => Sys2Proof.Machine.execPset f s
  | .pmov f => Sys2Proof.Machine.execPmov f s
  | .cvti f => Sys2Proof.Machine.execCvti f s
  | .fadd f => Sys2Proof.Machine.execFadd f s
  | .fsub f => Sys2Proof.Machine.execFsub f s
  | .fmul f => Sys2Proof.Machine.execFmul f s
  | .ffma f => Sys2Proof.Machine.execFfma f s
  | .fmin f => Sys2Proof.Machine.execFmin f s
  | .fmax f => Sys2Proof.Machine.execFmax f s
  | .fcmp f => Sys2Proof.Machine.execFcmp f s
  | .fclass f => Sys2Proof.Machine.execFclass f s
  | .fdot2 f => Sys2Proof.Machine.execFdot2 f s
  | .fcvt f => Sys2Proof.Machine.execFcvt f s
  | .frnd f => Sys2Proof.Machine.execFrnd f s
  | .ftoi f => Sys2Proof.Machine.execFtoi f s
  | .itof f => Sys2Proof.Machine.execItof f s
  | .frcp f => Sys2Proof.Machine.execFrcp f s
  | .frsq f => Sys2Proof.Machine.execFrsq f s
  | .fsqrt f => Sys2Proof.Machine.execFsqrt f s
  | .fexp2 f => Sys2Proof.Machine.execFexp2 f s
  | .flog2 f => Sys2Proof.Machine.execFlog2 f s
  | .fsin f => Sys2Proof.Machine.execFsin f s
  | .fcos f => Sys2Proof.Machine.execFcos f s
  | .ftanh f => Sys2Proof.Machine.execFtanh f s
  | .xmax f => Sys2Proof.Machine.execXmax f s
  | .xscale f => Sys2Proof.Machine.execXscale f s
  | .xsplit f => Sys2Proof.Machine.execXsplit f s
  | .qpack f => Sys2Proof.Machine.execQpack f s
  | .qunpk f => Sys2Proof.Machine.execQunpk f s
  | .qdeq f => Sys2Proof.Machine.execQdeq f s
  | .spsel f => Sys2Proof.Machine.execSpsel f s
  | .spexp f => Sys2Proof.Machine.execSpexp f s
  | .perm f => Sys2Proof.Machine.execPerm f s
  | .bcast f => Sys2Proof.Machine.execBcast f s
  | .shfl f => Sys2Proof.Machine.execShfl f s
  | .vote f => Sys2Proof.Machine.execVote f s
  | .reduce f => Sys2Proof.Machine.execReduce f s
  | .scan f => Sys2Proof.Machine.execScan f s
  | .matchOp f => Sys2Proof.Machine.execMatch f s
  | .bra f => Sys2Proof.Machine.execBra f s
  | .brx f => Sys2Proof.Machine.execBrx f s
  | .call f => Sys2Proof.Machine.execCall f s
  | .callx f => Sys2Proof.Machine.execCallx f s
  | .ret f => Sys2Proof.Machine.execRet f s
  | .exit f => Sys2Proof.Machine.execExit f s
  | .reform f => Sys2Proof.Machine.execReform f s
  | .trap f => Sys2Proof.Machine.execTrap f s
  | .bpt f => Sys2Proof.Machine.execBpt f s
  | .nop f => Sys2Proof.Machine.execNop f s
  | .conv f => Sys2Proof.Machine.execConv f s
  | .sign f => Sys2Proof.Machine.execSign f s
  | .pdis f => Sys2Proof.Machine.execPdis f s
  | .pen f => Sys2Proof.Machine.execPen f s
  | .syield f => Sys2Proof.Machine.execSyield f s
  | .getsys f => Sys2Proof.Machine.execGetsys f s
  | .setsys f => Sys2Proof.Machine.execSetsys f s
  | .trapret f => Sys2Proof.Machine.execTrapret f s
  | .icpref f => Sys2Proof.Machine.execIcpref f s
  | .icpin f => Sys2Proof.Machine.execIcpin f s
  | .icunpin f => Sys2Proof.Machine.execIcunpin f s
  | .ckreq f => Sys2Proof.Machine.execCkreq f s
  | .ld f => Sys2Proof.Machine.execLd f s
  | .st f => Sys2Proof.Machine.execSt f s
  | .ldm f => Sys2Proof.Machine.execLdm f s
  | .stm f => Sys2Proof.Machine.execStm f s
  | .pref f => Sys2Proof.Machine.execPref f s
  | .cctl f => Sys2Proof.Machine.execCctl f s
  | .atom f => Sys2Proof.Machine.execAtom f s
  | .acas f => Sys2Proof.Machine.execAcas f s
  | .red f => Sys2Proof.Machine.execRed f s
  | .fence f => Sys2Proof.Machine.execFence f s
  | .waitv f => Sys2Proof.Machine.execWaitv f s
  | .cpy f => Sys2Proof.Machine.execCpy f s
  | .cpym f => Sys2Proof.Machine.execCpym f s
  | .cpyr f => Sys2Proof.Machine.execCpyr f s
  | .wmrd f => Sys2Proof.Machine.execWmrd f s
  | .wmwait f => Sys2Proof.Machine.execWmwait f s
  | .cpyq f => Sys2Proof.Machine.execCpyq f s
  | .cpyc f => Sys2Proof.Machine.execCpyc f s
  | .jobsub f => Sys2Proof.Machine.execJobsub f s
  | .binit f => Sys2Proof.Machine.execBinit f s
  | .barr f => Sys2Proof.Machine.execBarr f s
  | .barrx f => Sys2Proof.Machine.execBarrx f s
  | .bwait f => Sys2Proof.Machine.execBwait f s
  | .btest f => Sys2Proof.Machine.execBtest f s
  | .cjoin f => Sys2Proof.Machine.execCjoin f s
  | .cleave f => Sys2Proof.Machine.execCleave f s
  | .cgen f => Sys2Proof.Machine.execCgen f s
  | .qsend f => Sys2Proof.Machine.execQsend f s
  | .qrecv f => Sys2Proof.Machine.execQrecv f s
  | .qpeek f => Sys2Proof.Machine.execQpeek f s
  | .spawn f => Sys2Proof.Machine.execSpawn f s
  | .steal f => Sys2Proof.Machine.execSteal f s
  | .synct f => Sys2Proof.Machine.execSynct f s
  | .mma f => Sys2Proof.Machine.execMma f s
  | .mmas f => Sys2Proof.Machine.execMmas f s
  | .mmaq f => Sys2Proof.Machine.execMmaq f s
  | .mmam f => Sys2Proof.Machine.execMmam f s
  | .accz f => Sys2Proof.Machine.execAccz f s
  | .accsc f => Sys2Proof.Machine.execAccsc f s
  | .accx f => Sys2Proof.Machine.execAccx f s
  | .accrd f => Sys2Proof.Machine.execAccrd f s
  | .accwr f => Sys2Proof.Machine.execAccwr f s
  | .accst f => Sys2Proof.Machine.execAccst f s
  | .accld f => Sys2Proof.Machine.execAccld f s
  | .obres f => Sys2Proof.Machine.execObres f s
  | .obrel f => Sys2Proof.Machine.execObrel f s
  | .obwr f => Sys2Proof.Machine.execObwr f s
  | .obrd f => Sys2Proof.Machine.execObrd f s
  | .trapEntry weave cause pc addr lanes trapped => Sys2Proof.Machine.execTrapEntry weave cause pc addr lanes trapped s
  | .preemptWindowLimit gang => Sys2Proof.Machine.execPreemptWindowLimit gang s
  | .waitvWake line => Sys2Proof.Machine.execWaitvWake line s
  | .waitvTimeout weave lane => Sys2Proof.Machine.execWaitvTimeout weave lane s
  | .copyLandElement copy => Sys2Proof.Machine.execCopyLandElement copy s
  | .copyWalkRetry copy => Sys2Proof.Machine.execCopyWalkRetry copy s
  | .copyComplete copy => Sys2Proof.Machine.execCopyComplete copy s
  | .jobEnd job => Sys2Proof.Machine.execJobEnd job s
  | .matrixComplete op => Sys2Proof.Machine.execMatrixComplete op s
  | .binAged core bin => Sys2Proof.Machine.execBinAged core bin s
  | .binDraw core bin => Sys2Proof.Machine.execBinDraw core bin s
  | .yieldPeriodEnd weave lane => Sys2Proof.Machine.execYieldPeriodEnd weave lane s
  | .watchdog gang => Sys2Proof.Machine.execWatchdog gang s
  | .sidelogWalkRetry core page => Sys2Proof.Machine.execSidelogWalkRetry core page s
  | .sidelogReplay core page => Sys2Proof.Machine.execSidelogReplay core page s
  | .pageRequestExpire core page => Sys2Proof.Machine.execPageRequestExpire core page s
  | .faultRecordWrite die => Sys2Proof.Machine.execFaultRecordWrite die s
  | .releaseWriteback core line => Sys2Proof.Machine.execReleaseWriteback core line s
  | .l1CleanExpire core line => Sys2Proof.Machine.execL1CleanExpire core line s
  | .sliceRead fn queue => Sys2Proof.Machine.execSliceRead fn queue s
  | .ctrset fn queue => Sys2Proof.Machine.execCtrset fn queue s
  | .nopSlice fn queue => Sys2Proof.Machine.execNopSlice fn queue s
  | .sliceSelect part => Sys2Proof.Machine.execSliceSelect part s
  | .sliceDispatch fn queue => Sys2Proof.Machine.execSliceDispatch fn queue s
  | .gangPlace gang => Sys2Proof.Machine.execGangPlace gang s
  | .sublaunchComplete slice sub => Sys2Proof.Machine.execSublaunchComplete slice sub s
  | .budgetExhausted slice => Sys2Proof.Machine.execBudgetExhausted slice s
  | .nodeBudgetReached node => Sys2Proof.Machine.execNodeBudgetReached node s
  | .periodRenew node => Sys2Proof.Machine.execPeriodRenew node s
  | .rcbFieldWriteback node => Sys2Proof.Machine.execRcbFieldWriteback node s
  | .rcbReread node => Sys2Proof.Machine.execRcbReread node s
  | .l2StageFill slice sub record => Sys2Proof.Machine.execL2StageFill slice sub record s
  | .stageReservationExpire slice => Sys2Proof.Machine.execStageReservationExpire slice s
  | .preemptRequest gang => Sys2Proof.Machine.execPreemptRequest gang s
  | .controlSave gang => Sys2Proof.Machine.execControlSave gang s
  | .newcomerPlace gang => Sys2Proof.Machine.execNewcomerPlace gang s
  | .bankSpill core => Sys2Proof.Machine.execBankSpill core s
  | .gangResume gang => Sys2Proof.Machine.execGangResume gang s
  | .tqInv fn => Sys2Proof.Machine.execTqInv fn s
  | .tqScrub fn => Sys2Proof.Machine.execTqScrub fn s
  | .tqPooladd fn => Sys2Proof.Machine.execTqPooladd fn s
  | .pageMove move => Sys2Proof.Machine.execPageMove move s
  | .settleEnd frame => Sys2Proof.Machine.execSettleEnd frame s
  | .notify fn value => Sys2Proof.Machine.execNotify fn value s
  | .qbindBind fn queue qcb => Sys2Proof.Machine.execQbindBind fn queue qcb s
  | .qbindUnbind fn queue qcb => Sys2Proof.Machine.execQbindUnbind fn queue qcb s
  | .qbindRebind fn queue qcb => Sys2Proof.Machine.execQbindRebind fn queue qcb s
  | .fncfgWrite fn value => Sys2Proof.Machine.execFncfgWrite fn value s
  | .trootWrite fn value => Sys2Proof.Machine.execTrootWrite fn value s
  | .registerWrite space owner offset value => Sys2Proof.Machine.execRegisterWrite space owner offset value s
  | .functionLevelReset fn => Sys2Proof.Machine.execFunctionLevelReset fn s
  | .flrComplete fn => Sys2Proof.Machine.execFlrComplete fn s
  | .msixCoalesceExpire fn => Sys2Proof.Machine.execMsixCoalesceExpire fn s
  | .inboundAccess port requester bus access => Sys2Proof.Machine.execInboundAccess port requester bus access s
  | .twillPlaneFail plane => Sys2Proof.Machine.execTwillPlaneFail plane s
  | .remoteRetry weave answer => Sys2Proof.Machine.execRemoteRetry weave answer s
  | .remoteCeilingExpire gang => Sys2Proof.Machine.execRemoteCeilingExpire gang s
  | .checkpointTimer context => Sys2Proof.Machine.execCheckpointTimer context s
  | .checkpointRequest context => Sys2Proof.Machine.execCheckpointRequest context s
  | .checkpointCut context => Sys2Proof.Machine.execCheckpointCut context s
  | .checkpointStream context => Sys2Proof.Machine.execCheckpointStream context s
  | .checkpointImageComplete context => Sys2Proof.Machine.execCheckpointImageComplete context s
  | .launchRollback slice => Sys2Proof.Machine.execLaunchRollback slice s
  | .patrolRead die unit found => Sys2Proof.Machine.execPatrolRead die unit found s
  | .timingReplay core => Sys2Proof.Machine.execTimingReplay core s
  | .iftDue core => Sys2Proof.Machine.execIftDue core s
  | .iftRun core mismatch => Sys2Proof.Machine.execIftRun core mismatch s
  | .iftWaitExpire core => Sys2Proof.Machine.execIftWaitExpire core s
  | .scmdExtend part obj arg1 arg2 => Sys2Proof.Machine.execScmdExtend part obj arg1 arg2 s
  | .scmdPreempt part obj arg1 arg2 => Sys2Proof.Machine.execScmdPreempt part obj arg1 arg2 s
  | .scmdKill part obj arg1 arg2 => Sys2Proof.Machine.execScmdKill part obj arg1 arg2 s
  | .scmdResume part obj arg1 arg2 => Sys2Proof.Machine.execScmdResume part obj arg1 arg2 s
  | .scmdCancel part obj arg1 arg2 => Sys2Proof.Machine.execScmdCancel part obj arg1 arg2 s
  | .scmdUnrecoverable part obj arg1 arg2 => Sys2Proof.Machine.execScmdUnrecoverable part obj arg1 arg2 s
  | .scmdDiscard part obj arg1 arg2 => Sys2Proof.Machine.execScmdDiscard part obj arg1 arg2 s
  | .scmdRestore part obj arg1 arg2 => Sys2Proof.Machine.execScmdRestore part obj arg1 arg2 s
  | .romBoot => Sys2Proof.Machine.execRomBoot s
  | .fwload part image => Sys2Proof.Machine.execFwload part image s
  | .mgmtLeaseReset auth part => Sys2Proof.Machine.execMgmtLeaseReset auth part s
  | .scrubRecord part => Sys2Proof.Machine.execScrubRecord part s
  | .mgmtPartition auth masks => Sys2Proof.Machine.execMgmtPartition auth masks s
  | .mgmtSetfd auth power switch => Sys2Proof.Machine.execMgmtSetfd auth power switch s
  | .mgmtKeyslot auth slot key floor => Sys2Proof.Machine.execMgmtKeyslot auth slot key floor s
  | .mgmtCapset auth core mask => Sys2Proof.Machine.execMgmtCapset auth core mask s
  | .mgmtPolicy auth part flags => Sys2Proof.Machine.execMgmtPolicy auth part flags s
  | .mgmtRead object => Sys2Proof.Machine.execMgmtRead object s
  | .migStart fn bitmap => Sys2Proof.Machine.execMigStart fn bitmap s
  | .migRound fn bitmap => Sys2Proof.Machine.execMigRound fn bitmap s
  | .migStop fn bitmap => Sys2Proof.Machine.execMigStop fn bitmap s
  | .migResume fn bitmap => Sys2Proof.Machine.execMigResume fn bitmap s
  | .migCancel fn bitmap => Sys2Proof.Machine.execMigCancel fn bitmap s
  | .jobWrite job => Sys2Proof.Machine.execJobWrite job s
  | .twillRemoteAccess peer request => Sys2Proof.Machine.execTwillRemoteAccess peer request s
  | .twillPlaneUp plane => Sys2Proof.Machine.execTwillPlaneUp plane s
  | .inFieldTestEnd core => Sys2Proof.Machine.execInFieldTestEnd core s
  | .thermalThrottle die => Sys2Proof.Machine.execThermalThrottle die s
  | .thermalRecover die => Sys2Proof.Machine.execThermalRecover die s
  | .powerUp bootFlash => Sys2Proof.Machine.execPowerUp bootFlash s
  | .railOutOfRange rail => Sys2Proof.Machine.execRailOutOfRange rail s

end Sys2Proof.Machine
end

