-- ==== Sys2Proof/Machine/Selector.lean ====
section
/-! DEFINITION. The selectors: which candidates are ready, what each core takes in a clock, and the issue of what was taken
(R262 to R268). -/

namespace Sys2Proof.Machine

/-- An issue group issues: its instruction is fetched, decoded and run. -/
def State.issueGroup (s : State) (g : Group) : Host.Outcome State Fault Refusal :=
  match s.prepare g with
  | .run i s => exec i s
  | .finished r => r

/-! ### Readiness (R262) -/

/-- A candidate without the group that it comes from. -/
def State.withoutCand (s : State) (x : Cand) : State :=
  match x.source with
  | .standing index => s.takeGroup index x.part
  | .bin _ _ => s

/-- What an instruction leaves that stays at its slot whole: the wait that it has begun (R219, R229, R231, R237), or the page
request that it has posted (R324). -/
def State.leavesMark (s t : State) (g : Group) : Bool :=
  (g.weaves.any fun u => decide ((t.weave u).bwaits ≠ (s.weave u).bwaits)) ||
    decide ((t.core (s.team g.team).core).requests ≠ (s.core (s.team g.team).core).requests)

/-- The next instruction of a candidate can issue for at least one of its threads: it would not be withdrawn whole, or would
park. -/
def State.ready (s : State) (x : Cand) : Bool :=
  match (s.withoutCand x).issueGroup x.part with
  | .next t => !t.groups.contains x.part.withdrawn || s.leavesMark t x.part
  | _ => true

/-- A report about the whole gang waits for room: it holds the gang (R326). -/
def State.reportHolds (s : State) (g : Nat) : Bool :=
  let n := (s.sub (s.gang g).sub).slice
  s.dies.any (fun d => 256 ≤ d.2.pending.length) && (s.gang g).counts &&
    (s.starved g || (s.overdue g).isSome || ((s.gang g).pdis.any fun p => p.opened + windowClocks ≤ s.clock) || s.exhausted n || (s.sliceChain n).any s.reached)

/-- The ready candidates of a core. -/
def State.readyCands (s : State) (c : Nat) : List Cand :=
  (s.standingCands c ++ s.binCands c).filter fun x => !s.reportHolds (s.team x.team).gang && s.ready x

/-! ### What the cores take -/

/-- What a core takes in a clock, in the order of issue; the rest of what was ready; the team that leads pass 2. -/
structure Choice where
  core : Nat
  taken : List Source
  waits : List Source
  leader : Option Nat
  deriving DecidableEq, Repr

def State.choice (s : State) (c : Nat) : Choice :=
  let ready := s.readyCands c
  let (first, second) := selection (s.core c).leader (s.teamsOn c) ready
  let taken := (first ++ second).map fun x => x.source
  { core := c, taken := taken, waits := (ready.map fun x => x.source).filter fun x => !taken.contains x
    leader := second.head?.map fun x => x.team }

/-- The choices of all cores. -/
def State.choices (s : State) : List Choice :=
  (((s.teams.filter fun t => !t.2.ended).map fun t => t.2.core).eraseDups).map s.choice

/-- The claimed banks of a core whose spill has not begun and that something waits for, for the first time: a candidate of a claiming
gang, on whichever core of its run, that could issue without any claim, or a copy that could land (R380). -/
def State.firstAccessed (s : State) (c : Nat) : List (CoreArray × Nat) :=
  let new := (s.core c).claims.filter fun x => !x.begun && x.touched.isNone
  if new.isEmpty then []
  else
    let under := fun (xs : List Claim) => s.changeCore c fun k => { k with claims := xs }
    let cores := c :: (new.flatMap fun x => x.gangs.flatMap fun g => (s.gang g).cores)
    let cands := (cores.eraseDups.flatMap fun d => s.standingCands d ++ s.binCands d).filter (under []).ready
    let copies := s.copies.filter fun z => cores.contains z.2.core && (under []).landable z.1 z.2
    (new.filter fun x =>
      cands.any (fun y => !(under [x]).ready y) || copies.any fun z => !(under [x]).landable z.1 z.2).map fun x => (x.array, x.bank)

/-- The order of what issues in one clock: by address space, so that of claims of one frame that of the lower space comes first
(R395, log entry 126), then by TEAMID and by wave, compute weaves before shadow waves: so copies of one clock bind in the order of R291 and of
weaves that consume poison together the least is reported (R440). -/
def State.issueKey (s : State) (x : Source) : Nat :=
  let group := match x with
    | .standing index => (s.groups.getD index ⟨[], 0, 0, false, none⟩)
    | .bin core bin => ((Map.find (s.core core).bins bin).map Bin.group).getD ⟨[], 0, 0, false, none⟩
  let wave := (group.weaves.map fun u => u % 128).foldl min 127
  let t := s.team group.team
  ((s.slice (s.sub t.sub).slice).fn * 2 ^ 40 + t.teamId) * 128 + wave

/-- The candidates that the cores take are marked with their places in the order of issue. The waits of the others that were
ready grow, and those of the overflow lists (R262, R263). A core whose pass 2 takes nothing keeps its leader (log entry 116). -/
def State.choose (s : State) : State :=
  let all := { s with groups := s.groups.map fun g : Group => { g with stalled := false } }.choices
  let order := sortBy s.issueKey (all.flatMap fun x => x.taken)
  let number := fun (x : Source) => if order.contains x then some (order.idxOf x) else none
  let waits := fun (x : Source) => all.any fun y => y.waits.contains x
  { s with
    chosen := true
    groups := s.groups.zipIdx.map fun g =>
      let x := Source.standing g.2
      { g.1 with stalled := false, picked := number x, wait := if waits x then g.1.wait + 1 else g.1.wait }
    cores := s.cores.map fun c : Nat × Core =>
      let accessed := s.firstAccessed c.1
      (c.1, { c.2 with
        claims := c.2.claims.map fun x : Claim => if accessed.contains (x.array, x.bank) then { x with touched := some s.clock } else x
        leader := ((all.find? fun y => y.core = c.1).bind fun y => y.leader).getD c.2.leader
        bins := c.2.bins.map fun b : Nat × Bin =>
          let x := Source.bin c.1 b.1
          (b.1, { b.2 with picked := number x, wait := if waits x then b.2.wait + 1 else b.2.wait })
        overflow := c.2.overflow.map fun o => if s.gangReady (s.team o.team).gang then { o with wait := o.wait + 1 } else o }) }

/-! ### The issue of what was taken -/

/-- What has been taken for this clock and has not issued, with its place in the order. -/
def State.pending (s : State) : List (Nat × Source) :=
  (s.groups.zipIdx.filterMap fun g => g.1.picked.map fun n => (n, Source.standing g.2)) ++
    s.cores.flatMap fun c => c.2.bins.filterMap fun b => b.2.picked.map fun n => (n, Source.bin c.1 b.1)

/-- A candidate that was taken issues; a bin is drawn first (R264). One whose threads are all held by now does not. -/
def State.issue (s : State) (x : Source) : Host.Outcome State Fault Refusal :=
  match x with
  | .bin core bin => exec (.binDraw core bin) s
  | .standing index =>
    let g := s.groups.getD index ⟨[], 0, 0, false, none⟩
    let part := { s.takenPart g with stalled := false, picked := none }
    if part.members.isEmpty then .next { s with groups := s.groups.set index { g with picked := none } }
    else (s.takeGroup index part).issueGroup part

/-- The next of them. -/
def State.issueNext (s : State) : Option (Host.Outcome State Fault Refusal) :=
  (leastBy Prod.fst s.pending).map fun x => s.issue x.2

end Sys2Proof.Machine
end

