-- ==== Sys2Proof/Machine/Due.lean ====
section
/-! DEFINITION. The events that the module brings about by itself: when each is due, and what the engines do next.

An event is taken up only where it comes about, so that one that must wait for room (R326) holds nothing else up. -/

namespace Sys2Proof.Machine

/-- The elements of a map that meet a condition, as events. -/
def eventsOf {α : Type} (m : Map α) (due : Nat → α → Bool) (i : Nat → Instr) : List Instr :=
  (m.filter fun e => due e.1 e.2).map fun e => i e.1

/-! ### Events that come before anything else issues -/

/-- Limits of gangs: watchdogs, modules in recovery, requests in effect (R339, R376, R451). -/
def State.dueGangs (s : State) : List Instr :=
  eventsOf s.gangs
      (fun g k =>
        k.counts && s.starved g) .watchdog ++
    eventsOf s.gangs (fun g k => k.counts && (s.overdue g).isSome) .remoteCeilingExpire ++
    eventsOf s.gangs (fun _ g => g.stands && g.draining.isSome) .controlSave

/-- Limits of windows, which come about at the end of a clock: a PEN of the same clock is before them (R177). -/
def State.late (s : State) : List Instr :=
  eventsOf s.gangs (fun _ g => (g.pdis.map fun p => decide (p.opened + windowClocks ≤ s.clock)) == some true) .preemptWindowLimit

/-- Waits and yield periods that are over, and bins that have aged (R202, R264, R266). -/
def State.dueThreads (s : State) : List Instr :=
  (s.weaves.flatMap fun w =>
      ((w.2.waits.filter fun x => x.2.expired s.clock).map fun x => Instr.waitvTimeout w.1 x.1) ++
        (w.2.yielding.filter fun x => x.2 < s.clock).map fun x => Instr.yieldPeriodEnd w.1 x.1) ++
    s.cores.flatMap fun c =>
      (c.2.bins.filter fun b =>
        !b.2.aged && (s.contextOf b.2.team).fairTimer < b.2.wait && !(s.contextOf b.2.team).noProg).map fun b => Instr.binAged c.1 b.1

/-- Budgets and periods (R358). -/
def State.dueBudgets (s : State) : List Instr :=
  eventsOf s.nodes (fun k _ => s.renews k) .periodRenew ++
    eventsOf s.slices (fun n _ => s.exhausted n) .budgetExhausted ++
    eventsOf s.nodes (fun k _ => s.reached k) .nodeBudgetReached

/-- Cuts and rounds at their times (R425, R464), and the ends of matrix operations (R247). -/
def State.dueTimes (s : State) : List Instr :=
  eventsOf s.ckpts (fun _ c => c.stream.isNone && (c.decided.map fun d => decide (d.2 ≤ s.ptime)) == some true) .checkpointCut ++
    eventsOf s.fns (fun _ f => (f.mig.map fun m => !m.stopping && (m.due.map fun t => decide (t ≤ s.ptime)) == some true) == some true)
      (fun fn => .migRound fn (BitVec.ofNat 64 ((((s.fn fn).mig.map fun m => m.bitmap)).getD 0))) ++
    eventsOf s.slices (fun n _ => (s.poisonedSub n).isSome) .launchRollback ++ eventsOf s.mats (fun _ m => m.ends ≤ s.clock) .matrixComplete

/-- What comes about at the beginning of a clock. A wait that ends in the clock restarts its thread's count before the watchdog
looks (R339). -/
def State.urgent (s : State) : List Instr := s.dueTimes ++ s.dueBudgets ++ s.dueThreads ++ s.dueGangs

/-! ### Other events -/

/-- Reports and messages (R326, R407). A report made in this clock can still be discarded (R415). -/
def State.dueReports (s : State) : List Instr :=
  eventsOf s.dies
      (fun _ d =>
        match d.pending with
        | (p, r) :: _ => natOfBytes ((r.drop 0x28).take 8) ≠ s.ptime && (s.ringRecord p r).isSome
        | [] => false) .faultRecordWrite ++
    eventsOf s.fns (fun _ f => f.mayRaise s.ptime) .msixCoalesceExpire

/-- Retried walks are at most this many clocks apart (R328). -/
def retryClocks : Nat := 1024

/-- Side logs, page requests and lines of the cores (R316, R324, R328). -/
def State.dueCores (s : State) : List Instr :=
  s.cores.flatMap fun c =>
    (((c.2.sideLog.map fun e => e.page).eraseDups.filter fun p =>
        ((Map.find c.2.retried p).map fun t => decide (t + retryClocks ≤ s.clock)) != some false).map fun p => Instr.sidelogWalkRetry c.1 p) ++
      (((c.2.requests.filter fun r => r.posted + requestNs ≤ s.ptime).map fun r => r.page).eraseDups.map fun p =>
        Instr.pageRequestExpire c.1 p) ++
      eventsOf c.2.l1 (fun _ l => l.dirty.isEmpty && l.filled + cleanClocks ≤ s.clock) (Instr.l1CleanExpire c.1)

/-- The selector has something to do: a slice starts or displaces another (R348, R349), or becomes or ceases to be
ELIGIBLE, or leaves the lookahead (R350, R374). -/
def State.selects (s : State) (part : Nat) : Bool := !(s.sliceChoice part).isEmpty || decide (s.marked part ≠ s.slices)

/-- Queues and slices (R342, R348, R354, R361, R387). -/
def State.dueQueues (s : State) : List Instr :=
  eventsOf s.queues (fun k _ => s.mayRead k) (fun k => .sliceRead (k / 65536) (k % 65536)) ++
    (s.slices.flatMap fun l => (l.2.subs.filter fun u => s.subDone l.1 u).map fun u => Instr.sublaunchComplete l.1 u) ++
    eventsOf s.gangs
      (fun g k => s.waitsSaved g && if (s.runForSaved g).isSome then s.mayResume g else k.state == .preempted) .gangResume ++
    eventsOf s.gangs (fun _ k => k.state == .unplaced && k.saved.isNone && !k.killed) .gangPlace ++
    (if s.agenda.isEmpty then eventsOf s.parts (fun p _ => s.selects p) .sliceSelect else []) ++
    eventsOf s.slices (fun _ l => (l.stagedUntil.map fun t => decide (t ≤ s.clock)) == some true) .stageReservationExpire

/-- Staging of the candidate sub-launches, each with the record whose turn it is (R371). -/
def State.stagingWork (s : State) (turn : Sub → Option Nat) : List Instr :=
  s.parts.flatMap fun p =>
    (s.stagingSlices p.1).flatMap fun n =>
      ((s.slice n).subs.filter fun u => (s.sub u).state != .complete).filterMap fun u =>
        (turn (s.sub u)).map (Instr.l2StageFill n u)

/-- L2 records of candidates that have not been admitted or refused. -/
def State.dueStaging (s : State) : List Instr := s.stagingWork Sub.nextSet

/-- L2 records whose fill goes on. -/
def State.dueFills (s : State) : List Instr := s.stagingWork fun u => if u.nextSet.isSome then none else u.nextFill

/-- RCB nodes (R356). -/
def State.dueNodes (s : State) : List Instr :=
  eventsOf s.nodes (fun _ n => n.reRead + 1000000 ≤ s.ptime) .rcbReread ++
    eventsOf s.nodes (fun _ n => n.wrote + 1024 ≤ s.clock) .rcbFieldWriteback

/-- A command of a function's translation queue can go on. -/
def State.commandDue (s : State) (fn : Nat) : Option Instr :=
  match s.command fn with
  | some (c, t) =>
    if c.op = 1 then some (.tqInv fn)
    else if c.op = 2 then
      let first := c.frames.find? fun k => (t.frame k).frameState = 1
      if (s.fn fn).scrubbing && (first.map fun k => t.heldFrame k) == some true then none else some (.tqScrub fn)
    else some (.tqPooladd fn)
  | none => none

/-- An UNBIND that waits (R411). -/
def State.unbindDue (s : State) : List Instr :=
  let x := (s.fn 0).reg regQbind
  if s.binding && bits x 33 32 == 1 && s.idleQueue (queueKey (bits x 22 16) (x % 65536)) then
    [.qbindUnbind (bits x 22 16) (x % 65536) (BitVec.ofNat 64 ((s.fn 0).reg regQbindHigh))]
  else []

/-- A STOP can go on (R465). -/
def State.stopDue (s : State) (fn : Nat) (m : Migration) : Bool :=
  m.stopping && !m.stopped &&
    match m.due with
    | some t => t ≤ s.ptime
    | none =>
      !s.stillRuns fn || ((s.liveSlices fn).flatMap s.standingGangs).any fun g => !(s.gang g).requested && (s.gang g).draining.isNone

/-- Functions: translation commands, resets, moved pages and moved functions (R396, R402, R413, R465). -/
def State.dueFns (s : State) : List Instr :=
  (s.fns.filterMap fun f => s.commandDue f.1) ++ s.unbindDue ++
    eventsOf s.frames (fun _ f => s.settleOver f) .settleEnd ++
    eventsOf s.fns
      (fun fn f => f.inReset && !s.commandRuns fn && s.slices.all fun l => l.2.fn != fn || l.2.past) .flrComplete ++
    eventsOf s.fns (fun fn f => (f.mig.map fun m => s.stopDue fn m) == some true)
      (fun fn => .migStop fn (BitVec.ofNat 64 (((s.fn fn).mig.map fun m => m.bitmap).getD 0)))

/-- Checkpoints (R424, R430). -/
def State.dueCheckpoints (s : State) : List Instr :=
  eventsOf s.slices
      (fun n _ =>
        s.mayCheckpoint n &&
          match (s.ckpt n).timed, (s.ckpt n).interval with
          | none, _ => true
          | some t, some i => t + i ≤ s.ptime
          | some t, none => t + timerReadNs ≤ s.ptime) .checkpointTimer ++
    eventsOf s.slices (fun n l => l.ckptAsked.isSome && (s.ckpt n).decided.isNone) .checkpointRequest ++
    eventsOf s.ckpts (fun _ c => (c.stream.map fun x => x.left.isEmpty && !x.failed) == some true) .checkpointImageComplete

/-- A core's test has something to do (R448, R450). `x` stands for the bits whose vectors mismatch. -/
def State.testOf (s : State) (x : Word64) (c : Nat) : Option Instr :=
  let k := s.core c
  if k.testRuns then (if k.testFrom + 5000000 ≤ s.ptime then some (.inFieldTestEnd c) else none)
  else if !(s.partOfCore c).testing then none
  else if k.testDue.isNone then (if s.testExpired c then some (.iftDue c) else none)
  else if (s.gangsOn c).isEmpty then some (.iftRun c x)
  else if !(s.emptiable c).1.isEmpty || (s.emptiable c).2.any fun g => (Map.find k.testWait g).isNone then some (.iftDue c)
  else if (s.waitedOut c).any fun g => !(k.testCuts.contains (s.sub (s.gang g).sub).slice && s.cutPending (s.sub (s.gang g).sub).slice) then
    some (.iftWaitExpire c)
  else none

def State.dueTests (s : State) (x : Word64) : List Instr :=
  (s.parts.flatMap fun p => p.2.dies).flatMap fun d => (span (d * 160) 160).filterMap (s.testOf x)

/-- What takes many steps: it comes last, so that nothing waits for its end. -/
def State.dueStreams (s : State) : List Instr :=
  eventsOf s.copies (fun _ c => c.active && c.frozen && !c.saved && c.tried + retryClocks ≤ s.clock) .copyWalkRetry ++
    eventsOf s.ckpts (fun _ c => (c.stream.map fun x => x.failed || !x.left.isEmpty) == some true) .checkpointStream ++
    eventsOf s.cores (fun _ c => !c.claims.isEmpty) .bankSpill ++ s.dueFills

/-- The events that are due and over once they have come about. -/
def State.background (s : State) (x : Word64) : List Instr :=
  s.dueReports ++ s.dueCores ++ s.dueQueues ++ s.dueStaging ++ s.dueNodes ++ s.dueFns ++ s.dueCheckpoints ++ s.dueTests x

/-! ### What comes about -/

/-- What several of one kind have queued for goes on: the ring of commands, the entries of a queue, the reports of a die. -/
def State.advances (s t : State) : Instr → Bool
  | .tqInv fn | .tqScrub fn | .tqPooladd fn => (t.fn fn).reg regTqHead != (s.fn fn).reg regTqHead
  | .sliceRead fn queue => (t.queue (queueKey fn queue)).next != (s.queue (queueKey fn queue)).next
  | .iftWaitExpire c => (t.core c).testCuts != (s.core c).testCuts || (t.waitedOut c) != s.waitedOut c
  | .faultRecordWrite d => decide ((t.die d).pending.length < (s.die d).pending.length)
  | _ => false

/-- An event comes about: it is due no more afterwards, or the next of its kind is. -/
def State.settles (s : State) (due : State → List Instr) (i : Instr) : Bool :=
  match exec i s with
  | .next t => !(due t).contains i || s.advances t i
  | _ => false

def State.nextUrgent (s : State) : Option Instr := s.urgent.find? fun i => s.settles State.urgent i

def State.nextLate (s : State) : Option Instr := s.late.find? fun i => s.settles State.late i

def State.nextBackground (s : State) (x : Word64) : Option Instr :=
  match (s.background x).find? fun i => s.settles (fun t => t.background x) i with
  | some i => some i
  | none => s.dueStreams.head?

/-! ### Engines (R211, R223) -/

/-- A copy goes on: it lands, freezes, ends or completes. -/
def State.copyMoves (s : State) (k : Nat) (c : Copy) : Option Instr :=
  if c.active && !c.saved && c.landed = c.nbytes then some (.copyComplete k)
  else if s.landable k c then
    match exec (.copyLandElement k) s with
    | .next t =>
      match Map.find t.copies k with
      | some d => if d.landed = c.landed && d.active && !d.frozen then none else some (.copyLandElement k)
      | none => some (.copyLandElement k)
    | _ => none
  else none

/-- A job goes on: it writes, passes a partial value on, stops or ends. -/
def State.jobMoves (s : State) (k : Nat) (j : Job) : Option Instr :=
  if j.ended then none
  else if !j.writes then some (.jobEnd k)
  else
    match exec (.jobWrite k) s with
    | .next t =>
      match Map.find t.jobs k with
      | some d => if d.done = j.done && d.finished == j.finished && d.passed == j.passed then none else some (.jobWrite k)
      | none => some (.jobWrite k)
    | _ => none

/-- The next step of an engine: the copies in issue order, then the jobs. -/
def State.nextEngine (s : State) : Option Instr :=
  match s.copies.findSome? fun c => s.copyMoves c.1 c.2 with
  | some i => some i
  | none => s.jobs.findSome? fun j => s.jobMoves j.1 j.2

end Sys2Proof.Machine
end

