-- ==== Sys2Proof/Machine/Step.lean ====
section
/-! DEFINITION. One step of the module: an event, an engine's step, one issue group's instruction, or the end of a clock. -/

namespace Sys2Proof.Machine

/-- An event that is due. -/
def State.eventNext (s : State) : Option (Host.Outcome State Fault Refusal) :=
  let (x, t) := s.free
  (t.nextBackground x).map fun i => exec i t

/-- The next step of an engine. -/
def State.engineNext (s : State) : Option (Host.Outcome State Fault Refusal) := s.nextEngine.map fun i => exec i s

/-- Commands that waited for room are carried out again once the dies hold no report (R326). -/
def State.waitedNext (s : State) : Option (Host.Outcome State Fault Refusal) :=
  if s.waiting.isEmpty || s.dies.any fun d => !d.2.pending.isEmpty then none
  else some (.next { s with agenda := s.waiting, waiting := [] })

/-- An event, an engine, and what the cores issue take turns, from the one whose turn it is on. What the cores issue begins
with the choice of the selectors. -/
def State.turnNext (s : State) : Host.Outcome State Fault Refusal :=
  let t := { s with turn := (s.turn + 1) % 3 }
  let found :=
    if s.turn % 3 = 0 then t.eventNext <|> t.engineNext <|> t.waitedNext
    else if s.turn % 3 = 1 then t.engineNext <|> t.eventNext
    else none
  found.getD (.next { t.choose with turn := 0 })

/-- What was noted for one clock is forgotten: what another module said of a page, once an access has been performed there (R400), and
the retirements (R415). -/
def State.closeClock (s : State) : State :=
  { s with overNow := [], fns := s.fns.map fun f => (f.1, { f.2 with unmoved := f.2.unmoved.filter fun p => !p.2 }) }

/-- The end of a clock, after what comes about at it. -/
def State.passClock (s : State) : Host.Outcome State Fault Refusal :=
  match s.nextLate with
  | some i => exec i s
  | none => .next s.closeClock.charge.tick

/-- One step. What the selectors have taken for a clock issues one after another; then the clock passes. -/
def step (s : State) : Host.Outcome State Fault Refusal :=
  match s.drawn with
  | some g => { s with drawn := none }.issueGroup g
  | none =>
    match s.agenda with
    | i :: rest => exec i { s with agenda := rest }
    | [] =>
      if !s.root.up || s.root.halted then .next s
      else
        match s.issueNext with
        | some r => r
        | none =>
          if s.chosen then s.passClock
          else
            match s.nextUrgent with
            | some i => exec i s
            | none => s.turnNext

/-! ### A program placed from outside -/

/-- Where `withFetchWord` puts a word, in virtual and in physical memory. -/
def fetchBase : Nat := 2 ^ 20

/-- A kernel under which every register and tile exists: one team of one weave, sixteen slots of code. -/
def fetchKernel : Kernel :=
  { image := fetchBase, codeSlots := 16, shadowEntry := some 0, uses := BitVec.allOnes 64, teamThreads := 32, regs := 128, acc := 16
    scratch := 65536, cluster := 65536 }

/-- The page that holds the word. -/
def fetchPage : Translation :=
  { asid := 0, page := fetchBase, size := 65536, frame := fetchBase, attr := 0, canRead := true, canWrite := true, canExec := true }

/-- A gang of one weave on core 0, launched with its kernel, its code being the word and fifteen words of zeros, drawn to
issue in this clock. The launch, the translation and the code stand as a queue, a page table and a loader would have left
them. -/
def State.withFetchWord (s : State) (_nbits w : Nat) : State :=
  let n := Map.next s.slices
  let u := Map.next s.subs
  let g := Map.next s.gangs
  let t := Map.next s.teams
  let uid := weaveUid t 0 false
  let code := linesOf fetchBase 192
  let s := s.changeCore 0 fun k => { k with tlb := fetchPage :: k.tlb, icache := [] }
  { s with
    drawn := some { members := [(uid, BitVec.allOnes 32)], pc := 0 }
    mem := Memory.writeBytes s.mem fetchBase (bytesOf 192 (w % 2 ^ 96))
    poison := s.poison.filter fun ln => !code.contains ln
    cores := s.cores.map fun c : Nat × Core => (c.1, { c.2 with l1 := c.2.l1.filter fun l => !code.contains l.1 })
    slices := Map.put s.slices n { kind := .launch, state := .running, budget := 2 ^ 40 - 1, subs := [u] }
    subs := Map.put s.subs u { slice := n, kernel := some fetchKernel, gangs := 1, nextGang := 1, state := .started }
    gangs := Map.put s.gangs g { sub := u, state := .running, cores := [0] }
    teams := Map.put s.teams t { gang := g, sub := u }
    weaves := s.weaves ++ [(uid, { team := t, live := BitVec.allOnes 32 }), (weaveUid t 0 true, { team := t, shadow := true })] }

end Sys2Proof.Machine
end

