-- ==== Sys2Proof/Safety.lean ====
section
/-! DEFINITION. What counts as a safe run of the module, in the terms that claims use: canonical memory, what an instruction
needs to reach its own effect, how it ends, and what it leaves alone. -/

namespace Sys2Proof.Machine

/-! ### Safe states and runs -/

/-- The memory has its canonical form, so that equal memories are equal data. -/
def State.memoryInv (s : State) : Prop := Memory.wf s.mem = true

/-- The module goes on: its step answers a next state, no fault and no refusal. -/
def State.goesOn (s : State) : Prop := ∃ t, step s = .next t

/-- A run of `n` steps meets no fault and no refusal. -/
def State.safeFor : Nat → State → Prop
  | 0, _ => True
  | n + 1, s => ∃ t, step s = .next t ∧ State.safeFor n t

/-! ### An instruction that reaches its own effect -/

/-- The group that issues is a group of waves that exist, each named once, and its die has room for reports (R326). -/
def State.holdsGroup (s : State) (g : Group) : Bool :=
  s.issuing == some g && !g.members.isEmpty && decide g.weaves.Nodup && g.weaves.all (fun u => (Map.find s.weaves u).isSome) &&
    s.reportsFit

/-- The word of an instruction passes the checks of R80 for a group, its core has the classes (R366), no scoreboard holds it
(R214, R247), and it consumes no poisoned register (R440). -/
def State.clears (s : State) (i : Instr) (g : Group) : Bool :=
  match i.format, i.fields with
  | some fm, some f =>
    fm.check (s.env g) f == none && !s.fenced g fm.opcode f && !s.scoreboard g fm.opcode f &&
      (s.registerPoison g fm.opcode f).isEmpty
  | _, _ => false

/-- The issuing group reaches the effect of its instruction. -/
def State.issues (s : State) (i : Instr) (g : Group) : Bool := s.holdsGroup g && s.clears i g

/-- The instruction is over in its clock, and its threads stand in the groups `next` (R163). -/
def Completed (s t : State) (next : List Group) : Prop :=
  t.issuing = none ∧ t.clock = s.clock ∧ t.groups = s.groups ++ next.filter fun h : Group => !h.members.isEmpty

/-- A lane of a weave stands in a group at a slot. -/
def State.standsAt (s : State) (u l : Nat) (pc : Slot) : Prop :=
  ∃ h ∈ s.groups, h.pc = pc ∧ (h.lanes u).getLsbD l = true

/-! ### What is left alone -/

/-- Every byte of memory reads as before. -/
def KeepsMemory (s t : State) : Prop := ∀ a, Memory.read t.mem a = Memory.read s.mem a

/-- Nothing of the module but the weaves, the list of groups, the step from PLACED to RUNNING and the counter of free values
has changed. -/
def KeepsModule (s t : State) : Prop :=
  t = { s with
        weaves := t.weaves, groups := t.groups, gangs := t.gangs, issuing := t.issuing, freeCtr := t.freeCtr } ∧
    ∀ k, t.gang k = { s.gang k with state := (t.gang k).state }

/-- What a weave is beside its registers is unchanged: its trap registers, its level, its waits, its holds. -/
def Weave.keeps (w x : Weave) : Prop :=
  x = { w with
        v := x.v, s := x.s, p := x.p, dirtyV := x.dirtyV, dirtyS := x.dirtyS, dirtyP := x.dirtyP, savedV := x.savedV
        dead := x.dead, poisonV := x.poisonV, poisonS := x.poisonS, yielding := x.yielding, issued := x.issued }

/-- The registers of a weave other than those of `dests` read as before. -/
def Weave.keepsRegisters (w x : Weave) (dests : List Operand) : Prop :=
  (∀ n : BitVec 7, Operand.v n ∉ dests → ∀ l, x.vread n.toNat l = w.vread n.toNat l) ∧
    (∀ n : BitVec 6, Operand.s n ∉ dests → x.sread n.toNat = w.sread n.toNat) ∧
    ∀ n : BitVec 3, Operand.p n ∉ dests → x.pred n.toNat = w.pred n.toNat

/-- No register but those of `dests`, in the weaves of the group, has changed. -/
def KeepsRegisters (s t : State) (g : Group) (dests : List Operand) : Prop :=
  ∀ u, (s.weave u).keeps (t.weave u) ∧ (s.weave u).keepsRegisters (t.weave u) (if u ∈ g.weaves then dests else [])

/-- The frame of an instruction that writes registers only. -/
def RegisterFrame (s t : State) (g : Group) (dests : List Operand) : Prop :=
  KeepsMemory s t ∧ KeepsModule s t ∧ KeepsRegisters s t g dests

/-- The frame of an instruction that writes registers only and may wait, or end a wait (R262): as that of `RegisterFrame`, and
the notes of waits may change. -/
def WaitFrame (s t : State) (g : Group) (dests : List Operand) : Prop :=
  KeepsMemory s t ∧ KeepsModule s t ∧
    ∀ u, (s.weave u).keeps { t.weave u with bwaits := (s.weave u).bwaits } ∧
      (s.weave u).keepsRegisters (t.weave u) (if u ∈ g.weaves then dests else [])

/-! ### Results -/

/-- Between `w` and `x`, the operand `o` of a weave takes what `rule` says: a lane-wise register in each lane of `act`, a
scalar register once if `act` is not empty; other lanes keep their values (R16, R19, R101), and p7 its ones (R17). -/
def Weave.gives (w x : Weave) (act : Mask) (o : Operand) (rule : Nat → Word64 → Prop) : Prop :=
  match o with
  | .v n => ∀ l < 32, if act.getLsbD l then rule l (x.vread n.toNat l) else x.vread n.toNat l = w.vread n.toNat l
  | .s n => if act = 0 then x.sread n.toNat = w.sread n.toNat else rule 0 (x.sread n.toNat)
  | .p n =>
    ∀ l < 32,
      if n ≠ 7 ∧ act.getLsbD l = true then ∃ y, rule l y ∧ x.pread n.toNat l = y.getLsbD 0
      else x.pread n.toNat l = w.pread n.toNat l
  | _ => True

/-- The operand `o` of every weave of the group takes what `rule` says of the weave before, in its active lanes (R42). -/
def Gives (s t : State) (g : Group) (f : Fields) (o : Operand) (rule : Weave → Nat → Word64 → Prop) : Prop :=
  ∀ u ∈ g.weaves, (s.weave u).gives (t.weave u) (s.active g f u) o (rule (s.weave u))

/-- An instruction whose whole effect is on registers: where it reaches its effect it completes, its threads go on at the next
slot, nothing but the registers `dests` changes, and the results are as `result` says. -/
def RegisterEffect (i : Instr) (s : State) (g : Group) (dests : List Operand) (result : State → Prop) : Prop :=
  s.issues i g = true → ∃ t, exec i s = .next t ∧ Completed s t g.next ∧ RegisterFrame s t g dests ∧ result t

/-! ### Convergent instructions (R149) -/

/-- All threads of the issuing group may sign the convergence register of a convergent instruction (R149, R175). -/
def State.maySign (s : State) (i : Instr) (g : Group) : Bool :=
  s.holdsGroup g && (Map.find s.teams g.team).isSome &&
    match i.fields with
    | some f =>
      match convNamed f.c with
      | some n => (s.mayNotSign g n).isEmpty
      | none => false
    | none => false

/-- The set that the threads of the issuing group complete when they sign: the members of the register they name (R149). -/
def State.wholeSet (s : State) (f : Fields) (g : Group) : Group :=
  let c := s.conv g.team ((convNamed f.c).getD 0)
  { members := [(weaveUid g.team c.hweave.toNat false, c.members)], pc := g.pc }

/-- The threads of the issuing group are the last of their set to sign, the members of the set stand nowhere else, and the set
reaches the effect of its instruction. -/
def State.completesSet (s : State) (i : Instr) (f : Fields) (g : Group) : Bool :=
  let c := s.conv g.team ((convNamed f.c).getD 0)
  let u := weaveUid g.team c.hweave.toNat false
  s.maySign i g && i.fields == some f && (Map.find s.weaves u).isSome && decide (s.unplace u c.members = s) &&
    match s.sign g ((convNamed f.c).getD 0) with
    | .issue t whole => t.clears i whole
    | .hold _ => false

/-- The convergence registers of a team other than number `n`, and everything else of every team, are as before. -/
def KeepsTeams (s t : State) (team n : Nat) : Prop :=
  ∀ x, t.team x = { s.team x with conv := (t.team x).conv } ∧ ∀ k, x ≠ team ∨ k ≠ n → t.conv x k = s.conv x k

/-- The frame of a convergent instruction that writes registers only: as that of `RegisterFrame`, and its convergence register
may change. -/
def ConvergentFrame (s t : State) (g : Group) (n : Nat) (dests : List Operand) : Prop :=
  KeepsMemory s t ∧ KeepsModule { s with teams := t.teams } t ∧ KeepsTeams s t g.team n ∧ KeepsRegisters s t g dests

/-- A convergent instruction whose whole effect is on registers: where the issuing group completes the set and reaches the
effect, it issues once for the set; SIGNED is cleared and GEN advances (R22); the members go on at the next slot; nothing but
the registers `dests` and the convergence register changes; and the results are as `result` says. -/
def ConvergentEffect (i : Instr) (f : Fields) (s : State) (g : Group) (dests : List Operand) (result : State → Group → Prop) :
    Prop :=
  let whole := s.wholeSet f g
  let n := (convNamed f.c).getD 0
  s.completesSet i f g = true →
    ∃ t, exec i s = .next t ∧ Completed s t whole.next ∧ ConvergentFrame s t whole n dests ∧
      (t.conv g.team n).signed = 0 ∧ (t.conv g.team n).gen = (s.conv g.team n).gen + 1 ∧
      (t.conv g.team n).members = (s.conv g.team n).members ∧ (t.conv g.team n).hweave = (s.conv g.team n).hweave ∧
      result t whole

/-! ### Rules of results -/

/-- Each sub-element of a value is as `rule` says of the sub-elements of the operands (R14, R102). -/
def Elements (f : Fields) (rule : Nat → Nat → Nat → Nat → Prop) (w : Weave) (l : Nat) (x : Word64) : Prop :=
  let n := f.width.bits
  ∀ k < f.width.count,
    rule (elem (w.elemOpnd f f.a n l) n k) (elem (w.elemOpnd f f.b n l) n k) (elem (w.elemOpnd f f.c n l) n k) (elem x n k)

/-- Each sub-element of a value is the low bits of what `op` makes of the sub-elements of the floating operands (R126,
R127). -/
def FloatElements (f : Fields) (op : Nat → Nat → Nat → Nat) (w : Weave) (l : Nat) (x : Word64) : Prop :=
  let n := f.width.bits
  ∀ k < f.width.count,
    elem x n k = op (elem (w.floatOpnd f f.a n l) n k) (elem (w.floatOpnd f f.b n l) n k) (elem (w.floatOpnd f f.c n l) n k) % 2 ^ n

/-- The value is a function of the values of the operands (R42). -/
def Whole (f : Fields) (op : Word64 → Word64 → Word64 → Word64) (w : Weave) (l : Nat) (x : Word64) : Prop :=
  x = op (w.opnd f f.a l) (w.opnd f f.b l) (w.opnd f f.c l)

/-! ### Where threads go -/

/-- The groups `next` hold exactly the threads of `g`, each at the slot that `pc` says. -/
def Group.sends (g : Group) (next : List Group) (pc : Nat → Nat → Slot) : Prop :=
  ∀ u l p, (∃ h ∈ next, h.pc = p ∧ (h.lanes u).getLsbD l = true) ↔ (g.lanes u).getLsbD l = true ∧ p = pc u l

/-- A thread of a team stands in a bin of a core, or on its overflow list, for a slot (R263). -/
def Core.filedAt (k : Core) (team u l : Nat) (pc : Slot) : Prop :=
  (∃ n b, Map.find k.bins n = some b ∧ b.team = team ∧ b.pc = pc ∧ Map.find b.places l = some u) ∨
    ∃ o ∈ k.overflow, o.team = team ∧ o.weave = u ∧ o.lane = l ∧ o.pc = pc

/-! ### Bytes of memory as cores see them (R314, R318) -/

/-- The byte of an address that is dirty in the L1 of a core, if there is one. -/
def State.dirtyByte (s : State) (c a : Nat) : Option Byte :=
  (Map.find (s.core c).l1 (a / 128)).bind fun l => if l.dirty.contains (a % 128) then l.bytes.getD (a % 128) none else none

/-- The byte of an address as the engines of a core read it: dirty in its L1, or at its home. -/
def State.byteAt (s : State) (c a : Nat) : Byte := (s.dirtyByte c a).getD (Memory.read s.mem a)

/-- A core other than those of `but` has written a byte that may not have reached its home yet. -/
def State.wroteByte (s : State) (but : Nat → Prop) (a : Nat) (b : Byte) : Prop :=
  ∃ c l, ¬but c ∧ (a / 128, l) ∈ (s.core c).l1 ∧ a % 128 ∈ l.dirty ∧ l.bytes.getD (a % 128) none = some b

/-- Every byte outside those of `stored` reads, at each core, as before, or as a core had written it before. -/
def KeepsBytes (s t : State) (stored : Nat → Prop) : Prop :=
  s.memoryInv → ∀ a, ¬stored a → ∀ c, t.byteAt c a = s.byteAt c a ∨ s.wroteByte (fun _ => False) a (t.byteAt c a)

/-- What memory operations leave alone beside bytes and registers: all but translations, caches, reports, the frame table,
the notes of pages written and of pages that do not move, messages to other modules and events to come. A line's poison stays, and
one becomes poisoned only where an L1 line was (R441). -/
def KeepsRest (s t : State) : Prop :=
  t = { s with
        mem := t.mem, poison := t.poison, weaves := t.weaves, groups := t.groups, cores := t.cores, gangs := t.gangs
        slices := t.slices, fns := t.fns, frames := t.frames, nodes := t.nodes, dies := t.dies, posted := t.posted, sent := t.sent
        dirtyLines := t.dirtyLines, savedLines := t.savedLines, agenda := t.agenda, issuing := t.issuing
        freeCtr := t.freeCtr } ∧
    (∀ c, (t.core c).capmask = (s.core c).capmask) ∧ (∀ k, t.gang k = { s.gang k with state := (t.gang k).state }) ∧
    (∀ n, t.slice n = { s.slice n with
      dirtyPages := (t.slice n).dirtyPages, irrevocable := (t.slice n).irrevocable, snapPages := (t.slice n).snapPages
      snapPoison := (t.slice n).snapPoison, snapshot := (t.slice n).snapshot }) ∧
    (∀ ln ∈ s.poison, ln ∈ t.poison) ∧ (∀ ln ∈ t.poison, ln ∈ s.poison ∨ ∃ c, ln ∈ (s.core c).toxicL1) ∧
    (∀ n, t.fn n = { s.fn n with mig := (t.fn n).mig, unmoved := (t.fn n).unmoved }) ∧
    ∀ k, t.node k = { s.node k with memUsed := (t.node k).memUsed }

/-- The frame of an instruction that accesses memory: no byte but those of `stored`, no register but `dests` of the weaves of
the group, and nothing of a weave but its last-page registers changes. -/
def MemoryFrame (s t : State) (g : Group) (dests : List Operand) (stored : Nat → Prop) : Prop :=
  KeepsBytes s t stored ∧ KeepsRest s t ∧
    ∀ u, (s.weave u).keeps { t.weave u with lastPage := (s.weave u).lastPage } ∧
      (s.weave u).keepsRegisters (t.weave u) (if u ∈ g.weaves then dests else [])

/-! ### Traps (R170, R172, R333) -/

/-- The physical address of the trap frame of a wave whose page its core holds a translation for. -/
def State.framePa (s : State) (u : Nat) : Nat :=
  let e := s.site (teamOfWeave u)
  let va := s.frameAddr u % 2 ^ 56
  (((s.core e.core).tlb.find? fun t => t.covers e.asid va).map fun t => t.pa va).getD 0

/-- The trap frame of a wave can be stored: it is aligned, its page is a writable and sound one of HBM, and no store of the
core waits in its side log. -/
def State.frameReady (s : State) (u : Nat) : Bool :=
  let e := s.site (teamOfWeave u)
  let va := s.frameAddr u % 2 ^ 56
  va % 64 == 0 && (s.core e.core).sideLog.isEmpty &&
    match (s.core e.core).tlb.find? fun t => t.covers e.asid va with
    | some t => s.permits t .write (t.pa va) 64 && !s.poisoned (t.pa va) 64 && !t.remote && paKind (t.pa va) == .hbm &&
        t.pa va % 64 == 0
    | none => false

/-- A wave can take a trap into the handler of its kernel (R170). -/
def State.mayTrap (s : State) (u : Nat) : Bool :=
  let e := s.site (teamOfWeave u)
  (Map.find s.weaves u).isSome && (s.sub e.sub).handler.isSome && (s.ctx e.slice).trapEn &&
    !((s.weave u).handler && (s.weave u).nest) && s.frameReady u

/-- The handler of a wave's kernel. -/
def State.handlerOf (s : State) (u : Nat) : Slot := (s.sub (s.site (teamOfWeave u)).sub).handler.getD 0

/-- `n` bytes from `a` on as a core sees them, little-endian. -/
def State.numberAt (s : State) (c a n : Nat) : Nat := natOfBytes ((List.range n).map fun k => s.byteAt c (a + k))

/-- A wave has taken a trap (R170): the trap registers say what happened, the level is that of the handler, the other threads
of the wave and of its partner are held, the frame holds what R172 says, and the trapped threads stand at the handler. -/
def TrapTaken (s t : State) (u : Nat) (cause : Byte) (pc : Slot) (lanes trapped : Mask) : Prop :=
  let w := s.weave u
  let x := t.weave u
  let m := trapped &&& w.live
  let c := (s.site (teamOfWeave u)).core
  x.trapCause = cause ∧ x.trapPc = pc ∧ x.trapLanes = lanes ∧ x.handler = true ∧ x.nest = w.handler ∧ x.live = w.live ∧
    x.held = w.live &&& ~~~m ∧ x.entry = none ∧ w.keepsRegisters x [] ∧
    ((Map.find s.weaves (partnerOf u)).isSome → (t.weave (partnerOf u)).partnerHeld = true) ∧
    (m ≠ 0 → ∃ h ∈ t.groups, h.members = [(u, m)] ∧ h.pc = s.handlerOf u) ∧
    (s.memoryInv → (∀ k < 64, ∀ b, ¬s.wroteByte (· = c) (s.framePa u + k) b) →
      ∀ q ∈ [(0x00, 8, pc.toNat), (0x08, 8, cause.toNat), (0x10, 8, x.trapAddr.toNat), (0x18, 8, lanes.toNat),
          (0x20, 4, trapped.toNat), (0x24, 4, (w.live &&& ~~~m).toNat), (0x28, 1, w.handler.toNat), (0x29, 1, w.shadow.toNat)],
        t.numberAt c (s.framePa u + q.1) q.2.1 = q.2.2)

/-- What taking a trap in one wave leaves alone: every byte outside its frame, the registers of every wave, the accumulators and the
special registers. -/
def TrapFrame (s t : State) (u : Nat) : Prop :=
  KeepsBytes s t (fun a => s.framePa u ≤ a ∧ a < s.framePa u + 64) ∧ KeepsRest s t ∧
    ∀ x, (s.weave x).keepsRegisters (t.weave x) [] ∧
      (x ≠ u → (s.weave x).keeps { t.weave x with partnerHeld := (s.weave x).partnerHeld })

/-- The die of a core has room for one more report (R326). -/
def State.hasRoom (s : State) (c : Nat) : Bool := s.reportsFit && decide ((s.die (dieOfCore c)).pending.length < 256)

/-- The bookkeeping of issue apart, a weave is as before. -/
def Weave.same (w x : Weave) : Prop := x = { w with dead := x.dead, yielding := x.yielding, issued := x.issued }

/-! ### Matrix operations (R244) -/

/-- The checks of R244 pass for an operation whose formats are known: its core has the formats, the tiles, registers and scratch
bytes that it names exist, its position codes ascend, and its reservations hold what it reads. -/
def State.matrixReady (s : State) (g : Group) (f : Fields) (w : Weave) (q : MatAsk) : Prop :=
  let e := s.site g.team
  let caps := (s.core e.core).capmask
  let off := (w.opnd f f.b 0).toNat
  let position := fun (n r j : Nat) => (positionCodes (((fragment w (g.lanes (g.weaves.headD 0)) (q.runMeta f)).drop (4 * n * r)).take (4 * n))).getD j 0
  caps.getLsbD q.a.fmt = true ∧ caps.getLsbD q.b.fmt = true ∧
    (q.cls = .double → tileOf f.d % 2 = 0 ∧ tileOf f.d + 1 < e.kernel.acc) ∧ (∀ n ∈ q.runs f, n < e.kernel.regs) ∧
    (q.kind = .reserved →
      pairOk q.a.fmt q.b.fmt = true ∧ ¬(f.t = 1 ∧ isIntFormat q.a.fmt = true ∧ isIntFormat q.b.fmt = true) ∧
        q.kpos % q.depth = 0 ∧ recordBad q q.a = false ∧ recordBad q q.b = false) ∧
    (∀ n, q.kind = .sparse n → ∀ r < 64, ∀ k < 8, ∀ j < n,
      position n r (n * k + j) < 12 ∧ (j = 0 ∨ position n r (n * k + j - 1) < position n r (n * k + j))) ∧
    (q.kind = .fromMemory →
      off % 256 = 0 ∧ off + q.memoryBytes ≤ s.spaceBytes e spaceS ∧ s.failedByte e.team spaceS off q.memoryBytes = none)

/-! ### Accesses (R189, R193, R305, R314 to R316) -/

/-- The accesses of an instruction pass every check, at these places, no store of the core waits in its side log, and the page
requests that they make find room (R326). -/
def State.passes (s : State) (g : Group) (space align : Nat) (need : Need) (loggable : Bool) (accs : List Access)
    (places : List (Access × Place)) : Prop :=
  (s.core (s.team g.team).core).sideLog = [] ∧
    ∃ t, s.checkAccesses (s.site g.team) space align need loggable g.pc accs = .pass t places ∧ t.reportsFit = true

/-- The address of an access that goes to the side log (R190). -/
def Place.logged? : Place → Option Nat
  | .logged va => some va
  | _ => none

/-- The place is a memory of this module, or of its CXL devices. -/
def Place.isLocal : Place → Bool
  | .cell _ => true
  | .page t va => t.stored (t.pa va)
  | .logged _ => false

/-- The byte of an address that is present in the L1 of a core, clean or dirty. -/
def State.l1Byte (s : State) (c a : Nat) : Option Byte :=
  (Map.find (s.core c).l1 (a / 128)).bind fun l => l.bytes.getD (a % 128) none

/-- No byte of the line of an address is dirty in the L1 of a core. -/
def State.cleanLine (s : State) (c a : Nat) : Bool :=
  ((Map.find (s.core c).l1 (a / 128)).map fun l => l.dirty.isEmpty).getD true

/-- A read of an element may not be answered by a clean copy in the L1: its page is SO or lies on a CXL device, or it acquires
beyond the core's team and its line is clean (R307, R315). -/
def State.readsHome (s : State) (c : Nat) (p : Place) (h : How) : Bool :=
  match p with
  | .cell _ => true
  | .page t va => t.attr == attrSo || paKind (t.pa va) != .hbm || (h.acquire && wideScope h.scope && s.cleanLine c (t.pa va))
  | .logged _ => true

/-- A byte that core `c` may read at an address: its own dirty byte or the byte at home, a copy in its L1 unless the read goes
to the home, or a byte that another core had written. -/
def State.couldRead (s : State) (c : Nat) (home : Bool) (a : Nat) (b : Byte) : Prop :=
  b = s.byteAt c a ∨ (home = false ∧ s.l1Byte c a = some b) ∨ s.wroteByte (fun k => k = c) a b

/-- The bytes of an element read at a place: memory itself inside the module, else what its core may read (R193). -/
def State.readsElement (s : State) (c : Nat) (p : Place) (h : How) (bs : List Byte) : Prop :=
  match p with
  | .cell a => bs = Memory.readBytes s.mem a bs.length
  | .page t va => t.stored (t.pa va) = true → ∀ k b, bs[k]? = some b → s.couldRead c (s.readsHome c p h) (t.pa va + k) b
  | .logged _ => True

/-- The bytes of an element written at a place: memory itself inside the module; on a page of this module the byte that the
core reads, unless another core had written it; else they leave as a message (R193, R400, R416). -/
def WritesElement (s t : State) (c : Nat) (p : Place) (bs : List Byte) : Prop :=
  match p with
  | .cell a => Memory.readBytes t.mem a bs.length = bs
  | .page tr va =>
    if tr.stored (tr.pa va) then
      ∀ k b, bs[k]? = some b →
        t.byteAt c (tr.pa va + k) = b ∨ s.wroteByte (fun x => x = c) (tr.pa va + k) (t.byteAt c (tr.pa va + k))
    else if tr.remote then (tr.pa va, bs) ∈ t.sent
    else ((s.busAddress (tr.pa va)).1, (s.busAddress (tr.pa va)).2, bs) ∈ t.posted
  | .logged _ => True

/-- The bytes that an engine reads for a context from `a` on: each, through the translation that the core it works for holds, is the
one that the core sees, dirty in its L1 or at home, or one that another core had written (R215, R318). -/
def State.engineReads (s : State) (w : Walker) (a : Nat) (bs : List Byte) : Prop :=
  s.memoryInv → w.cached = true → ∀ (k : Nat) (b : Byte), bs[k]? = some b →
    ∀ tr, (s.core w.core).tlb.find? (fun t => t.covers w.asid ((a + k) % 2 ^ 56)) = some tr →
      tr.stored (tr.pa ((a + k) % 2 ^ 56)) = true →
        b = s.byteAt w.core (tr.pa ((a + k) % 2 ^ 56)) ∨ s.wroteByte (fun c => c = w.core) (tr.pa ((a + k) % 2 ^ 56)) b

/-- No byte of `n` at a place is one of the `n` at another. -/
def Place.apart (n : Nat) (p q : Place) : Prop := p.watched + n ≤ q.watched ∨ q.watched + n ≤ p.watched

/-- Elements of `n` bytes written one after another: each has its bytes in the end that no later one writes over. -/
def WritesAll (s t : State) (c n : Nat) (items : List (Place × List Byte)) : Prop :=
  s.memoryInv → ∀ before p bs after, items = before ++ (p, bs) :: after → (∀ q ∈ after, p.apart n q.1) → WritesElement s t c p bs

/-- The bytes of elements of `n` bytes at places. -/
def covered (n : Nat) (places : List (Access × Place)) (a : Nat) : Prop :=
  ∃ x ∈ places, x.2.watched ≤ a ∧ a < x.2.watched + n

/-- Atomics on elements of `n` bytes one after another, in places of this module (R197): each reads what the one before it at
its place left, or, as the first at its place, what its core may read there. -/
def AtomicsRun (s : State) (c n : Nat) (home : Place → Bool) (items : List (Access × Place)) (olds : List Nat)
    (new : Access → Nat → Nat) : Prop :=
  let earlier := fun (j i : Nat) (y : Access) (p : Place) => j < i ∧ ∃ q, items[j]? = some (y, q) ∧ q.isLocal = true ∧ q.watched = p.watched
  ∀ i x p old, items[i]? = some (x, p) → olds[i]? = some old → p.isLocal = true →
    ((∀ j y, ¬earlier j i y p) →
      ∃ bs : List Byte, bs.length = n ∧ old = natOfBytes bs ∧
        ∀ k b, bs[k]? = some b → s.couldRead c (home p) (p.watched + k) b) ∧
    ∀ j y before, earlier j i y p → olds[j]? = some before → (∀ m z, j < m → ¬earlier m i z p) →
      old = new y before % 2 ^ (8 * n)

end Sys2Proof.Machine
end

