-- ==== Sys2Proof/Certificates/Slice0/Obligations.lean ====
section
/-! DEFINITION. The statements for the provers. -/

open Sys2Proof Sys2Proof.Machine

/-- Group 0x0 (R104 to R111): every integer instruction completes; each sub-element of its result is the exact result of its
element operation on the numbers read, clamped or wrapped (R102), with the edges of division; IADDS, ISUBS and IADDC also
write their flag; and nothing but D, and the predicate C of these three, changes. -/
def Obligations.IntegerResults : Prop :=
  ∀ (f : Fields) (s : State) (g : Group),
    let W := f.width.bits
    let U := unsignedT f
    let one := fun (i : Instr) (U : Bool) (op : Int → Int → Int → Int) =>
      RegisterEffect i s g [f.d] fun t =>
        Gives s t g f f.d (Elements f fun a b c y => y = fit W U f.sat (op (number U W a) (number U W b) (number U W c)))
    let flagged := fun (i : Instr) (op : Int → Int → Int) =>
      RegisterEffect i s g [f.d, f.c] fun t =>
        Gives s t g f f.d (Elements f fun a b _ y => y = fit W U f.sat (op (number U W a) (number U W b))) ∧
          Gives s t g f f.c fun w l y =>
            y.getLsbD 0 = true ↔ ∃ k < f.width.count,
              outOfRange W U (op (readElem U W (w.elemOpnd f f.a W l) k) (readElem U W (w.elemOpnd f f.b W l) k)) = true
    one (.iadd f) U (fun a b _ => a + b) ∧ one (.isub f) U (fun a b _ => a - b) ∧
    flagged (.iadds f) (fun a b => a + b) ∧ flagged (.isubs f) (fun a b => a - b) ∧
    one (.imul f) U (fun a b _ => a * b) ∧ one (.imulh f) U (fun a b _ => a * b / 2 ^ W) ∧
    one (.imad f) U (fun a b c => a * b + c) ∧
    one (.idiv f) U (fun a b _ =>
      if b = 0 then 2 ^ W - 1 else if a = -2 ^ (W - 1) ∧ b = -1 then -2 ^ (W - 1) else Int.tdiv a b) ∧
    one (.irem f) U (fun a b _ => if b = 0 then a else a - b * Int.tdiv a b) ∧
    one (.imin f) U (fun a b _ => min a b) ∧ one (.imax f) U (fun a b _ => max a b) ∧
    one (.iabs f) false (fun a _ _ => if a < 0 then -a else a) ∧ one (.ineg f) false (fun a _ _ => -a) ∧
    (RegisterEffect (.iaddc f) s g [f.d, f.c] fun t =>
      let exact := fun (w : Weave) (l : Nat) =>
        let a := ((w.opnd f f.a l).toNat : Int)
        let b := ((w.opnd f f.b l).toNat : Int)
        let c := ((w.opnd f f.c l).toNat : Int)
        if f.t = 0 then a + b + c else a - b - c
      Gives s t g f f.d (fun w l y => y = BitVec.ofInt 64 (exact w l)) ∧
        Gives s t g f f.c fun w l y =>
          y.getLsbD 0 = true ↔ (if f.t = 0 then 2 ^ 64 ≤ exact w l else exact w l < 0)) ∧
    (RegisterEffect (.lea f) s g [f.d] fun t =>
      Gives s t g f f.d (Whole f fun a b c => a + (b <<< f.t.toNat) + c)) ∧
    RegisterEffect (.idot f) s g [f.d] fun t =>
      Gives s t g f f.d fun w l y =>
        ∀ j < 2,
          elem y 32 j =
            fit 32 false f.sat
              (signed 32 (elem (w.elemOpnd f f.c 32 l) 32 j) +
                ((List.range (32 / W)).map fun k =>
                  readElem (f.t == 1 || f.t == 2) W (w.elemOpnd f f.a W l) (j * (32 / W) + k) *
                    readElem (f.t == 1 || f.t == 3) W (w.elemOpnd f f.b W l) (j * (32 / W) + k)).sum)

/-- Group 0x1 (R112 to R116): every logic, shift and bit instruction completes with the element results of the manual, and
nothing but D changes. -/
def Obligations.LogicResults : Prop :=
  ∀ (f : Fields) (s : State) (g : Group),
    let W := f.width.bits
    let pos := min (f.imm.toNat % 256) W
    let len := min (f.imm.toNat / 256 % 256) (W - pos)
    let one := fun (i : Instr) (rule : Nat → Nat → Nat → Nat → Prop) =>
      RegisterEffect i s g [f.d] fun t => Gives s t g f f.d (Elements f rule)
    one (.andOp f) (fun a b _ y => y = a &&& b) ∧ one (.orOp f) (fun a b _ y => y = a ||| b) ∧
    one (.xorOp f) (fun a b _ y => y = a ^^^ b) ∧
    one (.andn f) (fun a b _ y => ∀ i < W, y.testBit i = (a.testBit i && !b.testBit i)) ∧
    one (.notOp f) (fun a _ _ y => ∀ i < W, y.testBit i = !a.testBit i) ∧
    one (.shl f) (fun a b _ y => y = if W ≤ b then 0 else a * 2 ^ b % 2 ^ W) ∧
    one (.shr f) (fun a b _ y => y = if W ≤ b then 0 else a / 2 ^ b) ∧
    one (.sar f) (fun a b _ y => ∀ i < W, y.testBit i = a.testBit (min (i + b) (W - 1))) ∧
    one (.rot f) (fun a b _ y => ∀ i < W, y.testBit ((i + b) % W) = a.testBit i) ∧
    one (.fshr f) (fun a b c y => ∀ i < W,
      y.testBit i = if i + c % W < W then b.testBit (i + c % W) else a.testBit (i + c % W - W)) ∧
    one (.popc f) (fun a _ _ y => y = ((List.range W).filter a.testBit).length) ∧
    one (.clz f) (fun a _ _ y => if a = 0 then y = W else a.testBit (W - 1 - y) = true ∧ a < 2 ^ (W - y)) ∧
    one (.ctz f) (fun a _ _ y => if a = 0 then y = W else a.testBit y = true ∧ a % 2 ^ y = 0) ∧
    one (.brev f) (fun a _ _ y => ∀ i < W, y.testBit (W - 1 - i) = a.testBit i) ∧
    one (.bfx f) (fun a _ _ y => ∀ i < W,
      y.testBit i = if i < len then a.testBit (pos + i) else decide (f.t ≠ 1 ∧ len ≠ 0) && a.testBit (pos + len - 1)) ∧
    one (.bfi f) (fun a b _ y => ∀ i < W,
      y.testBit i = if pos ≤ i ∧ i < pos + len then b.testBit (i - pos) else a.testBit i) ∧
    RegisterEffect (.prmb f) s g [f.d] fun t =>
      Gives s t g f f.d fun w l y =>
        ∀ j < 8,
          let k := elem (w.opnd f f.c l) 8 j
          elem y 8 j =
            if k.testBit 4 then 0
            else if k % 16 < 8 then elem (w.opnd f f.a l) 8 (k % 16) else elem (w.opnd f f.b l) 8 (k % 16 - 8)

/-- Group 0x2 but for the indexed and converting moves (R117 to R120, R122): ICMP, SEL, MOV in both forms, MOVI, MOVS and
PSET complete with the values of the manual, and nothing but D changes; a weave in which no thread is active keeps its D. -/
def Obligations.CompareAndMoveResults : Prop :=
  ∀ (f : Fields) (s : State) (g : Group),
    let W := f.width.bits
    let one := fun (i : Instr) (rule : Weave → Nat → Word64 → Prop) =>
      RegisterEffect i s g [f.d] fun t => Gives s t g f f.d rule
    let compared := fun (w : Weave) (l k : Nat) =>
      let a := elem (w.elemOpnd f f.a W l) W k
      let b := elem (w.elemOpnd f f.b W l) W k
      match f.t.toNat with
      | 0 => a = b
      | 1 => a ≠ b
      | 2 => signed W a < signed W b
      | 3 => signed W a ≤ signed W b
      | 4 => signed W b < signed W a
      | 5 => signed W b ≤ signed W a
      | 6 => a < b
      | 7 => a ≤ b
      | 8 => b < a
      | _ => b ≤ a
    let result := fun (w : Weave) (l : Nat) =>
      if f.x then ∃ k < f.width.count, compared w l k else ∀ k < f.width.count, compared w l k
    one (.icmp f) (fun w l y =>
      let c := w.opnd f f.c l ≠ 0
      y.getLsbD 0 = true ↔
        match f.rm.toNat with
        | 0 => result w l
        | 1 => result w l ∧ c
        | 2 => result w l ∨ c
        | _ => ¬(result w l ↔ c)) ∧
    one (.sel f) (Whole f fun a b c => if c = 0 then b else a) ∧ one (.mov f) (Whole f fun a _ _ => a) ∧
    one (.movSubelement f) (fun w l y =>
      ∀ k < f.width.count,
        elem y W k =
          if k ≠ f.t.toNat then elem (w.opnd f f.d l) W k
          else if f.a.isV then elem (w.opnd f f.a l) W f.imm.toNat % 2 ^ W
          else (w.opnd f f.a l).toNat % 2 ^ W) ∧
    one (.movi f) (fun w l y =>
      if f.x then elem y 32 1 = f.imm.toNat ∧ elem y 32 0 = elem (w.opnd f f.d l) 32 0 else y = f.imm.setWidth 64) ∧
    (RegisterEffect (.movs f) s g [f.d] fun t =>
      ∀ u ∈ g.weaves, ∀ n, f.d = .s n →
        (t.weave u).sread n.toNat =
          if s.active g f u = 0 then (s.weave u).sread n.toNat
          else (s.weave u).opnd f f.a
            (if f.x then (lanesOf (s.active g f u)).headD 0 else ((s.weave u).opnd f f.b 0).toNat % 32)) ∧
    one (.pset f) (fun w l y =>
      let a := (w.opnd f f.a l).getLsbD 0
      let b := (w.opnd f f.b l).getLsbD 0
      y.getLsbD 0 =
        match f.t.toNat with
        | 0 => a && b
        | 1 => a || b
        | 2 => a ^^ b
        | _ => a && !b)

/-- MOVV, PMOV and CVTI (R121 to R123). MOVV reads or writes in each active lane the register that its index names, where
every index lies below the kernel's registers and none of these is poisoned; PMOV packs the predicates or unpacks a value;
CVTI fits each converted element to the destination width and keeps the others, where its start position is in range. -/
def Obligations.IndexedAndConvertingMoves : Prop :=
  ∀ (f : Fields) (s : State) (g : Group),
    let W := f.width.bits
    let D := (cvtiWidth f).bits
    let start := f.imm.toNat % 8
    let index := fun (u l : Nat) =>
      match (if f.x then f.d else f.a) with
      | .v n => n.toNat + ((s.weave u).opnd f f.b l).toNat
      | _ => 0
    let sound := ∀ u ∈ g.weaves, ∀ l < 32, (s.active g f u).getLsbD l = true →
      index u l < (s.env g).regs ∧ (s.weave u).poisonV.contains (index u l) = false
    (sound → f.x = false → RegisterEffect (.movv f) s g [f.d] fun t =>
      ∀ u ∈ g.weaves, ∀ n, f.d = .v n → ∀ l < 32,
        (t.weave u).vread n.toNat l =
          if (s.active g f u).getLsbD l then (s.weave u).vread (index u l) l else (s.weave u).vread n.toNat l) ∧
    (sound → f.x = true → RegisterEffect (.movv f) s g ((List.range 128).map fun n => .v (BitVec.ofNat 7 n)) fun t =>
      ∀ u ∈ g.weaves, ∀ n l, l < 32 →
        (t.weave u).vread n l =
          if (s.active g f u).getLsbD l = true ∧ index u l = n then (s.weave u).opnd f f.a l else (s.weave u).vread n l) ∧
    (f.x = false → RegisterEffect (.pmov f) s g [f.d] fun t =>
      Gives s t g f f.d fun w l y => ∀ n < 64, y.getLsbD n = (decide (n < 8) && w.pread n l)) ∧
    (f.x = true → RegisterEffect (.pmov f) s g ((List.range 7).map fun n => .p (BitVec.ofNat 3 n)) fun t =>
      ∀ u ∈ g.weaves, ∀ n < 7, ∀ l < 32,
        (t.weave u).pread n l =
          if (s.active g f u).getLsbD l = true ∧ ((s.weave u).opnd f f.b l).getLsbD n = true then
            ((s.weave u).opnd f f.a l).getLsbD n
          else (s.weave u).pread n l) ∧
    (cvtiStartOk f = true → RegisterEffect (.cvti f) s g [f.d] fun t =>
      Gives s t g f f.d fun w l y =>
        let a := w.elemOpnd f f.a W l
        let value := fun k => fit D (f.t.getLsbD 2) f.sat (readElem f.x W a k)
        ∀ k < 64 / D,
          elem y D k =
            if W ≤ D then value (start + k)
            else if start ≤ k ∧ k < start + 64 / W then value (k - start) else elem (w.opnd f f.d l) D k)

/-- Group 0x3 (R128 to R133): the floating-point instructions complete with the exact result of their operation on the
values of the codes, rounded once (R127), and nothing but D changes. -/
def Obligations.FloatResults : Prop :=
  ∀ (f : Fields) (s : State) (g : Group),
    let F := fmtOf f
    let rm := f.rm.toNat
    let one := fun (i : Instr) (op : Nat → Nat → Nat → Nat) =>
      RegisterEffect i s g [f.d] fun t => Gives s t g f f.d (FloatElements f op)
    one (.fadd f) (fun a b _ => F.round rm f.sat (sumExact rm [F.value a, F.value b])) ∧
    one (.fsub f) (fun a b _ => F.round rm f.sat (sumExact rm [F.value a, (F.value b).neg])) ∧
    one (.fmul f) (fun a b _ => F.round rm f.sat ((F.value a).mul (F.value b))) ∧
    one (.ffma f) (fun a b c => F.round rm f.sat (sumExact rm [(F.value a).mul (F.value b), F.value c])) ∧
    one (.fmin f) (fun a b _ => pickCode F false a b) ∧ one (.fmax f) (fun a b _ => pickCode F true a b) ∧
    (RegisterEffect (.fcmp f) s g [f.d] fun t =>
      Gives s t g f f.d fun w l y =>
        y.getLsbD 0 = true ↔
          ∀ k < f.width.count,
            floatCondition rm (F.value (elem (w.floatOpnd f f.a f.width.bits l) f.width.bits k))
              (F.value (elem (w.floatOpnd f f.b f.width.bits l) f.width.bits k)) ≠ f.x) ∧
    one (.fclass f) (fun a _ _ => classOf F a) ∧
    RegisterEffect (.fdot2 f) s g [f.d] fun t =>
      Gives s t g f f.d fun w l y =>
        let H := if f.t = 1 then b16Fmt else h16Fmt
        let prod := fun k =>
          (H.value (elem (w.floatOpnd f f.a 16 l) 16 k)).mul (H.value (elem (w.floatOpnd f f.b 16 l) 16 k))
        ∀ j < 2,
          elem y 32 j =
            f32Fmt.round rm f.sat
              (sumExact rm [f32Fmt.value (elem (w.floatOpnd f f.c 32 l) 32 j), prod (2 * j), prod (2 * j + 1)]) % 2 ^ 32

/-- The conversions and exponent instructions of group 0x4 (R135, R136, R139 to R141) complete, FCVT where its start
position is in range, and nothing but D, and C of XSPLIT, changes. -/
def Obligations.ConversionResults : Prop :=
  ∀ (f : Fields) (s : State) (g : Group),
    let W := f.width.bits
    let F := fmtOf f
    let S := cvtWidth (cvtSrc f)
    let D := cvtWidth f.t.toNat
    let n := 64 / max S D
    (cvtOk f = true → RegisterEffect (.fcvt f) s g [f.d] fun t =>
      Gives s t g f f.d fun w l y =>
        let value := fun k => convertElem (cvtSrc f) f.t.toNat f.rm.toNat f.sat (elem (w.opnd f f.a l) S k) % 2 ^ D
        ∀ k < 64 / D,
          elem y D k =
            if S < D then value (cvtStart f + k)
            else if S = D then value k
            else if cvtStart f ≤ k ∧ k < cvtStart f + n then value (k - cvtStart f) else elem (w.opnd f f.d l) D k) ∧
    (RegisterEffect (.frnd f) s g [f.d] fun t =>
      Gives s t g f f.d (FloatElements f fun a _ _ => roundCode F f.rm.toNat a)) ∧
    (RegisterEffect (.ftoi f) s g [f.d] fun t =>
      Gives s t g f f.d (FloatElements f fun a _ _ => toInteger W f.x f.rm.toNat (F.value a))) ∧
    (RegisterEffect (.itof f) s g [f.d] fun t =>
      Gives s t g f f.d (Elements f fun a _ _ y =>
        y = F.round f.rm.toNat f.sat (ofInt (number f.x W a)) % 2 ^ W)) ∧
    (RegisterEffect (.xmax f) s g [f.d] fun t =>
      Gives s t g f f.d fun w l y =>
        ∀ k < f.width.count,
          elem y W k =
            wrapInt W (max (signed W (elem (w.elemOpnd f f.a W l) W k))
              (exponentOf (F.value (elem (w.floatOpnd f f.b W l) W k))))) ∧
    (RegisterEffect (.xscale f) s g [f.d] fun t =>
      Gives s t g f f.d fun w l y =>
        ∀ k < f.width.count,
          elem y W k =
            scaleCode F f.rm.toNat f.sat (elem (w.floatOpnd f f.a W l) W k) (signed W (elem (w.elemOpnd f f.b W l) W k)) %
              2 ^ W) ∧
    RegisterEffect (.xsplit f) s g [f.d, f.c] fun t =>
      (f.c ≠ f.d → Gives s t g f f.d fun w l y =>
        ∀ k < f.width.count, elem y W k = splitMantissa F (elem (w.floatOpnd f f.a W l) W k) % 2 ^ W) ∧
      Gives s t g f f.c fun w l y =>
        ∀ k < f.width.count, elem y W k = wrapInt W (splitExponent F (elem (w.floatOpnd f f.a W l) W k))

/-- The special functions of group 0x4 (R137, R138). Every one completes: `exec` answers the state in which each active lane of D
holds the results, the threads stand at the next slot, and nothing else has changed. Zeros, infinities, NaNs and the negative
numbers without a result give the codes of R138. FRCP, FRSQ and FSQRT of another number are rounded from the quotient or root
itself, given by its first 200 bits or more and a last bit that tells whether it goes on: FSQRT, and every result of 16 bits,
in RM; FRCP and FRSQ of F32 and F64 within one unit in the last place, so in RM, down or up. FEXP2 of an integer and FLOG2 of a
power of two are exact. The other results of FEXP2, FLOG2, FSIN, FCOS and FTANH are the value of the function rounded, or for F32
a code within the bound that R137 states; the value is that of the Taylor series of the exponential, the sine or the cosine, or of
the series of ln((1 + z) / (1 - z)), with 400 fraction bits, after the argument has been reduced by the constants `ln2` and `pi600`;
of an argument near 0 or far from it, a value next to the limit. How a value is evaluated, the code within the bound, and the rounding
of FSQRT at .h in RM are the model's choices (log entries 16 and 74). -/
def Obligations.SpecialFunctionResults : Prop :=
  ∀ (f : Fields) (s : State) (g : Group),
    let F := fmtOf f
    let W := f.width.bits
    let code := fun (x : Fp) => F.round f.rm.toNat f.sat x % 2 ^ W
    let completes := fun (i : Instr) (rule : Fp → Nat → Prop) =>
      s.issues i g = true →
        ∃ t, exec i s = .next t ∧ Completed s t g.next ∧ RegisterFrame s t g [f.d] ∧
          Gives s t g f f.d fun w l y =>
            ∀ k < f.width.count, rule (F.value (elem (w.floatOpnd f f.a W l) W k)) (elem y W k)
    let special := fun (plusZero minusZero plusInf minusInf : Fp) (rest : Bool → Nat → Int → Nat → Prop) (x : Fp) (y : Nat) =>
      match x with
      | .nan => y = code .nan
      | .inf n => y = code (if n then minusInf else plusInf)
      | .fin n m e => if m = 0 then y = code (if n then minusZero else plusZero) else rest n m e y
    let withinOne := fun (z : Fp) (y : Nat) =>
      y = code z ∨ (f.width ≠ .h ∧ (y = F.round 2 false z % 2 ^ W ∨ y = F.round 3 false z % 2 ^ W))
    let even := fun (m : Nat) (e : Int) (m' : Nat) (e' : Int) =>
      e % 2 = 0 ∧ m' = m ∧ e' = e ∨ e % 2 ≠ 0 ∧ m' = m * 2 ∧ e' = e - 1
    let evaluated := fun (near : Fp → Fp → Prop) (y : Nat) (x : Fp) => y = code x ∨ (f.width ≠ .h ∧ near x (F.value y))
    let fixed := fun (m : Nat) (e : Int) => if -400 ≤ e then m * 2 ^ (e + 400).toNat else m / 2 ^ (-400 - e).toNat
    let series := fun (v : Int) (terms : Nat) (first : Nat) (next : Nat → Nat → Nat) (part : Nat → Nat → Int) =>
      ∃ T : Nat → Nat, T 0 = first ∧ (∀ k < terms, T (k + 1) = next k (T k)) ∧ v = ((List.range terms).map fun k => part k (T k)).sum
    let signs := fun (k x : Nat) => if k % 2 = 0 then (x : Int) else -(x : Int)
    let exps := fun (r : Nat) (v : Int) => series v 110 (2 ^ 400) (fun k x => x * r / 2 ^ 400 / (k + 1)) fun _ x => x
    let sines := fun (r : Nat) (v : Int) =>
      series v 80 r (fun k x => x * (r * r / 2 ^ 400) / 2 ^ 400 / ((2 * k + 2) * (2 * k + 3))) signs
    let cosines := fun (r : Nat) (v : Int) =>
      series v 80 (2 ^ 400) (fun k x => x * (r * r / 2 ^ 400) / 2 ^ 400 / ((2 * k + 1) * (2 * k + 2))) signs
    let halfLogs := fun (x : Nat) (v : Int) =>
      let z := (x - 2 ^ 400) * 2 ^ 400 / (x + 2 ^ 400)
      series v 140 z (fun _ p => p * (z * z / 2 ^ 400) / 2 ^ 400) fun k p => (p / (2 * k + 1) : Nat)
    let sticky := fun (v n : Int) => Fp.fin (decide (v < 0)) (v.natAbs / 2 ^ 60 * 2 + 1) (n - 341)
    let below := fun (neg : Bool) (m : Nat) (e : Int) => Fp.fin neg (m * 2 ^ 300 - 1) (e - 300)
    let turns := fun (m : Nat) (e : Int) => m * 2 ^ (e + 600).toNat / pi600
    let rest := fun (m : Nat) (e : Int) => m * 2 ^ (e + 600).toNat % pi600 / 2 ^ 200
    let ulps := fun (x v : Fp) => x.near v 2 (F.ulpExp x) = true
    let absolute := fun (x v : Fp) => x.near v 1 (-22) = true
    let one : Fp := .fin false 1 0
    completes (.frcp f) (special (.inf false) (.inf true) (.zero false) (.zero true) fun n m e y =>
      ∃ q r k : Nat, 2 ^ 299 ≤ q ∧ q * m ≤ 2 ^ k ∧ 2 ^ k < (q + 1) * m ∧ r ≤ 1 ∧ (r = 0 ↔ q * m = 2 ^ k) ∧
        withinOne (.fin n (q * 2 + r) (-(k : Int) - 1 - e)) y) ∧
    completes (.frsq f) (special (.inf false) (.inf true) (.zero false) .nan fun n m e y =>
      if n then y = code .nan
      else ∃ (q r k m' : Nat) (e' : Int), even m e m' e' ∧ 2 ^ 299 ≤ q ∧ q * q * m' ≤ 2 ^ (2 * k) ∧
        2 ^ (2 * k) < (q + 1) * (q + 1) * m' ∧ r ≤ 1 ∧ (r = 0 ↔ q * q * m' = 2 ^ (2 * k)) ∧
        withinOne (.fin false (q * 2 + r) (-(k : Int) - 1 - e' / 2)) y) ∧
    completes (.fsqrt f) (special (.zero false) (.zero true) (.inf false) .nan fun n m e y =>
      if n then y = code .nan
      else ∃ (q r m' : Nat) (e' : Int), even m e m' e' ∧ 2 ^ 200 ≤ q ∧ q * q ≤ m' * 2 ^ 400 ∧ m' * 2 ^ 400 < (q + 1) * (q + 1) ∧
        r ≤ 1 ∧ (r = 0 ↔ q * q = m' * 2 ^ 400) ∧ y = code (.fin false (q * 2 + r) (e' / 2 - 201))) ∧
    completes (.fexp2 f) (special one one (.inf false) (.zero false) fun n m e y =>
      (∀ j : Int, j.natAbs < 2 ^ 21 → Fp.same (.fin n m e) (ofInt j) = true → y = code (.fin false 1 j)) ∧
        let a : Int := if n then -(fixed m e : Int) else fixed m e
        let r := (a % 2 ^ 400).toNat
        if Nat.log2 m + e < -300 then evaluated ulps y (if n then below false 1 0 else .fin false (2 ^ 300 + 1) (-300))
        else if 20 < Nat.log2 m + e then evaluated ulps y (.fin false 1 (if n then -2 ^ 20 else 2 ^ 20))
        else if r = 0 then evaluated ulps y (.fin false 1 (a / 2 ^ 400))
        else ∃ v, exps (r * ln2 / 2 ^ 400) v ∧ evaluated ulps y (sticky v (a / 2 ^ 400))) ∧
    completes (.flog2 f) (special (.inf true) (.inf true) (.inf false) .nan fun n m e y =>
      if n then y = code .nan
      else (∀ j : Int, Fp.same (.fin n m e) (.fin false 1 j) = true → y = code (ofInt j)) ∧
        let near := if Fp.lt (.fin n m e) (.fin false 1 (-1)) = true ∨ Fp.lt (.fin false 1 1) (.fin n m e) = true then ulps else absolute
        let whole : Int := Nat.log2 m + e
        let x := m * 2 ^ (400 - Nat.log2 m)
        if x = 2 ^ 400 then evaluated near y (ofInt whole)
        else ∃ v, halfLogs x v ∧ evaluated near y (sticky (whole * 2 ^ 400 + 2 * v * 2 ^ 400 / ln2) 0)) ∧
    completes (.fsin f) (special (.zero false) (.zero true) .nan .nan fun n m e y =>
      if Nat.log2 m + e < -200 then evaluated absolute y (below n m e)
      else ∃ v, sines (rest m e) v ∧ evaluated absolute y (sticky (if (turns m e % 2 = 1) ↔ n = false then -v else v) 0)) ∧
    completes (.fcos f) (special one one .nan .nan fun _ m e y =>
      if Nat.log2 m + e < -200 then evaluated absolute y (below false 1 0)
      else ∃ v, cosines (rest m e) v ∧ evaluated absolute y (sticky (if turns m e % 2 = 1 then -v else v) 0)) ∧
    completes (.ftanh f) (special (.zero false) (.zero true) one (.fin true 1 0) fun n m e y =>
      let q := fixed m (e + 1) * 2 ^ 400 / ln2
      if Nat.log2 m + e < -200 then evaluated ulps y (below n m e)
      else if 8 ≤ Nat.log2 m + e then evaluated ulps y (below n 1 0)
      else ∃ v, exps (q % 2 ^ 400 * ln2 / 2 ^ 400) v ∧
        let square := v * 2 ^ (q / 2 ^ 400)
        let x := (square - 2 ^ 400) * 2 ^ 400 / (square + 2 ^ 400)
        evaluated ulps y (sticky (if n then -x else x) 0))

/-- Group 0x5 (R142 to R148). Every form completes: `exec` answers the state in which each active lane of D, and of C, holds the
results, the threads stand at the next slot, and nothing else has changed; QPACK, QUNPK and QDEQ where the start position
leaves room for their codes (R143), SPSEL always, SPEXP where the position codes of every active lane ascend (R63). QPACK puts
the quantised codes at their positions and keeps the others; QUNPK gives each code, zero-extended; QDEQ its value, less the
zero point, times the factor, rounded; SPSEL the N greatest bytes in order of position, with their positions; SPEXP the dense
group. -/
def Obligations.QuantisationResults : Prop :=
  ∀ (f : Fields) (s : State) (g : Group),
    let W := f.width.bits
    let T := f.t.toNat
    let rm := f.rm.toNat
    let stored := if T = 15 then 2 else if T = 9 ∨ 12 ≤ T ∧ T ≤ 14 then 4 else 8
    let start := f.imm.toNat % 32
    let count := if f.x then 16 else f.width.count
    let F := match f.width with
      | .d => f64Fmt
      | .w => f32Fmt
      | _ => h16Fmt
    let factor := fun (b : Word64) => f32Fmt.value (b.toNat % 2 ^ 32)
    let point : Word64 → Nat := fun b => b.toNat / 2 ^ 32 % 2 ^ (if T = 11 then 8 else 4)
    let integer : Prop := T = 11 ∨ T = 13
    let completes := fun (i : Instr) (dests : List Operand) (result : State → Prop) =>
      s.issues i g = true →
        ∃ t, exec i s = .next t ∧ Completed s t g.next ∧ RegisterFrame s t g dests ∧ result t
    let packs := fun (i : Instr) (rule : Word64 → Word64 → Word64 → Word64 → Prop) =>
      start + count ≤ 64 / stored →
        completes i [f.d] fun t => Gives s t g f f.d fun w l y => rule (w.opnd f f.a l) (w.opnd f f.b l) (w.opnd f f.d l) y
    let N := if f.t = 0 then 4 else if f.t = 1 then 3 else 6
    let byte := fun (a b : Word64) (p : Nat) => if p < 8 then elem a 8 p else elem b 8 (p - 8)
    let magnitude := fun (x : Nat) => if f.x then (signed 8 x).natAbs else x % 128
    let selects := fun (a b : Word64) (ps : List Nat) =>
      ps.length = N ∧ ps.Pairwise (· < ·) ∧ (∀ p ∈ ps, p < 12) ∧
        ∀ p ∈ ps, ∀ q < 12, q ∉ ps →
          magnitude (byte a b q) < magnitude (byte a b p) ∨ magnitude (byte a b q) = magnitude (byte a b p) ∧ p < q
    let ascends := ∀ u ∈ g.weaves, ∀ l < 32, (s.active g f u).getLsbD l = true → ∀ j < N,
      elem ((s.weave u).opnd f f.b l) 4 j < 12 ∧
        (j = 0 ∨ elem ((s.weave u).opnd f f.b l) 4 (j - 1) < elem ((s.weave u).opnd f f.b l) 4 j)
    let dense := fun (a b : Word64) (p x : Nat) =>
      (∀ j < N, elem b 4 j = p → x = elem a 8 j) ∧ ((∀ j < N, elem b 4 j ≠ p) → x = 0)
    packs (.qpack f) (fun a b old y =>
      ∀ k < 64 / stored,
        elem y stored k =
          if start ≤ k ∧ k < start + count then
            (if f.x then elem a 4 (k - start) % 4
            else
              let x := (F.value (elem a W (k - start))).mul (factor b)
              convert T rm f.sat (if integer then sumExact rm [x, ofInt (point b)] else x) % 2 ^ stored)
          else elem old stored k) ∧
    packs (.qunpk f) (fun a _ _ y =>
      if f.x then ∀ k < 16, elem y 4 k = elem a 2 (start + k)
      else ∀ k < f.width.count, elem y W k = elem a stored (start + k) % 2 ^ (if T = 7 ∨ T = 8 then 6 else stored)) ∧
    packs (.qdeq f) (fun a b _ y =>
      ∀ k < f.width.count,
        let c := elem a stored (start + k)
        elem y W k =
          F.round rm f.sat ((if integer then ofInt (intValue T c - point b) else valueOf T c).mul (factor b)) % 2 ^ W) ∧
    (completes (.spsel f) [f.d, f.c] fun t =>
      (f.c ≠ f.d → Gives s t g f f.d fun w l y =>
        let a := w.opnd f f.a l
        let b := w.opnd f f.b l
        ∃ ps, selects a b ps ∧ ∀ j < 8, elem y 8 j = if j < N then byte a b (ps.getD j 0) else 0) ∧
      Gives s t g f f.c fun w l y =>
        ∃ ps, selects (w.opnd f f.a l) (w.opnd f f.b l) ps ∧ ∀ j < 16, elem y 4 j = if j < N then ps.getD j 0 else 0) ∧
    (ascends → completes (.spexp f) [f.d, f.c] fun t =>
      (f.c ≠ f.d → Gives s t g f f.d fun w l y => ∀ p < 8, dense (w.opnd f f.a l) (w.opnd f f.b l) p (elem y 8 p)) ∧
      Gives s t g f f.c fun w l y =>
        ∀ k < 8, if k < 4 then dense (w.opnd f f.a l) (w.opnd f f.b l) (8 + k) (elem y 8 k) else elem y 8 k = 0)

/-- Group 0x6 (R149 to R161): when the last members of a set sign a cross-lane instruction, it issues once for the whole
set. PERM, BCAST and SHFL give each sub-element the value of its source lane where that lane is a member, else the fill value,
and the vacancy predicate tells whether any took the fill;
VOTE and MATCH give ballots of the active lanes. REDUCE and SCAN combine the positions of the set, those that are not active as the
identity of the operation: integer sums exactly, then fitted, everything else through the full binary tree of R66, whose addition
nodes each round once; a SCAN's result at a position takes the identity for every position after it, or from it on (R67). -/
def Obligations.CrossLaneResults : Prop :=
  ∀ (f : Fields) (s : State) (g : Group),
    let W := f.width.bits
    let moved := fun (i : Instr) (src : Weave → Nat → Nat → Int × Nat) =>
      ConvergentEffect i f s g (f.d :: if f.t = 0 then [] else [.p (BitVec.ofNat 3 (f.t.toNat - 1))]) fun t whole =>
        let supplied := fun (u : Nat) (lane : Int) =>
          0 ≤ lane ∧ (whole.lanes u &&& (s.weave u).live).getLsbD lane.toNat = true
        ∀ u ∈ whole.weaves,
          let gives := (s.weave u).gives (t.weave u) (s.active whole f u)
          (∀ n, f.d = .v n → gives f.d fun l y =>
            ∀ k < f.width.count,
              let from_ := src (s.weave u) l k
              (supplied u from_.1 → elem y W k = elem ((s.weave u).opnd f f.a from_.1.toNat) W from_.2) ∧
              (¬supplied u from_.1 → elem y W k = if f.x then (f.imm.signExtend 64).toNat % 2 ^ W else 0)) ∧
          (f.t ≠ 0 → gives (.p (BitVec.ofNat 3 (f.t.toNat - 1))) fun l y =>
            y.getLsbD 0 = true ↔ ∃ k < f.width.count, ¬supplied u (src (s.weave u) l k).1)
    let across := fun (i : Instr) (value : Weave → Mask → Nat → Word64) =>
      ConvergentEffect i f s g [f.d] fun t whole =>
        ∀ u ∈ whole.weaves,
          (s.weave u).gives (t.weave u) (s.active whole f u) f.d fun l y => y = value (s.weave u) (s.active whole f u) l
    let T := f.t.toNat
    let F := if 12 ≤ T then b16Fmt else match f.width with
      | .d => f64Fmt
      | .w => f32Fmt
      | _ => h16Fmt
    let identity := match T with
      | 2 => 2 ^ (W - 1) - 1
      | 3 => 2 ^ (W - 1)
      | 4 | 6 => 2 ^ W - 1
      | 9 | 12 => F.code true 0 0
      | 10 | 13 => F.infCode false
      | 11 | 14 => F.infCode true
      | _ => 0
    let node := fun (a b : Nat) =>
      match T with
      | 2 => if signed W b < signed W a then b else a
      | 3 => if signed W a < signed W b then b else a
      | 4 => min a b
      | 5 => max a b
      | 6 => a &&& b
      | 7 => a ||| b
      | 8 => a ^^^ b
      | 9 | 12 => F.round f.rm.toNat f.sat (sumExact f.rm.toNat [F.value a, F.value b])
      | 10 | 13 => pickCode F false a b
      | _ => pickCode F true a b
    let combines := fun (val : Nat → Nat) (n x : Nat) =>
      if T ≤ 1 then x = fit W (T == 1) f.sat (((List.range n).map fun i => number (T == 1) W (val i)).sum)
      else ∃ tree : Nat → Nat → Nat, (∀ i, tree 0 i = if i < n then val i else identity) ∧
        (∀ d i, tree (d + 1) i = node (tree d (2 * i)) (tree d (2 * i + 1))) ∧ x = tree (5 + Nat.log2 f.width.count) 0
    let combining := fun (i : Instr) (taken : Nat → Nat → Nat) =>
      ConvergentEffect i f s g [f.d] fun t whole =>
        ∀ u ∈ whole.weaves,
          let act := s.active whole f u
          let val := fun (p : Nat) =>
            if act.getLsbD (p / f.width.count) then elem ((s.weave u).opnd f f.a (p / f.width.count)) W (p % f.width.count) else identity
          (s.weave u).gives (t.weave u) act f.d fun l y =>
            ∀ k < f.width.count, ∃ x, combines val (taken l k) x ∧ elem y W k = x % 2 ^ W
    moved (.perm f) (fun w l k =>
      let i := elem (w.opnd f f.b l) W k % 256
      ((i / 8 % 32 : Nat), i % 8 % f.width.count)) ∧
    moved (.bcast f) (fun w _ _ =>
      let i := (w.opnd f f.b 0).toNat % 256
      ((i / 8 % 32 : Nat), i % 8 % f.width.count)) ∧
    moved (.shfl f) (fun w l k =>
      let d := (w.opnd f f.b l).toNat % 32
      (match f.rm.toNat with
        | 0 => ((l + d : Nat) : Int)
        | 1 => (l : Int) - d
        | 2 => ((l ^^^ d : Nat) : Int)
        | _ => (((l + d) % 32 : Nat) : Int), k)) ∧
    across (.vote f) (fun w act _ =>
      let b := maskOf ((lanesOf act).filter fun l => w.opnd f f.a l != 0)
      match f.t.toNat with
      | 0 => b.setWidth 64
      | 1 => if b = act then 1 else 0
      | 2 => if b = 0 then 0 else 1
      | _ => if b = 0 ∨ b = act then 1 else 0) ∧
    across (.matchOp f) (fun w act l =>
      let same := maskOf ((lanesOf act).filter fun j => elem (w.opnd f f.a j) W 0 == elem (w.opnd f f.a l) W 0)
      if f.t = 0 then same.setWidth 64 else if same = act then 1 else 0) ∧
    combining (.reduce f) (fun _ _ => 32 * f.width.count) ∧
    combining (.scan f) fun l k => l * f.width.count + k + if f.x then 0 else 1

/-- Signing (R149, R175): threads that may sign a convergent instruction and do not complete its set are added to SIGNED and
wait at the instruction, and nothing else changes. -/
def Obligations.SignaturesWait : Prop :=
  ∀ (i : Instr) (f : Fields) (fm : Format) (s t : State) (g : Group) (n : Nat),
    i ∈ [.perm f, .bcast f, .shfl f, .vote f, .reduce f, .scan f, .matchOp f, .sign f, .mma f, .mmas f, .mmaq f, .mmam f] →
    i.format = some fm → convNamed f.c = some n → s.maySign i g = true → s.sign g n = .hold t →
    ∃ r, exec i s = .next r ∧ Completed s r [] ∧ ConvergentFrame s r g n [] ∧
      (r.conv g.team n).signed = g.members.foldl (fun m e => m ||| e.2) (s.conv g.team n).signed ∧
      (r.conv g.team n).gen = (s.conv g.team n).gen ∧ (r.conv g.team n).members = (s.conv g.team n).members ∧
      (r.conv g.team n).hweave = (s.conv g.team n).hweave

/-- BRA, BRX, CALL, CALLX, RET and NOP (R164, R165, R168): every one completes; the active threads go to the target, the others
to the next slot; the calls give the slot after them to D; nothing else changes. -/
def Obligations.BranchesAndCalls : Prop :=
  ∀ (f : Fields) (s : State) (g : Group),
    let sent := fun (i : Instr) (dests : List Operand) (target : Nat → Nat → Slot) =>
      s.issues i g = true → ∃ t next, exec i s = .next t ∧ Completed s t next ∧ RegisterFrame s t g dests ∧
        g.sends next (fun u l => if (s.active g f u).getLsbD l then target u l else g.pc + 1) ∧
        (dests ≠ [] → Gives s t g f f.d fun _ _ y => y = (g.pc + 1).setWidth 64)
    let relative := fun (_ _ : Nat) => g.pc + f.imm.signExtend 40
    let named := fun (u l : Nat) => ((s.weave u).opnd f f.a l).setWidth 40
    sent (.bra f) [] relative ∧ sent (.brx f) [] named ∧ sent (.ret f) [] named ∧
    sent (.call f) [f.d] relative ∧ sent (.callx f) [f.d] named ∧
    RegisterEffect (.nop f) s g [] fun _ => True

/-- REFORM (R167): every thread of the group leaves it for the bins of its core, the active ones for the target where REFORM
has one, and no register or byte of memory changes. -/
def Obligations.ReformFilesThreads : Prop :=
  ∀ (f : Fields) (s : State) (g : Group), s.issues (.reform f) g = true →
    let c := (s.team g.team).core
    ∃ t, exec (.reform f) s = .next t ∧ Completed s t [] ∧ KeepsMemory s t ∧ KeepsModule { s with cores := t.cores } t ∧
      KeepsRegisters s t g [] ∧ (∀ k, k ≠ c → t.core k = s.core k) ∧
      t.core c = { s.core c with bins := (t.core c).bins, overflow := (t.core c).overflow } ∧
      ∀ u l, (g.lanes u).getLsbD l = true →
        (t.core c).filedAt g.team u l
          (if f.x = true ∧ (s.active g f u).getLsbD l = true then g.pc + f.imm.signExtend 40 else g.pc + 1)

/-- EXIT (R166, R16, R23, R272): the active lanes become vacant and leave the member masks; the others go on, a lane that has signed
a set which the exit completes with that set. Where a thread of the team is left, no byte of memory changes; where none is, the
team ends and its memories read as zero. -/
def Obligations.ExitVacatesLanes : Prop :=
  ∀ (f : Fields) (s : State) (g : Group), s.issues (.exit f) g = true →
    (∀ u ∈ g.weaves, teamOfWeave u = g.team) → (s.team g.team).ended = false → (Map.find s.teams g.team).isSome →
    (∀ h ∈ s.groups, ∀ u, h.lanes u &&& g.lanes u = 0) →
    let left := fun u => (s.weave u).live &&& ~~~(if u ∈ g.weaves then s.active g f u else 0)
    let remains := ∃ e ∈ s.weaves, teamOfWeave e.1 = g.team ∧
      e.2.live &&& ~~~(if e.1 ∈ g.weaves then s.active g f e.1 else 0) ≠ 0
    ∃ t, exec (.exit f) s = .next t ∧ t.clock = s.clock ∧ t.issuing = none ∧
      (remains →
        KeepsMemory s t ∧ (t.team g.team).ended = false ∧
          (∀ u, (t.weave u).live = left u ∧ (s.weave u).v = (t.weave u).v ∧ (s.weave u).s = (t.weave u).s ∧
            (s.weave u).p = (t.weave u).p) ∧
          (∀ u l, (g.lanes u).getLsbD l = true → (s.active g f u).getLsbD l = false →
            t.standsAt u l (g.pc + 1) ∨ ∃ n, (s.conv g.team n).signed.getLsbD l = true ∧ t.standsAt u l (s.conv g.team n).slot) ∧
          ∀ n u, u ∈ g.weaves → (s.weave u).shadow = false → (s.conv g.team n).hweave.toNat = (s.weave u).weaveId →
            (t.conv g.team n).members &&& s.active g f u = 0) ∧
      (¬remains → s.memoryInv →
        (t.team g.team).ended = true ∧ (∀ u, teamOfWeave u = g.team → Map.find t.weaves u = none) ∧
          ∀ a, Memory.read t.mem a = if ownedBy g.team a = true then 0 else Memory.read s.mem a)

/-- TRAP and BPT (R169, R170, R172): the active threads of a weave take a trap with their cause and immediate; the threads of
weaves that have none go on. -/
def Obligations.TrapInstructionsTrap : Prop :=
  ∀ (f : Fields) (s : State) (g : Group) (u : Nat),
    let traps := fun (i : Instr) (cause : Byte) =>
      s.issues i g = true → s.represented g f = [u] → s.mayTrap u = true →
        ∃ t, exec i s = .next t ∧ t.clock = s.clock ∧ t.issuing = none ∧
          TrapTaken s t u cause g.pc (s.active g f u) (g.lanes u) ∧ (t.weave u).trapAddr = f.imm.setWidth 64 ∧
          TrapFrame s t u ∧
          ∀ x l, x ≠ u → (g.lanes x).getLsbD l = true → t.standsAt x l (g.pc + 1)
    traps (.trap f) 0x12 ∧ traps (.bpt f) 0x11

/-- TRAP_ENTRY (R170, R332, R335): threads enter with the cause, PC, address and lanes they are given. Where the context
takes no traps, the gang is parked, and the trap registers say why. -/
def Obligations.TrapEntry : Prop :=
  ∀ (s : State) (u : Nat) (cause : Byte) (pc : Slot) (addr : Word64) (lanes trapped : Mask),
    let m := trapped &&& (s.weave u).live
    let e := s.site (teamOfWeave u)
    let i := Instr.trapEntry u cause pc addr lanes trapped
    m ≠ 0 → 1 ≤ cause.toNat → cause.toNat ≤ 0x12 →
    (s.mayTrap u = true → s.reportsFit = true →
      ∃ t, exec i s = .next t ∧ TrapTaken s t u cause pc lanes m ∧ (t.weave u).trapAddr = addr ∧ TrapFrame s t u ∧
        t.clock = s.clock) ∧
    ((Map.find s.weaves u).isSome → (s.sub e.sub).handler = none ∨ (s.ctx e.slice).trapEn = false → s.hasRoom e.core = true →
      (s.gang e.gang).state ≠ .parked → (Map.find s.gangs e.gang).isSome →
      ∃ t, exec i s = .next t ∧ (t.gang e.gang).state = .parked ∧
        (t.weave u).trapCause = cause ∧ (t.weave u).trapPc = pc ∧ (t.weave u).trapAddr = addr ∧ (t.weave u).trapLanes = lanes ∧
        (∃ r, (t.die (dieOfCore e.core)).pending = (s.die (dieOfCore e.core)).pending ++ [r]) ∧
        t.standsAt u ((lanesOf m).headD 0) pc ∧ KeepsMemory s t ∧ ∀ x, (s.weave x).keepsRegisters (t.weave x) [])

/-- TRAPRET (R181, R172): a weave at the handler level whose frame can be read returns: the trapped lanes of the frame form a
group at TRAPPC, or at the slot after it; the held lanes of the frame are released; the level is that of the frame. That
other handler threads go on where they stand is the model's reading (log entry 20). -/
def Obligations.TrapReturn : Prop :=
  ∀ (f : Fields) (s s' : State) (g : Group) (u : Nat) (bs : List Byte),
    let w := s.weave u
    let field := fun (off n : Nat) => natOfBytes ((bs.drop off).take n)
    let trapped := BitVec.ofNat 32 (field 0x20 4) &&& w.live
    s.issues (.trapret f) g = true → s.represented g f = [u] → w.handler = true →
    s.readFrame u ((lanesOf (s.active g f u)).headD 0) (s.active g f u) g.pc = .ok (bs, s') →
    frameBad bs = false →
    ∃ t, exec (.trapret f) s = .next t ∧ t.clock = s.clock ∧ t.issuing = none ∧
      (t.weave u).handler = (field 0x28 1 == 1) ∧ (t.weave u).nest = false ∧
      (t.weave u).held = w.held &&& ~~~(BitVec.ofNat 32 (field 0x24 4)) ∧ (t.weave u).live = w.live ∧
      (trapped ≠ 0 → ∃ h ∈ t.groups, h.members = [(u, trapped)] ∧ h.pc = if f.t = 1 then w.trapPc + 1 else w.trapPc) ∧
      (∀ x l, (g.lanes x).getLsbD l = true → x ≠ u ∨ trapped.getLsbD l = false →
        (∀ h ∈ s.groups, (h.lanes x).getLsbD l = false) → t.standsAt x l (g.pc + 1)) ∧
      ∀ x, (s.weave x).keepsRegisters (t.weave x) []

/-- GETSYS (R28 to R36, R179): where the selector is one of R28, and not one of the three that differ by lane into an s
register, D takes the register's value; BUDGETLEFT reads as it was last refreshed, and 0 once the budget is spent (R34). -/
def Obligations.SystemRegisterReads : Prop :=
  ∀ (f : Fields) (s : State) (g : Group),
    let sel := f.imm.toNat % 256
    (sel ∈ [0x00, 0x01, 0x02, 0x03, 0x04, 0x05, 0x06, 0x08, 0x09, 0x10, 0x11, 0x12, 0x13, 0x18, 0x19, 0x1A, 0x1B, 0x1C, 0x1D,
        0x1E]) →
    (f.d.isS = true → 3 ≤ sel) → (∀ u ∈ g.weaves, teamOfWeave u = g.team) →
    RegisterEffect (.getsys f) s g [f.d] fun t =>
      let m := s.team g.team
      let k := s.gang m.gang
      let n := (s.sub m.sub).slice
      let l := s.slice n
      let x := s.ctx n
      let win := Map.at k.windows {} (m.index / 32)
      Gives s t g f f.d fun w lane y =>
        match sel with
        | 0x00 => y.toNat = (w.weaveId * 32 + lane) % 2 ^ 64
        | 0x01 => y.toNat = lane % 2 ^ 64
        | 0x02 => y.toNat = w.weaveId % 2 ^ 64
        | 0x03 => y.toNat = m.teamId % 2 ^ 64
        | 0x04 => y.toNat = k.gangId % 2 ^ 64
        | 0x05 => y.toNat = (k.cores.idxOf m.core + m.core % 16 * 16 + m.core % 160 / 16 * 256) % 2 ^ 64
        | 0x06 => y.toNat = (m.core / 160 + (s.fn l.fn).part * 256 + s.module_ * 65536) % 2 ^ 64
        | 0x08 => y.toNat = s.clock % 2 ^ 64
        | 0x09 => y.toNat = (s.ptimeBase + s.clock * 50 / 47) % 2 ^ 64
        | 0x10 => y = (s.core m.core).capmask
        | 0x11 => y.toNat = x.noProg.toNat + 2 * x.trapEn.toNat + 4 * x.ckptEn.toNat
        | 0x12 => y.toNat = x.fairTimer % 2 ^ 64
        | 0x13 => y.toNat = (if l.budget = 0 then 0 else l.left) % 2 ^ 64
        | 0x18 => y.toNat = w.trapCause.toNat
        | 0x19 => y.toNat = w.trapPc.toNat
        | 0x1A => y = w.trapAddr
        | 0x1B => y.toNat = w.trapLanes.toNat
        | 0x1C => y.toNat = (m.index / 32 * 2 ^ 56 + win.gen.toNat * 2 ^ 32 + (if m.joined then win.members.toNat else 0)) % 2 ^ 64
        | 0x1D => y.toNat = (x.saveCost + if x.noIndep then 2 ^ 63 else 0) % 2 ^ 64
        | _ => y.toNat = x.restoreCount % 2 ^ 64

/-- SETSYS at the handler level (R180, R32, R33): CTXFLAGS or FAIRTIMER of the context, clamped to its range, or one of the trap
registers takes the value of A; no other system register, no register and no byte of memory changes. -/
def Obligations.SystemRegisterWrites : Prop :=
  ∀ (f : Fields) (s : State) (g : Group) (u : Nat),
    let sel := f.imm.toNat % 256
    let w := s.weave u
    let x := w.opnd f f.a ((lanesOf (s.active g f u)).headD 0)
    let n := (s.site (teamOfWeave u)).slice
    let c := s.ctx n
    s.issues (.setsys f) g = true → s.represented g f = [u] → w.handler = true →
    sel ∈ [0x11, 0x12, 0x18, 0x19, 0x1A, 0x1B] → (sel = 0x11 → x.toNat < 8) →
    ∃ t, exec (.setsys f) s = .next t ∧ Completed s t g.next ∧ KeepsMemory s t ∧
      t.ctx n =
        (if sel = 0x11 then { c with noProg := x.getLsbD 0, trapEn := x.getLsbD 1, ckptEn := x.getLsbD 2 }
        else if sel = 0x12 then { c with fairTimer := max 256 (min 65536 x.toNat) }
        else c) ∧
      (t.weave u).trapCause = (if sel = 0x18 then x.setWidth 8 else w.trapCause) ∧
      (t.weave u).trapPc = (if sel = 0x19 then x.setWidth 40 else w.trapPc) ∧
      (t.weave u).trapAddr = (if sel = 0x1A then x else w.trapAddr) ∧
      (t.weave u).trapLanes = (if sel = 0x1B then x.setWidth 32 else w.trapLanes) ∧
      (∀ k, t.node k = { s.node k with ctx := if k = s.contextKey n then t.ctx n else (s.node k).ctx }) ∧
      KeepsModule { s with nodes := t.nodes } t ∧
      ∀ v, (s.weave v).same
        { t.weave v with
          trapCause := (s.weave v).trapCause, trapPc := (s.weave v).trapPc, trapAddr := (s.weave v).trapAddr
          trapLanes := (s.weave v).trapLanes } ∧ (v ≠ u → (s.weave v).same (t.weave v))

/-- The privilege rules (R28, R180, R181, R32): below the handler level SETSYS of a selector of R28 and TRAPRET trap with
PRIVILEGE; at it SETSYS traps with ILLEGAL_OPERAND on a register that handler code may not write and with RESERVED_BITS on a
reserved bit of CTXFLAGS; a selector outside R28 traps with ILLEGAL_OPERAND, for GETSYS too. -/
def Obligations.PrivilegeTraps : Prop :=
  ∀ (f : Fields) (s : State) (g : Group) (u : Nat),
    let sel := f.imm.toNat % 256
    let w := s.weave u
    let x := w.opnd f f.a ((lanesOf (s.active g f u)).headD 0)
    let listed := sel ∈ [0x00, 0x01, 0x02, 0x03, 0x04, 0x05, 0x06, 0x08, 0x09, 0x10, 0x11, 0x12, 0x13, 0x18, 0x19, 0x1A, 0x1B,
      0x1C, 0x1D, 0x1E]
    let written := sel ∈ [0x11, 0x12, 0x18, 0x19, 0x1A, 0x1B]
    let traps := fun (i : Instr) (cause : Byte) =>
      s.issues i g = true → s.represented g f = [u] → s.mayTrap u = true →
        ∃ t, exec i s = .next t ∧ t.clock = s.clock ∧ t.issuing = none ∧
          TrapTaken s t u cause g.pc (s.active g f u) (g.lanes u) ∧ TrapFrame s t u
    (w.handler = false → traps (.trapret f) 0x05) ∧ (w.handler = false → listed → traps (.setsys f) 0x05) ∧
    (¬listed → traps (.setsys f) 0x04 ∧ traps (.getsys f) 0x04) ∧
    (f.d.isS = true → sel ≤ 2 → traps (.getsys f) 0x04) ∧
    (w.handler = true → listed → ¬written → traps (.setsys f) 0x04) ∧
    (w.handler = true → sel = 0x11 → 8 ≤ x.toNat → traps (.setsys f) 0x03)

/-- CONV and SIGN (R174, R175, R22). CONV gives a convergence register without signatures its home weave and its members, the
lanes of A that hold threads, or all of these; SIGN does nothing but sign. -/
def Obligations.ConvergenceInstructions : Prop :=
  ∀ (f : Fields) (s : State) (g : Group) (u : Nat) (n : BitVec 3),
    let w := s.weave u
    (s.issues (.conv f) g = true → s.represented g f = [u] → f.d = .c n → (s.conv g.team n.toNat).signed = 0 →
      (Map.find s.teams g.team).isSome →
      ∃ t, exec (.conv f) s = .next t ∧ Completed s t g.next ∧ ConvergentFrame s t g n.toNat [] ∧
        t.conv g.team n.toNat =
          { s.conv g.team n.toNat with
            hweave := BitVec.ofNat 6 w.weaveId
            members := if f.a = .zero then w.live
              else (w.opnd f f.a ((lanesOf (s.active g f u)).headD 0)).setWidth 32 &&& w.live }) ∧
    ConvergentEffect (.sign f) f s g [] fun _ _ => True

/-- PDIS, PEN and SYIELD (R176, R178, R375): with an active thread PDIS opens the gang's window or keeps the open one, but waits at its
slot where a request has taken effect; PEN closes it, and a request that waited takes effect; SYIELD holds the gang and its slice and reports, or, in the clock that ends the
slice's budget, every gang of the slice (R358, R360). -/
def Obligations.WindowInstructions : Prop :=
  ∀ (f : Fields) (s : State) (g : Group),
    let e := s.site g.team
    let k := s.gang e.gang
    let changes := fun (i : Instr) (room : Bool) (result : State → Gang → Prop) =>
      s.issues i g = true → s.anyActive g f = true → (Map.find s.gangs e.gang).isSome → room = true →
        (∀ u ∈ g.weaves, teamOfWeave u = g.team) →
        ∃ t, exec i s = .next t ∧ Completed s t g.next ∧ KeepsMemory s t ∧ KeepsRegisters s t g [] ∧
          result t { t.gang e.gang with state := k.state }
    (s.issues (.pdis f) g = true → s.anyActive g f = true → k.draining.isSome = true →
      ∃ t, exec (.pdis f) s = .next t ∧ Completed s t [g.withdrawn] ∧ RegisterFrame s t g []) ∧
    changes (.pdis f) k.draining.isNone (fun _ x =>
      x = { k with pdis := some { opened := (k.pdis.map fun p => p.opened).getD s.clock
                                  crit := (k.pdis.map fun p => p.crit).getD false || f.x } }) ∧
    changes (.pen f) true (fun _ x =>
      x = match k.pdis with
        | none => k
        | some p =>
          if k.requested then { k with pdis := none, requested := false, draining := some (s.clock, p.crit) }
          else { k with pdis := none }) ∧
    changes (.syield f) (s.hasRoom e.core) (fun t x =>
      (2 ≤ (s.slice e.slice).budget → x = { k with stopped := true } ∧
        ∀ h, h ≠ e.gang → (t.gang h).stopped = (s.gang h).stopped) ∧
        ((s.slice e.slice).budget < 2 → ∀ h, (Map.find s.gangs h).isSome → (s.slice e.slice).subs.contains (s.gang h).sub = true →
          (s.gang h).state ≠ .retired → (t.gang h).stopped = true) ∧
        ((Map.find s.slices e.slice).isSome → (t.slice e.slice).state = .held) ∧
        ∃ r, (t.die (dieOfCore e.core)).pending = (s.die (dieOfCore e.core)).pending ++ [r]) ∧
    ∀ i ∈ [Instr.pdis f, .pen f, .syield f], s.anyActive g f = false → RegisterEffect i s g [] fun _ => True

/-- ICPREF, ICPIN, ICUNPIN and CKREQ (R182, R183). None writes memory, a register but D, or an accumulator. ICPREF and ICPIN
bring every named line that can be fetched into the instruction cache; ICPIN tells whether every named line is pinned, and
pins them all within the limits; ICUNPIN leaves none of them pinned; CKREQ registers a request where the context may, and D
tells. -/
def Obligations.CacheAndCheckpointRequests : Prop :=
  ∀ (f : Fields) (s : State) (g : Group),
    let e := s.site g.team
    let lines := s.linesOfWord f g
    let keys := lines.map (codeKey e.asid)
    let cached := fun (t : State) va => (Map.find (t.core e.core).icache (codeKey e.asid va)).map fun l => l.count
    let found := fun (va : Nat) => (s.core e.core).sideLog = [] ∧ va % 65536 + 192 ≤ 65536 ∧
      ∃ tr, (s.core e.core).tlb.find? (fun t => t.covers e.asid (va % 2 ^ 56)) = some tr ∧
        (tr.stored (tr.pa va) && s.mayFetch tr (tr.pa va) 192 && !s.poisoned (tr.pa va) 192) = true
    let ready := ∀ va ∈ lines, cached s va = some 192 ∨ cached s va = none ∧ found va
    let ends := fun (i : Instr) (dests : List Operand) (result : State → Prop) =>
      s.issues i g = true → (Map.find s.teams g.team).isSome →
        ∃ t, exec i s = .next t ∧ Completed s t g.next ∧ KeepsBytes s t (fun _ => False) ∧ KeepsRegisters s t g dests ∧
          (∀ x, (t.team x).tiles = (s.team x).tiles) ∧ result t
    let pins := fun (t : State) => (t.team g.team).pins (f.t == 1)
    let withinLimit :=
      if f.t = 1 then s.pinnedL2.length + 3 * keys.length ≤ 2 ^ 17 / 4 else (s.pinned e.core).length + keys.length ≤ 85
    (f.t = 1 → ends (.icpref f) [] fun t => t.teams = s.teams ∧ t.mem = s.mem) ∧
    (ready → ends (.icpref f) [] fun t => t.teams = s.teams ∧ (f.t ≠ 1 → ∀ va ∈ lines, cached t va = some 192)) ∧
    ((∀ va ∈ lines, found va) → ends (.icpin f) [f.d] fun t =>
      Gives s t g f f.d (fun _ _ y => y = if ∀ k ∈ keys, k ∈ pins t then 1 else 0) ∧
        (∀ k, k ∈ pins s → k ∈ pins t) ∧ (∀ k ∈ pins t, k ∈ pins s ∨ k ∈ keys) ∧
        (withinLimit → ∀ k ∈ keys, k ∈ pins t)) ∧
    (ends (.icunpin f) [] fun t => ∀ k, k ∈ pins t ↔ k ∈ pins s ∧ k ∉ keys) ∧
    ends (.ckreq f) [f.d] fun t =>
      let may := (s.ctx e.slice).ckptEn
      Gives s t g f f.d (fun _ _ y => y = if may then 1 else 0) ∧
        (may = true → s.anyActive g f = true → (s.slice e.slice).ckptAsked = none → (Map.find s.slices e.slice).isSome →
          (t.slice e.slice).ckptAsked = some s.ptime)

/-- LD (R186, R189, R193): where every access passes its checks, D takes in each active lane the element at the lane's address,
or in the scalar form that of the weave's lowest active lane, extended as the word says; no byte of memory and no other
register changes. -/
def Obligations.LoadResults : Prop :=
  ∀ (f : Fields) (s : State) (g : Group) (places : List (Access × Place)),
    let space := f.t.toNat
    let n := f.width.bits / 8
    s.issues (.ld f) g = true → s.passes g space n .read false (s.elements g f space) places →
    (∀ x ∈ places, x.2.watched % n = 0) →
    ∃ t, exec (.ld f) s = .next t ∧ Completed s t g.next ∧ MemoryFrame s t g [f.d] (fun _ => False) ∧
      ∀ u ∈ g.weaves,
        (f.d.isS = false ∨ scalarForm f = true) →
        let lane := fun l => if scalarForm f then (lanesOf (s.active g f u)).headD 0 else l
        (s.weave u).gives (t.weave u) (s.active g f u) f.d fun l y =>
          (s.active g f u).getLsbD (lane l) = true →
          ∃ x p bs, (x, p) ∈ places ∧ x.weave = u ∧ x.lane = lane l ∧ bs.length = n ∧
            s.readsElement (s.team g.team).core p (howOf f space (f.rm == 1) false) bs ∧
            if f.x then y.toInt = signed f.width.bits (natOfBytes bs) else y.toNat = natOfBytes bs

/-- LDM (R194, R76): register j of the run that D begins takes in each active lane the 8 bytes at the lane's place in row j of
the block; with D = ZERO no register changes. -/
def Obligations.BlockLoadResults : Prop :=
  ∀ (f : Fields) (s : State) (g : Group) (places : List (Access × Place)),
    let space := f.t.toNat
    let run := fun (base : BitVec 7) => (List.range f.blockCount).map fun j => Operand.v (BitVec.ofNat 7 (base.toNat + j))
    s.issues (.ldm f) g = true →
    s.passes g space 8 .read false (s.blockElements g f space f.blockCount) places →
    (∀ x ∈ places, x.2.watched % 8 = 0) →
    ∃ t, exec (.ldm f) s = .next t ∧ Completed s t g.next ∧
      MemoryFrame s t g (match f.d with | .v base => run base | _ => []) (fun _ => False) ∧
      ∀ base, f.d = .v base → ∀ u ∈ g.weaves, ∀ j < f.blockCount, ∀ l < 32, (s.active g f u).getLsbD l = true →
        let a := ((s.weave u).opnd f f.a l + f.off + BitVec.ofNat 64 (256 * j + 8 * l)).toNat
        ∃ x p bs, (x, p) ∈ places ∧ x.weave = u ∧ x.lane = l ∧ x.addr = (if space = 0 then a % 2 ^ 56 else a) ∧ bs.length = 8 ∧
          s.readsElement (s.team g.team).core p (howOf f space false false) bs ∧
          ((t.weave u).vread (base.toNat + j) l).toNat = natOfBytes bs

/-- ST and STM (R193, R194, R310): where every access passes, none goes to the side log and a release finds nothing to wait for,
each element is written at its lane's place, in the order of the threads, a later one over an earlier; no other byte and no
register changes. -/
def Obligations.StoreResults : Prop :=
  ∀ (f : Fields) (s : State) (g : Group) (places : List (Access × Place)),
    let space := f.t.toNat
    let c := (s.team g.team).core
    let count := (s.activeLanes g f).length
    let stores := fun (i : Instr) (n : Nat) (release : Bool) (accs : List Access) (items : List (Place × List Byte)) =>
      s.issues i g = true → s.passes g space n .write true accs places →
      (∀ x ∈ places, ∀ va, x.2 ≠ .logged va) →
      ((release || places.any fun x => x.2.so) = true → s.gate g f = .pass) →
      (∀ x ∈ places, x.2.watched % n = 0) →
      ∃ t, exec i s = .next t ∧ Completed s t g.next ∧ MemoryFrame s t g [] (covered n places) ∧
        WritesAll s t c n items
    stores (.st f) (f.width.bits / 8) (f.rm == 1) (s.elements g f space)
      (places.map fun x => (x.2, bytesOfNat (f.width.bits / 8) ((s.weave x.1.weave).opnd f f.b x.1.lane).toNat)) ∧
    ∀ base : BitVec 7, f.b = .v base →
      stores (.stm f) 8 false (s.blockElements g f space f.blockCount)
        ((s.activeLanes g f).flatMap fun l =>
          (places.zipIdx.filter fun x => x.1.1.weave = l.1 && x.1.1.lane = l.2).map fun x =>
            (x.1.2, bytesOfNat 8 ((s.weave l.1).vread (base.toNat + x.2 / count) l.2).toNat))

/-- The side log (R190, R193, R327): where every access of an ST or STM to global memory passes or goes to the log, which has room,
and a release finds nothing to wait for, the elements that go to the log make one entry for each block of 256 bytes, in the order
of the lanes, for STM of the registers: the bytes of the block in the order in which they are written, and the lanes that wrote
them; their pages are asked for; the other elements are written at once, and no other byte and no register changes. An entry names
the address of its first lane's first byte (log entry 118). -/
def Obligations.SideLogTakesStores : Prop :=
  ∀ (f : Fields) (s : State) (g : Group) (places : List (Access × Place)),
    let e := s.site g.team
    let count := (s.activeLanes g f).length
    let blocks := ((places.filterMap fun x => x.2.logged?).map (· / 256)).eraseDups
    let performed := places.filter fun x => x.2.logged? = none
    let takes := fun (i : Instr) (n : Nat) (release : Bool) (accs : List Access) (items : List ((Access × Place) × List Byte)) =>
      s.issues i g = true → f.t = 0 → s.passes g 0 n .write true accs places →
      ((release || places.any fun x => x.2.so) = true → s.gate g f = .pass) → (∀ x ∈ places, x.2.watched % n = 0) →
      blocks.length ≤ 64 →
      ∃ t, exec i s = .next t ∧ Completed s t g.next ∧ MemoryFrame s t g [] (covered n performed) ∧
        WritesAll s t e.core n ((items.filter fun x => x.1.2.logged? = none).map fun x => (x.1.2, x.2)) ∧
        (t.core e.core).sideLog.length = blocks.length ∧
        (∀ x ∈ places, ∀ va, x.2 = .logged va → ∃ r ∈ (t.core e.core).requests, r.page = va % 2 ^ 56 / 65536 * 65536 ∧ r.asid = e.asid) ∧
        ∀ (j k : Nat), blocks[j]? = some k → ∃ q, (t.core e.core).sideLog[j]? = some q ∧
          let mine := items.filterMap fun x => x.1.2.logged?.bind fun va => if va / 256 = k then some (x.1.1, va, x.2) else none
          q.slice = e.slice ∧ q.asid = e.asid ∧ q.team = e.team ∧ q.pc = g.pc ∧ q.page = 256 * k % 2 ^ 56 / 65536 * 65536 ∧
            q.release = (release && wideScope (howOf f 0 false release).scope) ∧ (mine.map fun x => x.2.1).head? = some q.addr ∧
            q.op = .store (mine.flatMap fun x => x.2.2.zipIdx.map fun b => (x.2.1 + b.2, b.1)) ∧
            ∀ u l, (∃ m, (u, m) ∈ q.members ∧ m.getLsbD l = true) ↔ ∃ x ∈ mine, x.1.weave = u ∧ x.1.lanes.getLsbD l = true
    takes (.st f) (f.width.bits / 8) (f.rm == 1) (s.elements g f 0)
      (places.map fun x => (x, bytesOfNat (f.width.bits / 8) ((s.weave x.1.weave).opnd f f.b x.1.lane).toNat)) ∧
    ∀ base : BitVec 7, f.b = .v base →
      takes (.stm f) 8 false (s.blockElements g f 0 f.blockCount)
        ((s.activeLanes g f).flatMap fun l =>
          (places.zipIdx.filter fun x => x.1.1.weave = l.1 && x.1.1.lane = l.2).map fun x =>
            (x.1, bytesOfNat 8 ((s.weave l.1).vread (base.toNat + x.2 / count) l.2).toNat))

/-- PREF and CCTL (R195, R196) on pages whose translations are cached, with no store waiting in the side log. PREF brings the
line of each aligned, cacheable and readable address into the L1, or does nothing; CCTL writes the dirty bytes of the ranges home, and clears them from the L1, or clears
the ranges from the instruction caches of the partition. Every byte reads as before. What PREF fills, and which lines CCTL acts on,
are the model's readings (log entries 21 and 22). -/
def Obligations.PrefetchAndCacheControl : Prop :=
  ∀ (f : Fields) (s : State) (g : Group) (u : Nat),
    let e := s.site g.team
    let w := s.weave u
    let va := (w.opnd f f.a 0).toNat % 2 ^ 56
    let len := (w.opnd f f.b 0).toNat % 2 ^ 40
    let ask := s.readableRanges e u ((lanesOf (s.active g f u)).headD 0) va len
    let held := fun (a : Nat) => (s.core e.core).tlb.find? fun t => t.covers e.asid (a % 2 ^ 56)
    (s.core e.core).sideLog = [] →
    (s.issues (.pref f) g = true → (∀ x ∈ s.elements g f 0, x.addr % 8 = 0 → (held x.addr).isSome) →
      ∃ t, exec (.pref f) s = .next t ∧ Completed s t g.next ∧ MemoryFrame s t g [] (fun _ => False) ∧
        (f.t = 1 → t.mem = s.mem) ∧
        (f.t ≠ 1 → ∀ x ∈ s.elements g f 0, x.addr % 8 = 0 → ∀ tr, held x.addr = some tr →
          let pa := tr.pa (x.addr % 2 ^ 56)
          (tr.canRead && !tr.remote && paKind pa == .hbm && tr.attr != attrSo && !s.poisoned pa 1) = true →
            (Map.find (t.core e.core).l1 (pa / 128)).isSome)) ∧
    (s.issues (.cctl f) g = true → s.represented g f = [u] → (∀ a, va ≤ a → a < va + len → (held a).isSome) → s.memoryInv →
      ∃ t, exec (.cctl f) s = .next t ∧ Completed s t g.next ∧ MemoryFrame s t g [] (fun _ => False) ∧
        (f.t ≠ 2 → ∀ r ∈ ask.1, ∀ a, r.1 ≤ a → a < r.1 + r.2 →
          t.dirtyByte e.core a = none ∧
            (Memory.read t.mem a = s.byteAt e.core a ∨ s.wroteByte (fun k => k = e.core) a (Memory.read t.mem a)) ∧
            (f.t = 1 → Map.find (t.core e.core).l1 (a / 128) = none)) ∧
        (f.t = 2 → t.mem = s.mem ∧ ∀ d ∈ (s.part e.part).dies, ∀ c, d * 160 ≤ c → c < d * 160 + 160 →
          ∀ l ∈ (t.core c).icache, ∀ p ∈ l.2.parts, ∀ r ∈ ask.1, p.1 + p.2 ≤ r.1 ∨ r.1 + r.2 ≤ p.1 ∨ p.2 = 0 ∨ r.2 = 0))

/-- ATOM, ACAS and RED (R197 to R200, R327): where every access passes and a release finds nothing to wait for, the atomics of the
lanes are performed one after another, but those elements of a RED that go to the side log, for which it has room and takes one entry
each, in lane order; ATOM and ACAS give each lane the old value of its element;
an ACAS whose comparison fails writes nothing; no other byte and no other register changes. What is read and left holds of
places where no other core has bytes that are not yet at home. -/
def Obligations.AtomicResults : Prop :=
  ∀ (f : Fields) (s : State) (g : Group) (places : List (Access × Place)),
    let space := (f.imm.extractLsb' 27 3).toNat
    let W := f.width.bits
    let n := W / 8
    let c := (s.team g.team).core
    let h := howOf f space (f.rm.getLsbD 0) (f.rm.getLsbD 1)
    let F := atomFmt f.width
    let operand := fun (o : Operand) (x : Access) => elem ((s.weave x.weave).opnd f o x.lane) W 0
    let performed := places.filter fun x => x.2.logged? = none
    let logged := places.filterMap fun x => x.2.logged?.map fun va => (x.1, va)
    let combined := fun (x : Access) (o : Nat) =>
      let b := operand f.b x
      match f.t.toNat with
      | 0 => o + b
      | 1 => if signed W b < signed W o then b else o
      | 2 => if signed W o < signed W b then b else o
      | 3 => min o b
      | 4 => max o b
      | 5 => o &&& b
      | 6 => o ||| b
      | 7 => o ^^^ b
      | 8 => b
      | 9 => F.round 0 false (sumExact 0 [F.value o, F.value b])
      | 10 => pickCode F false o b
      | _ => pickCode F true o b
    let swapped := fun (x : Access) (o : Nat) => if o = operand f.b x then some (operand f.c x) else none
    let runs := fun (i : Instr) (red : Bool) (new : Access → Nat → Option Nat) =>
      s.issues i g = true → s.passes g space n .update red (s.elements g f space) places →
      logged.length ≤ 64 → (∀ x ∈ places, x.2.watched % n = 0) →
      ((h.release || places.any fun x => x.2.so) = true → s.gate g f = .pass) →
      ∃ t olds, exec i s = .next t ∧ Completed s t g.next ∧
        MemoryFrame s t g (if red then [] else [f.d])
          (covered n (((performed.zip olds).filter fun x => (new x.1.1 x.2).isSome).map Prod.fst)) ∧ olds.length = performed.length ∧
        (t.core c).sideLog.length = logged.length ∧
        (∀ (j : Nat) (x : Access) (va : Nat), logged[j]? = some (x, va) → ∃ q, (t.core c).sideLog[j]? = some q ∧
          q.slice = (s.site g.team).slice ∧ q.asid = (s.site g.team).asid ∧ q.team = g.team ∧ q.members = [(x.weave, x.lanes)] ∧ q.pc = g.pc ∧
          q.addr = va ∧ q.page = va % 2 ^ 56 / 65536 * 65536 ∧ q.release = (h.release && wideScope h.scope) ∧
          q.op = .reduce va f.width f.t (BitVec.ofNat 64 (operand f.b x))) ∧
        (red = false → f.d.isS = false ∨ scalarForm f = true → ∀ u ∈ g.weaves,
          let lane := fun l => if scalarForm f then (lanesOf (s.active g f u)).headD 0 else l
          (s.weave u).gives (t.weave u) (s.active g f u) f.d fun l y =>
            (s.active g f u).getLsbD (lane l) = true →
            ∃ (i : Nat) (x : Access) (p : Place) (old : Nat), performed[i]? = some (x, p) ∧ olds[i]? = some old ∧ x.weave = u ∧ x.lane = lane l ∧ y.toNat = old) ∧
        (s.memoryInv → (∀ x ∈ performed, ∀ k < n, ∀ b, ¬s.wroteByte (fun z => z = c) (x.2.watched + k) b) →
          AtomicsRun s c n
              (fun p => match p with
                | .page t va => !inL1 t (t.pa va) h.scope || (h.acquire && wideScope h.scope && s.cleanLine c (t.pa va))
                | _ => true)
              performed olds (fun x o => (new x o).getD o) ∧
            WritesAll s t c n ((performed.zip olds).filterMap fun x => (new x.1.1 x.2).map fun y => (x.1.2, bytesOfNat n y)))
    let always := fun (x : Access) (o : Nat) => some (combined x o)
    runs (.atom f) false always ∧ runs (.red f) true always ∧ runs (.acas f) false swapped

/-- FENCE (R201, R313, R314): with no active thread it does nothing; else, once its threads' logged stores, copies and jobs are
over, it has the bytes that are dirty in the L1 written home, and the clean bytes of the L1 discarded, as its scope and kind
say; every byte reads as before. That a scope of .group writes back every dirty line is the model's reading (log entry 96). -/
def Obligations.FenceOrders : Prop :=
  ∀ (f : Fields) (s : State) (g : Group),
    let c := (s.team g.team).core
    let scope := f.t.toNat
    let stores : Prop := f.rm = 0 ∨ f.rm = 2
    let loads : Prop := f.rm = 0 ∨ f.rm = 1
    let copies : Prop := f.rm = 0 ∨ f.rm = 3
    (s.anyActive g f = false → RegisterEffect (.fence f) s g [] fun _ => True) ∧
    (s.issues (.fence f) g = true → s.anyActive g f = true → (stores → s.gate g f = .pass) →
      (copies → ∀ u ∈ s.represented g f, s.copiesOpen u = false) →
      ∃ t, exec (.fence f) s = .next t ∧ Completed s t g.next ∧ MemoryFrame s t g [] (fun _ => False) ∧
        (stores → scope ≤ 3 → s.memoryInv → ∀ a b, s.dirtyByte c a = some b →
          t.dirtyByte c a = none ∧ (Memory.read t.mem a = b ∨ s.wroteByte (fun k => k = c) a (Memory.read t.mem a))) ∧
        (loads → scope ≤ 3 → ∀ a, t.l1Byte c a = t.dirtyByte c a) ∧
        (¬(stores ∧ scope ≤ 3) → t.mem = s.mem)) ∧
    (s.issues (.fence f) g = true → (stores → s.gate g f = .pass) → copies → (∃ u ∈ s.represented g f, s.copiesOpen u = true) →
      ∃ t, exec (.fence f) s = .next t ∧ Completed s t [g.withdrawn] ∧ KeepsMemory s t ∧ KeepsRegisters s t g [])

/-- WAITV (R202, R203, R186): each active lane reads its element, in the scalar form one for the weave; where it equals the low
element of B, the lane parks, with a monitor on its line, unless the full table has given it up and wakes it, and the timeout
that C gives; where it differs, D is 1 and the lane goes on. -/
def Obligations.WaitParksLanes : Prop :=
  ∀ (f : Fields) (s : State) (g : Group) (places : List (Access × Place)),
    let space := f.t.toNat
    let W := f.width.bits
    let c := (s.team g.team).core
    s.issues (.waitv f) g = true → s.passes g space (W / 8) .watch false (s.elements g f space) places →
    (∀ x ∈ places, x.2.watched % (W / 8) = 0) →
    ∃ t next, ∃ parks : Nat → Mask, exec (.waitv f) s = .next t ∧ Completed s t next ∧ KeepsBytes s t (fun _ => False) ∧
      KeepsRest s t ∧ (∀ u, (s.weave u).keepsRegisters (t.weave u) (if u ∈ g.weaves then [f.d] else [])) ∧
      (∀ u l, (parks u).getLsbD l = true → (g.lanes u).getLsbD l = true ∧ (s.active g f u).getLsbD l = true) ∧
      (∀ u l, (g.lanes u).getLsbD l = true → (parks u).getLsbD l = false → t.standsAt u l (g.pc + 1)) ∧
      (∀ n, f.d = .p n → n ≠ 7 → ∀ u ∈ g.weaves, ∀ l < 32,
        (t.weave u).pread n.toNat l =
          if (s.active g f u).getLsbD l = true ∧ (parks u).getLsbD l = false then true else (s.weave u).pread n.toNat l) ∧
      ∀ u l, (s.active g f u).getLsbD l = true →
        ∃ (x : Access) (p : Place) (bs : List Byte), (x, p) ∈ places ∧ x.weave = u ∧ x.lanes.getLsbD l = true ∧ bs.length = W / 8 ∧
          s.readsElement c p {} bs ∧
          ((parks u).getLsbD l = true ↔ natOfBytes bs = elem ((s.weave u).opnd f f.b l) W 0) ∧
          ((parks u).getLsbD l = true →
            let limit := ((s.weave u).opnd f f.c l).toNat % 2 ^ 32
            ∃ w, Map.find (t.weave u).waits l = some w ∧ w.pc = g.pc ∧ w.dest = f.d ∧ w.parked = s.clock ∧
              w.until? = (if limit = 0 then none else some (s.clock + limit)) ∧
              w.line = p.watched / 128 * 4096 + c ∧ (w.line ∈ (t.core c).monitors ∨ .waitvWake w.line ∈ t.agenda))

/-- CPY, CPYM and CPYR (R206 to R210, R216): where the weave's record and coordinates are sound and no check fails, the copy
binds a free slot of its core and the watermark registers of its targets, which no active copy holds; a multicast without
a target that takes part ends at once with its token. No byte of memory and no register but D changes. -/
def Obligations.CopiesStart : Prop :=
  ∀ (f : Fields) (s s' : State) (g : Group) (u : Nat) (bs : List Byte),
    let e := s.site g.team
    let w := s.weave u
    let first := (scalarNamed f.b).getD 0
    let wm := (wmNamed f.c).getD 0
    let starts := fun (i : Instr) (multicast ragged : Bool) =>
      let count := (Layout.ofBytes bs).ndim + 1 + multicast.toNat + f.x.toNat
      let q := askOf multicast f.x f.t.toNat f.imm.toNat bs (w.coordinates first count)
      let targets := (s.copyTargets e q).1
      let skipped := (s.copyTargets e q).2
      let run := span first ((count + 1) / 2)
      s.issues i g = true → s.represented g f = [u] → teamOfWeave u = g.team → (Map.find s.teams g.team).isSome →
      s.isSaved g.team = false → (s.core e.core).sideLog = [] →
      s.readRecord u (s.active g f u) g.pc (w.opnd f f.a 0).toNat = .ok (bs, s') →
      layoutOk bs = true → first + run.length ≤ 64 → q.layout.ragged = ragged → q.mask < 2 ^ 24 →
      (∀ n ∈ run, s.pendingToken u n = false ∧ n ∉ w.poisonS) → s.copyTrap u (s.active g f u) e q = none →
      (targets = [] →
        ∃ t, exec i s = .next t ∧ Completed s t g.next ∧ KeepsBytes s t (fun _ => False) ∧ t.copies = s.copies ∧
          (∀ v, (s.weave v).keepsRegisters (t.weave v) (if v = u then [f.d] else [])) ∧
          ∀ n, f.d = .s n → ((t.weave u).sread n.toNat).toNat =
            (if skipped = 0 then 1 else 2) + skipped.toNat * 2 ^ 40) ∧
      (targets ≠ [] → (∀ x ∈ targets, (s.watermark x wm).active = false) →
        ((s.releaseFailed targets wm).freeSlots e.core ≠ []) →
        ∃ t k c, exec i s = .next t ∧ Completed s t g.next ∧ KeepsBytes s t (fun _ => False) ∧
          (∀ v, (s.weave v).keepsRegisters (t.weave v) []) ∧ Map.find t.copies k = some c ∧
          c.active = true ∧ c.frozen = false ∧ c.failed = false ∧ c.landed = 0 ∧ c.team = g.team ∧ c.weave = u ∧ c.core = e.core ∧
          c.wm = wm ∧ c.token = scalarNamed f.d ∧ c.space = f.t.toNat ∧ c.doff = q.doff ∧ c.nbytes = q.layout.bytes ∧
          c.record = bs ∧ c.coords = q.coords ∧ c.targets = targets ∧ c.skipped = skipped ∧ c.barrier = q.barrier ∧
          c.slot ∈ (s.releaseFailed targets wm).freeSlots e.core ∧ c.slot < 64 ∧
          ∀ x ∈ targets, t.watermark x wm =
            { slot := BitVec.ofNat 6 c.slot, failed := false, frozen := false, active := true, landed := 0 })
    starts (.cpy f) false false ∧ starts (.cpym f) true false ∧ starts (.cpyr f) false true

/-- WMRD, WMWAIT, CPYQ and CPYC (R24, R213, R218 to R220). The first three only read; WMWAIT waits at its slot while the copy
is active below the byte asked for; CPYC cancels the active copy of the register, whose token is written. -/
def Obligations.WatermarkInstructions : Prop :=
  ∀ (f : Fields) (s : State) (g : Group) (n : BitVec 4),
    let w := s.watermark g.team n.toNat
    let want := fun (x : Weave) => (x.opnd f f.b 0).toNat % 2 ^ 32
    let one := fun (i : Instr) (rule : Weave → Word64 → Prop) =>
      RegisterEffect i s g [f.d] fun t => Gives s t g f f.d fun x _ y => rule x y
    f.a = .w n →
    one (.wmrd f) (fun _ y =>
      y.toNat = w.landed.toNat + w.active.toNat * 2 ^ 32 + w.frozen.toNat * 2 ^ 33 + w.failed.toNat * 2 ^ 34 + w.slot.toNat * 2 ^ 40) ∧
    ((∀ u ∈ s.represented g f, want (s.weave u) ≤ w.landed.toNat ∨ w.active = false) → s.issues (.wmwait f) g = true →
      ∃ t, exec (.wmwait f) s = .next t ∧ Completed s t g.next ∧ WaitFrame s t g [f.d] ∧
        Gives s t g f f.d fun x _ y => y = if want x ≤ w.landed.toNat then 1 else 0) ∧
    (s.issues (.wmwait f) g = true → g.weaves = s.represented g f →
      (∀ u ∈ s.represented g f, w.landed.toNat < want (s.weave u)) → w.active = true →
      ∃ t, exec (.wmwait f) s = .next t ∧ WaitFrame s t g [] ∧ Completed s t [g.withdrawn]) ∧
    one (.cpyq f) (fun _ y =>
      match w.active, Map.find (s.team g.team).tokens n.toNat, Map.find (s.team g.team).wm n.toNat with
      | true, _, _ =>
        y.toNat = w.landed.toNat * 2 ^ 8 + (((s.boundTo g.team n.toNat).map fun c => c.skipped.toNat).getD 0) * 2 ^ 40
      | false, some x, _ => y = x
      | false, none, none => y = 0
      | false, none, some _ => True) ∧
    (s.boundCopy g.team n.toNat = none → one (.cpyc f) fun _ y => y = 0) ∧
    ∀ u k c, s.issues (.cpyc f) g = true → s.represented g f = [u] → s.boundCopy g.team n.toNat = some k →
      Map.find s.copies k = some c → c.ranges = [] →
      ∃ t, exec (.cpyc f) s = .next t ∧ Completed s t g.next ∧ KeepsMemory s t ∧
        Map.find t.copies k = some { c with active := false, frozen := false, failed := true } ∧
        (∀ q, f.d = .p q → q ≠ 7 → ∀ l < 32, (t.weave u).pread q.toNat l =
          if (s.active g f u).getLsbD l then true else (s.weave u).pread q.toNat l) ∧
        (∀ r, c.token = some r → (Map.find s.weaves c.weave).isSome → s.isSaved (teamOfWeave c.weave) = false →
          ((t.weave c.weave).sread r).toNat = (0x12 + c.landed * 2 ^ 8 + c.skipped.toNat * 2 ^ 40) % 2 ^ 64) ∧
        ∀ x ∈ c.targets, (Map.find s.teams x).isSome →
          (t.watermark x c.wm).active = false ∧ (t.watermark x c.wm).failed = true ∧
            Map.find (t.team x).tokens c.wm = some (BitVec.ofNat 64 (0x12 + c.landed * 2 ^ 8 + c.skipped.toNat * 2 ^ 40))

/-- JOBSUB (R222): a sound card becomes a job that waits for the engines, with D waiting for its token; no byte of memory and no
register changes yet. A card out of its rules traps. -/
def Obligations.JobsSubmitted : Prop :=
  ∀ (f : Fields) (s s' : State) (g : Group) (u : Nat) (bs : List Byte),
    let va := ((s.weave u).opnd f f.a 0).toNat
    let barrier := natOfBytes ((bs.drop 0x28).take 8)
    s.issues (.jobsub f) g = true → s.represented g f = [u] → (s.core (s.site (teamOfWeave u)).core).sideLog = [] →
    s.readRecord u (s.active g f u) g.pc va = .ok (bs, s') →
    (cardOk bs false = true →
      (barrier.testBit 63 = true → s.barrierTrap u (s.active g f u) (s.site g.team) (barrier % 2 ^ 32) = none) →
      ∃ t k j, exec (.jobsub f) s = .next t ∧ Completed s t g.next ∧ KeepsBytes s t (fun _ => False) ∧
        (∀ v, (s.weave v).keepsRegisters (t.weave v) []) ∧
        Map.find s.jobs k = none ∧ Map.find t.jobs k = some j ∧ j.card = bs ∧ j.cardAddr = va ∧ j.team = some g.team ∧ j.weave = u ∧
        j.token = scalarNamed f.d ∧ j.pc = some g.pc ∧ j.done = 0 ∧ j.ended = false ∧ j.finished = false ∧ j.sub = none) ∧
    (cardOk bs false = false → s.mayTrap u = true →
      ∃ t, exec (.jobsub f) s = .next t ∧ TrapTaken s t u 0x04 g.pc (s.active g f u) (g.lanes u) ∧
        (t.weave u).trapAddr = BitVec.ofNat 64 va)

/-- COPY_LAND_ELEMENT, COPY_WALK_RETRY and COPY_COMPLETE (R208, R211 to R217, R291, R297, R330, R372), with no store waiting in the
side log of the copy's core and room for reports (R326). What the next element is: of a dense box the bytes at src(i); of a ragged
one those of the row that the row offsets name, or PAD outside it; of a staging copy those of its next range. A copy that may land and whose next
element can be read lands it at every target and advances its watermark registers; a missing page freezes it; a fault or
poison ends it as failed; a walk that succeeds ends the freezing; a copy that has landed everything completes. -/
def Obligations.CopyEvents : Prop :=
  ∀ (s s' : State) (k : Nat) (c : Copy) (bs : List Byte),
    let off := c.nextUnit.1
    let n := c.nextUnit.2
    let marked := fun (t : State) (w : Watermark) =>
      ∀ x ∈ c.targets, (Map.find s.teams x).isSome → t.watermark x c.wm = w
    let w0 : Watermark := { slot := BitVec.ofNat 6 c.slot, landed := BitVec.ofNat 32 c.landed }
    let ended := fun (t : State) (failed : Bool) (status : Nat) =>
      Map.find t.copies k = (if failed then some { c with active := false, frozen := false, failed := true } else none) ∧
        marked t { w0 with failed := failed } ∧
        (c.ranges = [] → ∀ r, c.token = some r → (Map.find s.weaves c.weave).isSome → s.isSaved (teamOfWeave c.weave) = false →
          ((t.weave c.weave).sread r).toNat = (status + c.landed * 2 ^ 8 + c.skipped.toNat * 2 ^ 40) % 2 ^ 64)
    let y := Layout.ofBytes c.record
    let x := fun (d : Nat) => (c.coords.getD d 0).toInt
    let i := fun (d : Nat) => ((c.landed / 2 ^ y.esize / ((y.box.take d).foldl (· * ·) 1) % y.box.getD d 1 : Nat) : Int)
    let at_ := fun (z : Int) => (z % 2 ^ 56).toNat
    let size : Int := 2 ^ y.esize
    Map.find s.copies k = some c → (s.core c.core).sideLog = [] →
    (s.copySource c = (.bytes bs, s') →
      (c.ranges = [] → y.ragged = false →
        bs.length = 2 ^ y.esize ∧
          s.engineReads c.walker (at_ (y.base + size * ((List.range y.ndim).map fun d => (x d + i d) * y.stride.getD d 0).sum)) bs) ∧
      (c.ranges = [] → y.ragged = true →
        let row := y.rowOff + 8 * (x 1 + i 1)
        let column := x 0 + i 0
        ∃ first last : List Byte, first.length = 8 ∧ last.length = 8 ∧ s.engineReads c.walker (at_ row) first ∧
          s.engineReads c.walker (at_ (row + 8)) last ∧ bs.length = 2 ^ y.esize ∧
            if 0 ≤ column ∧ column < (natOfBytes last : Int) - natOfBytes first then
              s.engineReads c.walker (at_ (y.base + size * (natOfBytes first + column * y.stride.getD 0 0))) bs
            else bs = bytesOfNat (2 ^ y.esize) y.pad) ∧
      ∀ va o m, c.ranges ≠ [] → stagingUnit c.landed c.ranges = some (va, o, m) → bs.length = m ∧ s.engineReads c.walker va bs) ∧
    (s.landable k c = true → s.copySource c = (.bytes bs, s') → s'.reportsFit = true → s'.landsOnPoison c off n = false → c.barrier = none →
      ∃ t, exec (.copyLandElement k) s = .next t ∧ Map.find t.copies k = some { c with landed := c.landed + n } ∧
        marked t { w0 with landed := BitVec.ofNat 32 (c.landed + n), active := true, failed := c.failed } ∧
        (s.memoryInv → bs.length = n → off + n ≤ 2 ^ 36 → ∀ a ∈ s.landingCells c off, Memory.readBytes t.mem a n = bs) ∧
        KeepsBytes s t (fun a => ∃ b ∈ s.landingCells c off, b ≤ a ∧ a < b + bs.length)) ∧
    (s.landable k c = true → s.copySource c = (.bytes bs, s') → s'.reportsFit = true → s'.landsOnPoison c off n = false → bs.length = n →
      ∀ b x, c.barrier = some b → c.targets = [x] → s.memoryInv →
        (∀ a ∈ s.landingCells c off, a + n ≤ onChip .scratch x + b ∨ onChip .scratch x + b + 16 ≤ a) →
        (∀ i < 16, ∀ y, ¬s.wroteByte (fun _ => False) (onChip .scratch x + b + i) y) →
        ∃ t, exec (.copyLandElement k) s = .next t ∧
          t.barrier (onChip .scratch x + b) =
            (s.barrier (onChip .scratch x + b)).countDown false (unitsBetween c.landed (c.landed + n) c.nbytes)) ∧
    (s.landable k c = true → ∀ vas, s.copySource c = (.missing vas, s') → s'.reportsFit = true →
      ∃ t, exec (.copyLandElement k) s = .next t ∧
        Map.find t.copies k = some { c with frozen := true, pages := vas.map fun va => va % 2 ^ 56 / 65536 * 65536, tried := s.clock } ∧
        marked t { w0 with frozen := true, active := true, failed := c.failed }) ∧
    (s.landable k c = true → (∃ a, s.copySource c = (.refused a, s')) → s'.reportsFit = true →
      ∃ t, exec (.copyLandElement k) s = .next t ∧ ended t true 0x10) ∧
    (s.landable k c = true → (∃ a, s.copySource c = (.poison a, s')) → s'.reportsFit = true →
      ∃ t, exec (.copyLandElement k) s = .next t ∧ ended t true 0x11) ∧
    (c.active = true → c.frozen = true → c.saved = false →
      (∀ vas, s.copySource c ≠ (.missing vas, s')) → (s.copySource c).2 = s' → s'.reportsFit = true →
      ∃ t, exec (.copyWalkRetry k) s = .next t ∧ Map.find t.copies k = some { c with frozen := false }) ∧
    (c.active = true → c.saved = false → c.landed = c.nbytes →
      ∃ t, exec (.copyComplete k) s = .next t ∧ ended t false (if c.skipped = 0 then 1 else 2) ∧ t.mem = s.mem)

/-- JOB_WRITE and JOB_END (R213, R222, R223). The next element, which COPY and REDUCE_COPY read at SRC + done and FILL takes from its
pattern, if it can be read and its destination can be written, is written home at DST + done, combined with what stood there in REDUCE_COPY; a job with a missing page ends as
failed, once its report finds room; one that has written everything ends: its counter is decremented and its token written, or
kept for when its team, which stands saved, stands again (R377). The units of 4 or 8 bytes, and where a token is kept, are the
model's choices (log entries 59 and 99). -/
def Obligations.JobEvents : Prop :=
  ∀ (s s₁ s₂ : State) (k : Nat) (j : Job) (bs : List Byte) (ps : List (Translation × Nat)),
    let pa := fun (x : Translation × Nat) => x.1.pa x.2
    let combine := fun (d b : Nat) =>
      match j.op with
      | 0 => (d + b) % 2 ^ 32
      | 1 => (d + b) % 2 ^ 64
      | 2 => f32Fmt.round 0 false (sumExact 0 [f32Fmt.value d, f32Fmt.value b])
      | 3 => pickCode f32Fmt true d b
      | _ => f64Fmt.round 0 false (sumExact 0 [f64Fmt.value d, f64Fmt.value b])
    Map.find s.jobs k = some j → (s.core (s.jobWalker j).core).sideLog = [] → s.reportsFit = true →
    (s.jobSource j = (.bytes bs, s₁) →
      bs.length = (if j.op = 1 ∨ j.op = 4 then 8 else 4) ∧
        (j.kind = 2 → ∀ i < bs.length, bs.getD i 0 = BitVec.ofNat 8 (j.fill / 2 ^ (8 * ((j.done + i) % 8)))) ∧
        (j.kind ≠ 2 → s.engineReads (s.jobWalker j) ((j.src + j.done) % 2 ^ 56) bs)) ∧
    (s₁.destinations (s₁.jobWalker j) (if j.kind = 3 then .update else .write) j.dst (j.dst + j.length) (j.dst + j.done) j.unit =
        (.places ps, s₂) →
      ps.length = j.unit ∧ ∀ i x, ps[i]? = some x → x.2 = (j.dst + j.done + i) % 2 ^ 56 ∧
        (j.team.isSome → ∀ tr, (s₁.core (s₁.jobWalker j).core).tlb.find? (fun t => t.covers j.fn x.2) = some tr → x.1 = tr)) ∧
    (j.writes = true → s.counterBad j = false → j.kind ≠ 4 → s.jobSource j = (.bytes bs, s₁) → s₂.reportsFit = true →
      s₁.destinations (s₁.jobWalker j) (if j.kind = 3 then .update else .write) j.dst (j.dst + j.length) (j.dst + j.done) j.unit =
        (.places ps, s₂) →
      (∀ x ∈ ps, x.1.stored (pa x) = true) → (ps.map pa).Nodup → s.memoryInv → j.barrier.testBit 63 = false →
      ∃ t, ∃ out old : List Byte, exec (.jobWrite k) s = .next t ∧
        Map.find t.jobs k = some { j with done := j.done + j.unit, passed := false } ∧
        (j.kind ≠ 3 → out = bs) ∧ (j.kind = 3 → out = bytesOfNat j.unit (combine (natOfBytes old) (natOfBytes bs))) ∧
        (∀ i x, ps[i]? = some x →
          (Memory.read t.mem (pa x) = out.getD i 0 ∨ s.wroteByte (fun _ => False) (pa x) (Memory.read t.mem (pa x))) ∧
            (old.getD i 0 = Memory.read s.mem (pa x) ∨ s.wroteByte (fun _ => False) (pa x) (old.getD i 0))) ∧
        KeepsBytes s t fun a => ∃ x ∈ ps, a = pa x) ∧
    (j.writes = true → s.counterBad j = false → j.kind ≠ 4 → (∃ vas, s.jobSource j = (.missing vas, s₁)) →
      s₁.hasRoom (s.jobWalker j).core = true →
      ∃ t, exec (.jobWrite k) s = .next t ∧ Map.find t.jobs k = some { j with status := 0x10, finished := true } ∧
        KeepsBytes s t fun _ => False) ∧
    (j.writes = false → j.ended = false →
      let status := if j.status = 0 then 1 else j.status.toNat
      let counted := j.counter.testBit 63 && decide (j.counter % 65536 < (s.fn j.fn).counters)
      ∃ t, exec (.jobEnd k) s = .next t ∧ t.mem = s.mem ∧
        Map.find t.jobs k = (if j.sub.isSome then some { j with ended := true, status := BitVec.ofNat 8 status } else none) ∧
        t.counter (j.fn * 65536 + j.counter % 65536) =
          (let v := s.counter (j.fn * 65536 + j.counter % 65536); if counted then max (-2 ^ 31) (v - 1) else v) ∧
        ∀ r, j.team.isSome → j.token = some r → (Map.find s.weaves j.weave).isSome →
          let x := BitVec.ofNat 64 (status + j.done * 2 ^ 8)
          if s.isSaved (teamOfWeave j.weave) then (t.weave j.weave).late = (s.weave j.weave).late ++ [(r, x)]
          else (t.weave j.weave).sread r = x)

/-- BINIT, BARR, BARRX, BWAIT and BTEST (R225 to R230, R299) in one weave whose object is in place. BINIT starts a phase; BARR
and BARRX count down and D takes GEN as it was, or 0xF where the object broke; BWAIT gives GEN once it differs from B, or is 0xF (R302), BTEST at
once. A parked BWAIT does not repeat its checks, and gives 0xF where its object has ended with its team (R272, R283). BINIT with a count
of 0 or of 2^20 and above traps. No byte but those of the object and no register but D changes. That a BARRX with a count of 0 still
adds its units is the model's reading (log entry 75). -/
def Obligations.BarrierInstructions : Prop :=
  ∀ (f : Fields) (s : State) (g : Group) (u cell : Nat),
    let w := s.weave u
    let act := s.active g f u
    let old := s.barrier cell
    let first := (lanesOf act).headD 0
    let count := if f.b = .zero then 1 else (w.opnd f f.b 0).toNat
    let phase := fun (b : Barrier) =>
      if b.pending = 0 ∧ b.inbound = 0 ∧ b.outbound = 0 then { b with gen := (b.gen + 1) % 15, pending := b.expected } else b
    let arrived := fun (b : Barrier) (n : Nat) (new : Barrier) =>
      if b.gen = 15 ∨ n = 0 then new = b
      else if b.pending < n then new.gen = 15 else new = phase { b with pending := b.pending - n }
    let genOf := fun (b new : Barrier) => if new.gen = 15 then 15 else b.gen
    let ends := fun (i : Instr) (result : State → Prop) =>
      s.issues i g = true → s.represented g f = [u] → barrierCell f s g u act = .ok (cell, s) → s.memoryInv →
      (∀ k < 16, ∀ b, ¬s.wroteByte (fun _ => False) (cell + k) b) →
        ∃ t, exec i s = .next t ∧ Completed s t g.next ∧ KeepsBytes s t (fun a => cell ≤ a ∧ a < cell + 16) ∧
          (∀ v, (s.weave v).keepsRegisters (t.weave v) (if v = u then [f.d] else [])) ∧ result t
    let gives := fun (t : State) (rule : Nat → Word64 → Prop) => w.gives (t.weave u) act f.d rule
    (0 < (w.opnd f f.b 0).toNat → (w.opnd f f.b 0).toNat < 2 ^ 20 → ends (.binit f) fun t =>
      t.barrier cell =
        { gen := 0, pending := (w.opnd f f.b 0).toNat, expected := (w.opnd f f.b 0).toNat, inbound := 0, outbound := 0, flags := 1 }) ∧
    ((w.opnd f f.b 0).toNat = 0 ∨ 2 ^ 20 ≤ (w.opnd f f.b 0).toNat → s.issues (.binit f) g = true → s.represented g f = [u] →
      barrierCell f s g u act = .ok (cell, s) → s.mayTrap u = true →
      ∃ t, exec (.binit f) s = .next t ∧ TrapTaken s t u 0x04 g.pc act (g.lanes u) ∧ TrapFrame s t u ∧
        (t.weave u).trapAddr = BitVec.ofNat 64 (accessAddr f w f.t.toNat 0)) ∧
    (s.gateOne u act = none → f.x = false → ends (.barr f) fun t =>
      arrived old count (t.barrier cell) ∧ gives t fun _ y => y.toNat = genOf old (t.barrier cell)) ∧
    (s.gateOne u act = none → f.x = true → ends (.barr f) fun t =>
      ∃ b : Nat → Barrier, b 0 = old ∧ (∀ i < (lanesOf act).length, arrived (b i) 1 (b (i + 1))) ∧
        t.barrier cell = b (lanesOf act).length ∧
        gives t fun l y =>
          let i := (lanesOf act).idxOf (if f.d.isS then first else l)
          act.getLsbD (if f.d.isS then first else l) = true → y.toNat = genOf (b i) (b (i + 1))) ∧
    (s.gateOne u act = none → ends (.barrx f) fun t =>
      let units : Nat := ((w.opnd f f.c 0).toNat % 2 ^ 32 + 127) / 128
      let new := t.barrier cell
      let sum : Int := if f.rm = 1 then old.outbound + units else old.inbound + units
      gives t (fun _ y => y.toNat = genOf old new) ∧
        if old.gen = 15 ∨ (units = 0 ∧ count = 0) then new = old
        else if old.pending < count ∨ 2 ^ 31 ≤ sum then new.gen = 15
        else
          new = phase
            { old with
              pending := old.pending - count, inbound := if f.rm = 1 then old.inbound else sum
              outbound := if f.rm = 1 then sum else old.outbound }) ∧
    (Map.find w.bwaits (waitKey g.pc act) = none → old.gen ≠ (w.opnd f f.b 0).toNat % 16 ∨ old.gen = 15 → ends (.bwait f) fun t =>
      t.barrier cell = old ∧ gives t fun _ y => y.toNat = old.gen) ∧
    (ends (.btest f) fun t =>
      t.barrier cell = old ∧ gives t fun _ y =>
        y.toNat = old.gen + old.pending * 2 ^ 4 + (if old.gen = (w.opnd f f.b 0).toNat % 16 then 0 else 2 ^ 24)) ∧
    (s.issues (.bwait f) g = true → g.weaves = [u] → s.represented g f = [u] → barrierCell f s g u act = .ok (cell, s) →
      Map.find w.bwaits (waitKey g.pc act) = none → old.gen = (w.opnd f f.b 0).toNat % 16 → old.gen ≠ 15 →
      ∃ t, exec (.bwait f) s = .next t ∧ Completed s t [g.withdrawn] ∧
        KeepsMemory s t ∧ (∀ v, (s.weave v).keepsRegisters (t.weave v) []) ∧
        Map.find (t.weave u).bwaits (waitKey g.pc act) = some (cell, false)) ∧
    ∀ gone, s.issues (.bwait f) g = true → s.represented g f = [u] → Map.find w.bwaits (waitKey g.pc act) = some (cell, gone) →
      (gone = false → s.poisoned cell 16 = false ∧ (old.gen ≠ (w.opnd f f.b 0).toNat % 16 ∨ old.gen = 15)) →
      ∃ t, exec (.bwait f) s = .next t ∧ Completed s t g.next ∧ KeepsBytes s t (fun _ => False) ∧
        gives t fun _ y => y.toNat = if gone then 15 else old.gen

/-- CJOIN, CLEAVE and CGEN (R35, R231): a team joins or leaves the sharing group of its window, whose generation then advances;
D takes the window's index, generation and members; CLEAVE where no thread waits on a place that the team reaches through its
mappings or lends to others (R283); CGEN with an old generation to wait for waits while it is still that. That CLEAVE
does not wait for copies, and does wait for parked waits, are the model's readings (log entries 57 and 98). -/
def Obligations.SharingGroupInstructions : Prop :=
  ∀ (f : Fields) (s : State) (g : Group) (u : Nat),
    let m := s.team g.team
    let k := m.index / 32
    let value := fun (t : State) =>
      let win := Map.at (t.gang m.gang).windows {} k
      (k * 2 ^ 56 + win.gen.toNat * 2 ^ 32 + (if (t.team g.team).joined then win.members.toNat else 0)) % 2 ^ 64
    let changes := fun (i : Instr) (joins : Bool) =>
      s.issues i g = true → s.represented g f = [u] → (Map.find s.teams g.team).isSome → (Map.find s.gangs m.gang).isSome →
      (joins = false → m.joined = true → s.mappedWait g.team = false) →
        ∃ t, exec i s = .next t ∧ Completed s t g.next ∧ KeepsMemory s t ∧ KeepsRegisters s t g [f.d] ∧
          Gives s t g f f.d (fun _ _ y => y.toNat = value t) ∧ t.team g.team = { m with joined := joins } ∧
          (∀ x, x ≠ g.team → t.team x = s.team x) ∧
          let win := Map.at (s.gang m.gang).windows {} k
          let bit := BitVec.twoPow 32 (m.index % 32)
          Map.at (t.gang m.gang).windows {} k =
            if m.joined = joins then win
            else { gen := win.gen + 1, members := if joins then win.members ||| bit else win.members &&& ~~~bit }
    let waits := fun x => f.x = true ∧ (Map.at (s.gang m.gang).windows {} k).gen.toNat = ((s.weave x).opnd f f.a 0).toNat % 2 ^ 16
    changes (.cjoin f) true ∧ changes (.cleave f) false ∧
    ((∀ x ∈ s.represented g f, ¬waits x) → s.issues (.cgen f) g = true →
      ∃ t, exec (.cgen f) s = .next t ∧ Completed s t g.next ∧ WaitFrame s t g [f.d] ∧
        Gives s t g f f.d fun _ _ y => y.toNat = value s) ∧
    (s.issues (.cgen f) g = true → g.weaves = s.represented g f → (∀ x ∈ g.weaves, waits x) →
      ∃ t, exec (.cgen f) s = .next t ∧ Completed s t [g.withdrawn] ∧ WaitFrame s t g [])

/-- QSEND, QRECV and QPEEK (R232 to R234): a queue holds at most four entries; a send adds the values of the active lanes, a
receive takes the oldest entry to the active lanes of D, a peek tells whether there is an entry or room. The wrong side of a
queue, or a partner that has exited, traps; a full or an empty queue otherwise waits. The queue stands in no claimed bank. -/
def Obligations.QueueInstructions : Prop :=
  ∀ (f : Fields) (s : State) (g : Group) (u : Nat) (n : BitVec 3) (entry : Lanes) (rest : List Lanes),
    let w := s.weave u
    let key := w.weaveId * 8 + n.toNat
    let q := s.fifo g.team key
    let sends := if w.shadow then n.toNat < 4 else 4 ≤ n.toNat
    let ends := fun (i : Instr) (dests : List Operand) (result : State → Prop) =>
      s.issues i g = true → s.represented g f = [u] → (Map.find s.teams g.team).isSome →
        ∃ t, exec i s = .next t ∧ Completed s t g.next ∧ KeepsMemory s t ∧ KeepsRegisters s t g dests ∧
          (∀ k, k ≠ key → t.fifo g.team k = s.fifo g.team k) ∧ result t
    let waits := fun (i : Instr) =>
      s.issues i g = true → s.represented g f = [u] → g.weaves = [u] →
        ∃ t, exec i s = .next t ∧ Completed s t [g.withdrawn] ∧ KeepsMemory s t ∧ KeepsRegisters s t g [] ∧ t.teams = s.teams
    let traps := fun (i : Instr) =>
      s.issues i g = true → s.represented g f = [u] → s.mayTrap u = true →
        ∃ t, exec i s = .next t ∧ TrapTaken s t u 0x10 g.pc (s.active g f u) (g.lanes u) ∧ TrapFrame s t u
    s.claimHolds g.team (.fifo key) = false →
    (f.d = .q n → sends → q.length < 4 → s.gateOne u (s.active g f u) = none → ends (.qsend f) [] fun t =>
      t.fifo g.team key =
        q ++ [(List.range 32).map fun l => if (s.active g f u).getLsbD l then w.opnd f f.a l else 0]) ∧
    (f.d = .q n → sends → 4 ≤ q.length → (s.weave (partnerOf u)).live ≠ 0 → waits (.qsend f)) ∧
    (f.d = .q n → ¬sends ∨ 4 ≤ q.length ∧ (s.weave (partnerOf u)).live = 0 → traps (.qsend f)) ∧
    (f.a = .q n → ¬sends → q = entry :: rest → ends (.qrecv f) [f.d] fun t =>
      t.fifo g.team key = rest ∧ Gives s t g f f.d fun _ l y => y = entry.getD l 0) ∧
    (f.a = .q n → ¬sends → q = [] → (s.weave (partnerOf u)).live ≠ 0 → waits (.qrecv f)) ∧
    (f.a = .q n → sends ∨ q = [] ∧ (s.weave (partnerOf u)).live = 0 → traps (.qrecv f)) ∧
    (f.a = .q n → ends (.qpeek f) [f.d] fun t =>
      t.teams = s.teams ∧
        Gives s t g f f.d fun _ _ y => y = if f.t = 0 then (if q = [] then 0 else 1) else if q.length < 4 then 1 else 0)

/-- SPAWN, STEAL and SYNCT (R235 to R238). SPAWN leaves in each active lane's slice a valid marker of the target slot and the
lane's frame value. STEAL of one lane takes the valid marker of lowest index of the first thread that has one, marks it stolen,
and writes the record. SYNCT of one lane empties its marker, or waits while a stolen one's count is not zero. That the
checks go lane by lane, that STEAL's record and SYNCT's count are not compared with landing copies, and that a parked SYNCT keeps its check are
the model's readings (log entries 28, 98 and 103). -/
def Obligations.TaskInstructions : Prop :=
  ∀ (f : Fields) (s : State) (g : Group) (u l : Nat),
    let e := s.site g.team
    let size := e.kernel.sliceBytes
    let w := s.weave u
    let j := (w.opnd f f.a l).toNat
    let own := markerCell size u l j
    let mark := Memory.readNat s.mem own 8
    let count := mark % 2 ^ 40 + 0x18
    let held := fun x => match s.contribution e x with
      | some t => some (onChip .cluster t + x % max 1 e.kernel.cluster)
      | none => none
    let place := match s.synctWait g u l with
      | some a => some a
      | none => held count
    let reachable := s.synctWait g u l = none → count % 8 = 0 ∧ count + 8 ≤ 32 * e.kernel.cluster ∧
      ∃ a, held count = some a ∧ s.poisoned a 8 = false ∧ s.cellsClaimed a 8 = false
    let fits := fun (v lane : Nat) =>
      let k := ((s.weave v).opnd f f.a lane).toNat
      k < 64 ∧ 16 * (k + 1) ≤ size ∧ s.poisoned (markerCell size v lane k) 16 = false ∧
        s.cellsClaimed (markerCell size v lane k) 16 = false
    let kept := fun (t : State) (dests : List Operand) =>
      ∀ v, (s.weave v).keepsRegisters (t.weave v) (if v ∈ g.weaves then dests else [])
    (s.issues (.spawn f) g = true → (∀ x ∈ s.activeLanes g f, fits x.1 x.2) → s.memoryInv →
      ∃ t, exec (.spawn f) s = .next t ∧ Completed s t g.next ∧ kept t [] ∧
        (∀ a, (∀ x ∈ s.activeLanes g f,
            let low := markerCell size x.1 x.2 ((s.weave x.1).opnd f f.a x.2).toNat
            ¬(low ≤ a ∧ a < low + 16)) → Memory.read t.mem a = Memory.read s.mem a) ∧
        ∀ x ∈ s.activeLanes g f,
          let k := ((s.weave x.1).opnd f f.a x.2).toNat
          Memory.readNat t.mem (markerCell size x.1 x.2 k) 8 = 2 ^ 63 + (g.pc + f.imm.signExtend 40).toNat ∧
            Memory.readNat t.mem (markerCell size x.1 x.2 k + 8) 8 = ((s.weave x.1).opnd f f.b x.2).toNat) ∧
    (s.issues (.synct f) g = true → s.activeLanes g f = [(u, l)] → fits u l → s.memoryInv →
      (mark.testBit 62 = true → reachable) → (∀ a, mark.testBit 62 = true → place = some a → Memory.readNat s.mem a 8 = 0) →
      ∃ t, exec (.synct f) s = .next t ∧ Completed s t g.next ∧ kept t [f.d] ∧
        (mark.testBit 63 = true ∨ mark.testBit 62 = true → Memory.readBytes t.mem own 16 = List.replicate 16 0) ∧
        (∀ a, ¬(own ≤ a ∧ a < own + 16) → Memory.read t.mem a = Memory.read s.mem a) ∧
        ∀ n, f.d = .p n → n ≠ 7 → (t.weave u).pread n.toNat l = mark.testBit 62) ∧
    (s.issues (.synct f) g = true → s.activeLanes g f = [(u, l)] → fits u l → mark.testBit 62 = true → reachable →
      (∃ a, place = some a ∧ Memory.readNat s.mem a 8 ≠ 0) →
      ∃ t, exec (.synct f) s = .next t ∧ t.issuing = none ∧ t.clock = s.clock ∧ t.mem = s.mem ∧ kept t [] ∧
        t.standsAt u l g.pc) ∧
    (s.issues (.steal f) g = true → s.activeLanes g f = [(u, l)] → j % 64 = 0 → j + 64 ≤ 32 * e.kernel.cluster →
      s.memoryInv → ∀ a, held j = some a → s.poisoned a 64 = false → s.cellsClaimed a 64 = false →
      let found := (s.victims e u l).findSome? fun x => (s.validMarker size x).map fun k => (x, k)
      ∃ t, exec (.steal f) s = .next t ∧ Completed s t g.next ∧ kept t [f.d, f.c] ∧
        (∀ n, f.c = .p n → n ≠ 7 → (t.weave u).pread n.toNat l = found.isSome) ∧
        (found = none → t.mem = s.mem ∧ kept t [f.c]) ∧
        ∀ v lane k, found = some ((v, lane), k) →
          let at_ := markerCell size v lane k
          (a + 64 ≤ at_ ∨ at_ + 16 ≤ a) →
          Memory.readNat t.mem at_ 8 = 2 ^ 62 + j % 2 ^ 40 ∧ Memory.readNat t.mem a 8 = Memory.readNat s.mem at_ 5 ∧
            Memory.readNat t.mem (a + 8) 8 = Memory.readNat s.mem (at_ + 8) 8 ∧
            Memory.readNat t.mem (a + 0x10) 8 =
              ((s.team (teamOfWeave v)).teamId * 2 ^ 32 + (s.weave v).weaveId * 32 + lane) % 2 ^ 64 ∧
            Memory.readNat t.mem (a + 0x18) 8 = 1 ∧ Memory.readNat t.mem (at_ + 8) 8 = Memory.readNat s.mem (at_ + 8) 8 ∧
            ∀ n, f.d = .v n → (t.weave u).vread n.toNat l = BitVec.ofNat 64 j)

/-- The matrix operations MMA, MMAS, MMAM and MMAQ (R239 to R250, R257, R64). Where the last members of a set sign, the checks of
R244 pass, and the unit is free, the operation completes: `exec` answers the state in which each element of the tile is the
sum, in the class of its formats, of what came in and of the products of its rows of A and B; SIGNED is cleared and GEN has
advanced; no other tile, no register and no byte of memory has changed. The members wait for the clocks that the unit is
taken; MATRIX_COMPLETE then sends them on to the next slot. Where no thread of the set is active, they go on at once, and
nothing else happens. Where the members stand meanwhile, and when the result is seen, is as log entry 29 reads R247. -/
def Obligations.MatrixResults : Prop :=
  ∀ (f : Fields) (s : State) (g : Group) (i : Instr) (q : MatAsk),
    let whole := s.wholeSet f g
    let u := whole.weaves.headD 0
    let w := s.weave u
    let e := s.site g.team
    let tile := tileOf f.d
    let n := (convNamed f.c).getD 0
    let handles := (w.sread (handleReg f)).toNat
    (i = .mma f ∧ q = { kind := .plain, a := ⟨f.fa, 0, {}⟩, b := ⟨f.fb, 0, {}⟩ } ∨
      i = .mmas f ∧ q = { kind := .sparse (sparseCount f), a := ⟨f.fa, 0, {}⟩, b := ⟨f.fb, 0, {}⟩ } ∨
      i = .mmam f ∧ q = { kind := .fromMemory, a := ⟨f.fa, 0, {}⟩, b := ⟨f.fb, 0, {}⟩ } ∨
      i = .mmaq f ∧ ∃ ha hb ra rb, ha < 16 ∧ hb < 16 ∧ handles = ha + hb * 256 ∧
        Map.find (s.team g.team).reservations ha = some ra ∧ Map.find (s.team g.team).reservations hb = some rb ∧
        ra.fmt ≤ 27 ∧ rb.fmt ≤ 27 ∧ q = { kind := .reserved, a := ⟨ra.fmt, ha, ra⟩, b := ⟨rb.fmt, hb, rb⟩, kpos := kposOf f }) →
    s.completesSet i f g = true → s.matrixReady whole f w q →
    (s.anyActive whole f = false → ConvergentEffect i f s g [] fun _ _ => True) ∧
    (s.anyActive whole f = true →
      (q.kind = .fromMemory → s.holds g.team 2 (w.opnd f f.b 0).toNat q.memoryBytes = false) →
      s.matrixBusy e.core = false → s.matrixClaimed whole f w u q = false → s.matrixPoison whole f w q = none →
      let rm := f.rm.toNat
      let F := if q.cls = .double then f64Fmt else f32Fmt
      let lane := fun (v l : Nat) => if (whole.lanes u).getLsbD l then w.vread v l else 0
      let code := fun (base width rowBits r k : Nat) =>
        let b := rowBits * r + width * k
        elem (lane (base + b / 2048) (b % 2048 / 64)) width (b % 64 / width)
      let value := fun (x : MatSide) (r k c : Nat) =>
        if x.fmt < 16 then valueOf x.fmt c
        else
          let p := s.groupScale g.team x r ((q.kpos + k) / groupLength x.fmt)
          (if x.fmt < 22 then ofInt (intValue (elementCode x.fmt) c - p.2) else valueOf (elementCode x.fmt) c).mul p.1
      let wa := storageWidth q.a.fmt
      let wb := storageWidth q.b.fmt
      let runOf := fun (o : Operand) => (vectorNamed o).getD 0
      let A := fun (r k : Nat) =>
        match q.kind with
        | .sparse m =>
          match (List.range m).find? fun j => code (metaReg f) 4 (32 * m) r (m * (k / 12) + j) = k % 12 with
          | some j => value q.a r k (code (runOf f.a) wa (64 * m) r (m * (k / 12) + j))
          | none => value q.a r k 0
        | _ => value q.a r k (code (runOf f.a) wa (q.depth * wa) r k)
      let B := fun (c k : Nat) =>
        match q.kind with
        | .fromMemory =>
          let b := q.depth * wb * c + wb * k
          value q.b c k
            (Memory.readNat s.mem (onChip .scratch g.team + (w.opnd f f.b 0).toNat + b / 8) ((wb + 7) / 8) / 2 ^ (b % 8) % 2 ^ wb)
        | _ => value q.b c k (code (runOf f.b) wb (q.depth * wb) c k)
      let products := fun (r c : Nat) => (List.range q.depth).map fun k => (A r k).mul (B c k)
      let scale := fun (r : Nat) => f32Fmt.value (elem (lane f.sv (r / 2)) 32 (r % 2))
      let came := fun (r c : Nat) =>
        let x := ((s.team g.team).codes q.cls tile r).getD c 0
        if f.x then 0 else if f.t = 1 then F.round rm f.sat ((F.value x).mul (scale r)) else x
      let sum := fun (r c : Nat) =>
        match q.cls with
        | .integer => fit 32 false f.sat (signed 32 (came r c) + ((products r c).map (roundInt 0)).sum)
        | .exact => F.round rm f.sat (sumExact rm (F.value (came r c) :: products r c))
        | .blocks =>
          (sixteens (products r c)).foldl
            (fun y block => F.round rm f.sat (sumExact rm [F.value y, F.value (F.round rm f.sat (sumExact rm block))])) (came r c)
        | _ => (products r c).foldl (fun y p => F.round rm f.sat (sumExact rm [F.value y, p])) (came r c)
      ∃ t k op, exec i s = .next t ∧ Completed s t [] ∧ KeepsMemory s t ∧ KeepsRegisters s t whole [] ∧
        (∀ r < 64, ∀ c < 64, ((t.team g.team).codes q.cls tile r).getD c 0 =
          sum r c % 2 ^ (if q.cls = .double then 64 else 32)) ∧
        (∀ x, x ≠ tile → (q.cls = .double → x ≠ tile + 1) → ∀ r < 64, (t.team g.team).row x r = (s.team g.team).row x r) ∧
        (∀ x, x ≠ g.team → t.team x = s.team x) ∧
        (t.conv g.team n).signed = 0 ∧ (t.conv g.team n).gen = (s.conv g.team n).gen + 1 ∧
        Map.find s.mats k = none ∧ Map.find t.mats k = some op ∧ op.team = g.team ∧ op.tile = tile ∧ op.weave = u ∧
        op.pc = g.pc ∧ op.members = whole.lanes u ∧ op.ends = s.clock + q.clocks ∧
        ∀ r, Map.find r.mats k = some op → op.ends ≤ r.clock →
          ∃ r', exec (.matrixComplete k) r = .next r' ∧ Map.find r'.mats k = none ∧
            ∀ l, (op.members &&& (r.weave u).live).getLsbD l = true → r'.standsAt u l (g.pc + 1))

/-- MATRIX_COMPLETE (R247; log entry 29): an operation whose clocks have passed frees the unit, and its members go on at the next
slot; nothing else changes. -/
def Obligations.MatrixCompletes : Prop :=
  ∀ (s : State) (k : Nat) (m : MatrixOp), Map.find s.mats k = some m → m.ends ≤ s.clock →
    ∃ t, exec (.matrixComplete k) s = .next t ∧ Map.find t.mats k = none ∧ t = { s with mats := t.mats, groups := t.groups } ∧
      (∀ j, j ≠ k → Map.find t.mats j = Map.find s.mats j) ∧
      (∀ h ∈ s.groups, h ∈ t.groups) ∧
      ∀ l, (m.members &&& (s.weave m.weave).live).getLsbD l = true → t.standsAt m.weave l (m.pc + 1)

/-- ACCZ, ACCSC, ACCX, ACCRD, ACCWR, ACCST and ACCLD (R241, R252) in one weave, on sound tiles: what each element of a tile, each
register and each byte of scratchpad becomes; other tiles and other bytes keep their values. That ACCSC and
ACCX scale only rows and columns of active lanes, and that ACCRD takes D = ZERO, are the model's readings (log entries 29 and 80). -/
def Obligations.AccumulatorInstructions : Prop :=
  ∀ (f : Fields) (s : State) (g : Group) (u : Nat),
    let w := s.weave u
    let act := s.active g f u
    let m := s.team g.team
    let d := tileOf f.d
    let at_ := fun (x : State) (tile r p : Nat) => ((x.team g.team).row tile r).getD p 0
    let perRow := fun (r : Nat) => elem (w.opnd f f.a (r / 2)) 32 (r % 2)
    let half := fun (x : Word64) (p : Nat) => elem x 32 (p % 2)
    let ends := fun (i : Instr) (dests : List Operand) (stored : Nat → Prop) (result : State → Prop) =>
      s.issues i g = true → s.represented g f = [u] → (Map.find s.teams g.team).isSome →
        ∃ t, exec i s = .next t ∧ Completed s t g.next ∧ KeepsBytes s t stored ∧
          (∀ v, (s.weave v).keepsRegisters (t.weave v) (if v = u then dests else [])) ∧ result t
    let tileFrame := fun (t : State) (tile : Nat) =>
      (∀ x, x ≠ tile → ∀ r < 64, (t.team g.team).row x r = m.row x r) ∧ ∀ x, x ≠ g.team → t.team x = s.team x
    let both := fun (r p : Nat) => act.getLsbD (r / 2) && act.getLsbD (p / 2)
    let nothing := fun (_ : Nat) => False
    let offA := (w.opnd f f.a 0).toNat
    let offB := (w.opnd f f.b 0).toNat
    let cell := fun (r l : Nat) => onChip .scratch g.team + offB + 256 * r + 8 * l
    (ends (.accz f) [] nothing fun t => tileFrame t d ∧ ∀ r < 64, ∀ p < 64, at_ t d r p = 0) ∧
    (m.toxic d ((List.range 64).filter fun r => act.getLsbD (r / 2)) = false →
      (ends (.accsc f) [] nothing fun t => tileFrame t d ∧ ∀ r < 64, ∀ p < 64,
        (at_ t d r p).toNat =
          if both r p then
            f32Fmt.round f.rm.toNat f.sat ((f32Fmt.value (at_ s d r p).toNat).mul (f32Fmt.value (perRow r))) % 2 ^ 32
          else (at_ s d r p).toNat) ∧
      ends (.accx f) [] nothing fun t => tileFrame t d ∧ ∀ r < 64, ∀ p < 64,
        (at_ t d r p).toNat =
          if both r p then scaleCode f32Fmt f.rm.toNat f.sat (at_ s d r p).toNat (signed 32 (perRow r)) % 2 ^ 32
          else (at_ s d r p).toNat) ∧
    (∀ base : BitVec 7, f.d = .v base → m.toxic (tileOf f.a) (span f.row f.rowsShort) = false →
      ends (.accrd f) ((List.range f.rowsShort).map fun r => .v (BitVec.ofNat 7 (base.toNat + r))) nothing fun t =>
        t.teams = s.teams ∧ ∀ r < f.rowsShort, ∀ l < 32,
          (t.weave u).vread (base.toNat + r) l =
            if act.getLsbD l then at_ s (tileOf f.a) (f.row + r) (2 * l + 1) ++ at_ s (tileOf f.a) (f.row + r) (2 * l)
            else w.vread (base.toNat + r) l) ∧
    (f.d = .zero → m.toxic (tileOf f.a) (span f.row f.rowsShort) = false →
      ends (.accrd f) [] nothing fun t => t.teams = s.teams) ∧
    (∀ base : BitVec 7, f.a = .v base → (act ≠ BitVec.allOnes 32 → m.toxic d (span f.row f.rowsShort) = false) →
      ends (.accwr f) [] nothing fun t => tileFrame t d ∧ ∀ r < 64, ∀ p < 64,
        (at_ t d r p).toNat =
          if f.row ≤ r ∧ r < f.row + f.rowsShort ∧ act.getLsbD (p / 2) = true then
            half (w.vread (base.toNat + (r - f.row)) (p / 2)) p
          else (at_ s d r p).toNat) ∧
    (rowsTrap (s.site g.team).kernel.scratch u f.rowsLong offB = none →
      (∃ places, s.checkAccesses (s.site g.team) 2 8 .write true g.pc (rowAccesses u f.rowsLong offB act) = .pass s places) →
      m.toxic (tileOf f.a) (span f.row f.rowsLong) = false → s.memoryInv →
      ends (.accst f) [] (fun a => ∃ r < f.rowsLong, ∃ l < 32, act.getLsbD l = true ∧ cell r l ≤ a ∧ a < cell r l + 8) fun t =>
        t.teams = s.teams ∧ ∀ r < f.rowsLong, ∀ l < 32, act.getLsbD l = true → ∀ p < 2,
          Memory.readNat t.mem (cell r l + 4 * p) 4 = (at_ s (tileOf f.a) (f.row + r) (2 * l + p)).toNat) ∧
    (rowsTrap (s.site g.team).kernel.scratch u f.rowsLong offA = none →
      (∃ places, s.checkAccesses (s.site g.team) 2 8 .read false g.pc (rowAccesses u f.rowsLong offA act) = .pass s places) →
      (act ≠ BitVec.allOnes 32 → m.toxic d (span f.row f.rowsLong) = false) →
      ends (.accld f) [] nothing fun t => tileFrame t d ∧ ∀ r < 64, ∀ p < 64,
        (at_ t d r p).toNat =
          if f.row ≤ r ∧ r < f.row + f.rowsLong ∧ act.getLsbD (p / 2) = true then
            Memory.readNat s.mem (onChip .scratch g.team + offA + 256 * (r - f.row) + 4 * p) 4
          else (at_ s d r p).toNat)

/-- OBRES, OBREL, OBWR and OBRD (R253 to R256) in one weave, off claimed banks: a reservation of a multiple of 64 bytes that fits takes the lowest
free handle and a free range, which reads as zero; the others keep their bytes, though they may stand elsewhere; one that does not
fit gives all ones, a size out of its rules traps; a release frees the handle; the record and the bytes of a range are written and
read where they are named. Which place a reservation takes is the model's choice (log entry 30). -/
def Obligations.OperandBufferInstructions : Prop :=
  ∀ (f : Fields) (s : State) (g : Group) (u : Nat) (r : Reservation),
    let w := s.weave u
    let act := s.active g f u
    let T := g.team
    let size := (w.opnd f f.a 0).toNat
    let core := (s.team T).core
    let mine := (s.team T).reservations
    let h := (w.opnd f f.a 0).toNat
    let off := f.imm.toNat % 65536
    let cell := fun (l : Nat) => opbufCell T r.base + off + 8 * l
    let resv := fun (x : State) (k : Nat) => Map.find (x.team T).reservations k
    let ends := fun (i : Instr) (dests : List Operand) (stored : Nat → Prop) (result : State → Prop) =>
      s.issues i g = true → s.represented g f = [u] → (Map.find s.teams T).isSome → s.memoryInv →
        ∃ t, exec i s = .next t ∧ Completed s t g.next ∧ KeepsRegisters s t g dests ∧
          (∀ a, ¬stored a → Memory.read t.mem a = Memory.read s.mem a) ∧ result t
    let gives := fun (t : State) (x : Word64) => Gives s t g f f.d fun _ _ y => y = x
    let nothing := fun (_ : Nat) => False
    (size % 64 = 0 → 64 ≤ size → size ≤ 65536 →
      (∀ k at_, (s.team T).freeHandle = some k → s.opbufPlace core T size = some at_ →
        let given := fun (t : State) (base : Nat) =>
          gives t (BitVec.ofNat 64 k) ∧ resv s k = none ∧ (∀ j < k, (resv s j).isSome) ∧ base + size ≤ 65536 ∧ at_ + size ≤ 65536 ∧
            (∀ x ∈ s.opbufTaken core T, at_ + size ≤ x.1 ∨ x.1 + x.2 ≤ at_) ∧
            resv t k = some { base := base, bytes := size, record := w.opnd f f.b 0, place := [(at_, size)] } ∧
            ∀ a, opbufCell T base ≤ a → a < opbufCell T base + size → Memory.read t.mem a = 0
        (∀ base, (s.team T).offsetFor at_ size = some base →
          ends (.obres f) [f.d] (fun a => opbufCell T base ≤ a ∧ a < opbufCell T base + size) fun t =>
            given t base ∧ (∀ j, j ≠ k → resv t j = resv s j) ∧
              ∀ j x, resv s j = some x → base + size ≤ x.base ∨ x.base + x.bytes ≤ base) ∧
        ((s.team T).offsetFor at_ size = none → (mine.map Prod.fst).Nodup → (mine.map fun x => x.2.bytes).sum + size ≤ 65536 →
          (∀ x ∈ mine, x.2.base + x.2.bytes ≤ 65536) →
          ends (.obres f) [f.d] (fun a => opbufCell T 0 ≤ a ∧ a < opbufCell T 0 + 65536) fun t =>
            (∃ base, given t base) ∧ ∀ j x, j ≠ k → resv s j = some x → ∃ b, resv t j = some { x with base := b } ∧
              Memory.readBytes t.mem (opbufCell T b) x.bytes = Memory.readBytes s.mem (opbufCell T x.base) x.bytes)) ∧
      ((s.team T).freeHandle = none ∨ s.opbufPlace core T size = none →
        ends (.obres f) [f.d] nothing fun t => gives t (BitVec.allOnes 64) ∧ t.teams = s.teams)) ∧
    (size % 64 ≠ 0 ∨ size < 64 ∨ 65536 < size → s.mayTrap u = true → s.issues (.obres f) g = true → s.represented g f = [u] →
      ∃ t, exec (.obres f) s = .next t ∧ TrapTaken s t u 0x04 g.pc act (g.lanes u) ∧ TrapFrame s t u) ∧
    (h < 16 → resv s h = some r → s.cellsClaimed (opbufCell T r.base) r.bytes = false →
      ((s.mats.any fun m => m.2.team = T && m.2.reservations.contains h) = false → ends (.obrel f) [] nothing fun t =>
        resv t h = none ∧ ∀ j, j ≠ h → resv t j = resv s j) ∧
      (f.x = true → ends (.obwr f) [] nothing fun t =>
        resv t h = some { r with record := w.opnd f f.b 0 } ∧ ∀ j, j ≠ h → resv t j = resv s j) ∧
      (f.x = true → ends (.obrd f) [f.d] nothing fun t => gives t r.record ∧ t.teams = s.teams) ∧
      (off % 8 = 0 → off + 256 ≤ r.bytes →
        (f.x = false → ends (.obwr f) [] (fun a => ∃ l < 32, act.getLsbD l = true ∧ cell l ≤ a ∧ a < cell l + 8) fun t =>
          t.teams = s.teams ∧ ∀ l < 32, act.getLsbD l = true → Memory.readNat t.mem (cell l) 8 = (w.opnd f f.b l).toNat) ∧
        (f.x = false → (∀ l < 32, act.getLsbD l = true → s.poisoned (cell l) 8 = false) → ends (.obrd f) [f.d] nothing fun t =>
          t.teams = s.teams ∧ Gives s t g f f.d fun _ l y => y.toNat = Memory.readNat s.mem (cell l) 8)) ∧
      (off % 8 ≠ 0 ∨ r.bytes < off + 256 → f.x = false → s.mayTrap u = true →
        ∀ i ∈ [Instr.obwr f, .obrd f], s.issues i g = true → s.represented g f = [u] →
          ∃ t, exec i s = .next t ∧ TrapTaken s t u 0x0E g.pc act (g.lanes u) ∧ TrapFrame s t u ∧
            (t.weave u).trapAddr = BitVec.ofNat 64 off)) ∧
    (16 ≤ h ∨ resv s h = none → s.mayTrap u = true →
      ∀ i ∈ [Instr.obrel f, .obwr f, .obrd f], s.issues i g = true → s.represented g f = [u] →
        ∃ t, exec i s = .next t ∧ TrapTaken s t u 0x0E g.pc act (g.lanes u) ∧ TrapFrame s t u)

/-- WAITV_WAKE, WAITV_TIMEOUT, YIELD_PERIOD_END, BIN_AGED and BIN_DRAW (R202, R203, R264, R266). The threads parked on a line
complete their WAITV with D = 1, a thread whose time is up with D = 0; a yield period ends; a bin that waits longer than FAIRTIMER
becomes eligible; of the bin that the selector takes the threads that may issue become the group that issues, the others stand as
a group, and the bin is free, or goes to the threads at the head of the overflow list that share a key and have distinct lanes. -/
def Obligations.ThreadEvents : Prop :=
  ∀ (s : State) (u l c n : Nat) (x : Weave) (w : Wait) (b : Bin),
    let part := s.takenPart b.group
    let rest := b.group.without part.lanes
    let drawn := fun (t : State) =>
      exec (.binDraw c n) s = .next t ∧ t.drawn = (if part.members = [] then none else some part) ∧
        t.groups = s.groups ++ (if rest.members = [] then [] else [rest]) ∧
        (∀ m, m ≠ n → Map.find (t.core c).bins m = Map.find (s.core c).bins m) ∧
        t = { s with drawn := t.drawn, groups := t.groups, cores := t.cores }
    let woken := fun (t : State) (value : Bool) =>
      (∀ p, w.dest = .p p → p ≠ 7 → l < 32 → x.live.getLsbD l = true → (t.weave u).pread p.toNat l = value) ∧
        (l < 32 → t.standsAt u l (w.pc + 1)) ∧ (l, w) ∉ (t.weave u).waits ∧ t.mem = s.mem
    (Map.find s.weaves u = some x → Map.find x.waits l = some w →
      (∃ t, exec (.waitvWake w.line) s = .next t ∧ woken t true ∧
        ∀ e, e ∈ (t.weave u).waits ↔ e ∈ x.waits ∧ e.2.line ≠ w.line) ∧
      ((∃ y, w.until? = some y ∧ y < s.clock) → ∃ t, exec (.waitvTimeout u l) s = .next t ∧ woken t false) ∧
      ((∀ y, w.until? = some y → s.clock ≤ y) → exec (.waitvTimeout u l) s = .next s)) ∧
    (∀ y, Map.find s.weaves u = some x → Map.find x.yielding l = some y →
      ∃ t, exec (.yieldPeriodEnd u l) s = .next t ∧
        Map.find (t.weave u).yielding l = (if y < s.clock then none else some y) ∧
        t = { s with weaves := t.weaves } ∧ ∀ v, s.weave v = { t.weave v with yielding := (s.weave v).yielding }) ∧
    (Map.find (s.core c).bins n = some b → (s.contextOf b.team).fairTimer < b.wait → (s.contextOf b.team).noProg = false →
      ∃ t, exec (.binAged c n) s = .next t ∧ Map.find (t.core c).bins n = some { b with aged := true } ∧
        t = { s with cores := t.cores }) ∧
    (Map.find (s.core c).bins n = some b → b.picked.isSome = true → (s.core c).overflow = [] →
      ∃ t, drawn t ∧ Map.find (t.core c).bins n = none) ∧
    (∀ o more, Map.find (s.core c).bins n = some b → b.picked.isSome = true → (s.core c).overflow = o :: more → n < 64 →
      (∀ m < 64, m ≠ n → (Map.find (s.core c).bins m).isSome) →
      ∃ t y k, drawn t ∧ Map.find (t.core c).bins n = some y ∧ y.team = o.team ∧ y.shadow = o.shadow ∧ y.pc = o.pc ∧ 0 < k ∧
        (t.core c).overflow = (o :: more).drop k ∧
        (∀ z ∈ (o :: more).take k, z.team = o.team ∧ z.shadow = o.shadow ∧ z.pc = o.pc ∧ Map.find y.places z.lane = some z.weave ∧
          z.wait ≤ y.wait) ∧
        (∃ z ∈ (o :: more).take k, z.wait = y.wait) ∧
        (∀ j, (Map.find y.places j).isSome → ∃ z ∈ (o :: more).take k, z.lane = j) ∧
        ∀ z, (o :: more)[k]? = some z →
          z.team ≠ o.team ∨ z.shadow ≠ o.shadow ∨ z.pc ≠ o.pc ∨ ∃ v ∈ (o :: more).take k, v.lane = z.lane) ∧
    (Map.find (s.core c).bins n = some b → b.picked = none → exec (.binDraw c n) s = .next s)

/-- PREEMPT_WINDOW_LIMIT, WATCHDOG, REMOTE_RETRY and REMOTE_CEILING_EXPIRE (R177, R339, R418, R451). A window open for 65,536 clocks
is closed with a report; a gang of which a thread has not issued for the watchdog's period is parked with WATCHDOG; a lane whose
access waits on a module in recovery is marked with the module and the time from which on it waits for that one, an answer of
another kind ends all marks, and the gang is parked with REMOTE_TIMEOUT when a lane has waited for the ceiling. No byte changes. The
form of that report, and how the waiting lanes are found, are the model's choices (log entries 52 and 108). -/
def Obligations.GangWatchEvents : Prop :=
  ∀ (s : State) (g u l : Nat) (p : Pdis),
    let k := s.gang g
    let c := k.cores.headD 0
    let w := s.weave u
    let inGang := (Map.find s.gangs g).isSome ∧ (Map.find s.weaves u).isSome ∧ (s.team (teamOfWeave u)).gang = g
    let ends := fun (i : Instr) (result : State → Prop) =>
      ∃ t, exec i s = .next t ∧ t.mem = s.mem ∧ (∀ v, (s.weave v).keepsRegisters (t.weave v) []) ∧ t.teams = s.teams ∧ result t
    let reported := fun (t : State) => ∃ r, (t.die (dieOfCore c)).pending = (s.die (dieOfCore c)).pending ++ [r]
    ((Map.find s.gangs g).isSome → k.pdis = some p → p.opened + 65536 ≤ s.clock → s.hasRoom c = true →
      ends (.preemptWindowLimit g) fun t => reported t ∧ t.gang g =
        if k.requested then { k with pdis := none, requested := false, draining := some (s.clock, p.crit) } else { k with pdis := none }) ∧
    (inGang → k.counts = true → Map.find w.recovering l = none → l < 32 → w.live.getLsbD l = true → s.hasRoom c = true →
      s.watchdogPeriod (s.sub k.sub).slice ≤ k.lived - w.lastIssued l →
      ends (.watchdog g) fun t => reported t ∧ (t.gang g).state = .parked ∧ (t.gang g).report = some { cause := 0x14 } ∧
        (t.gang g).pdis = none) ∧
    ((Map.find s.weaves u).isSome → ends (.remoteRetry u .served) fun t =>
      t = { s with weaves := t.weaves } ∧ (∀ v, v ≠ u → t.weave v = s.weave v) ∧ t.weave u = { w with recovering := [] }) ∧
    ((Map.find s.weaves u).isSome → ends (.remoteRetry u .recovering) fun t =>
      t = { s with weaves := t.weaves } ∧ (∀ v, v ≠ u → t.weave v = s.weave v) ∧
        t.weave u = { w with recovering := (t.weave u).recovering } ∧
        ∀ lane, match Map.find (t.weave u).recovering lane with
          | none => ∀ m, (lane, m) ∉ s.remoteWaits u
          | some (since, m) =>
            (lane, m) ∈ s.remoteWaits u ∧
              since = match Map.find w.recovering lane with
                | some old => if old.2 = m then old.1 else s.ptime
                | none => s.ptime) ∧
    (∀ y m, inGang → k.counts = true → (l, y, m) ∈ w.recovering → y + (s.part (s.partOfGang g)).ceiling ≤ s.ptime →
      s.hasRoom c = true →
      ends (.remoteCeilingExpire g) fun t => reported t ∧ (t.gang g).state = .parked ∧
        (t.gang g).report = some { cause := 0x16 } ∧ (t.weave u).recovering = [])

/-- SIDELOG_REPLAY, SIDELOG_WALK_RETRY, PAGE_REQUEST_EXPIRE, RELEASE_WRITEBACK and L1_CLEAN_EXPIRE (R314, R316, R324, R327 to R329).
An entry whose page may be written is performed at its home and leaves the log, one that releases behind every RC line that is dirty
in the L1; one whose page may not be written fails, with a report and for its threads to learn; a walk that ends asks for the replay;
an old request that nothing needs lapses; a release's lines go home together; a clean line that is old leaves the L1. -/
def Obligations.MemoryUnitEvents : Prop :=
  ∀ (s : State) (c page : Nat) (e : SideEntry) (tr : Translation) (bytes : List (Nat × Byte)) (r : Release) (l : L1Line),
    let alone := (s.core c).sideLog = [e] ∧ e.page = page ∧ page < 2 ^ 56
    let cached := (s.core c).tlb.find? (fun t => t.covers e.asid page) = some tr
    let fits := s.permits tr .write (tr.pa e.addr) 1 && !s.movesFor e.asid tr
    (alone → cached → e.op = .store bytes → fits = true → (bytes.map Prod.fst).Nodup →
      (∀ x ∈ bytes, tr.stored (tr.pa x.1) = true ∧ s.poisoned (tr.pa x.1) 1 = false) → tr.stored (tr.pa e.addr) = true →
      (∀ x ∈ bytes, ∀ y ∈ bytes, tr.pa x.1 = tr.pa y.1 → x.1 = y.1) → s.memoryInv → s.reportsFit = true →
      ∃ t, exec (.sidelogReplay c page) s = .next t ∧ (t.core c).sideLog = [] ∧
        (e.release = true → ∀ ln ∈ (s.core c).dirtyRc, ∀ k < 128, t.dirtyByte c (ln * 128 + k) = none) ∧
        (∀ x ∈ bytes, Memory.read t.mem (tr.pa x.1) = x.2 ∨
          s.wroteByte (fun _ => False) (tr.pa x.1) (Memory.read t.mem (tr.pa x.1))) ∧
        KeepsBytes s t fun a => ∃ x ∈ bytes, a = tr.pa x.1) ∧
    (alone → cached → e.op = .store bytes → s.permits tr .write (tr.pa e.addr) 1 = false → s.hasRoom c = true →
      (e.members.map Prod.fst).Nodup → (∀ x ∈ e.members, (Map.find s.weaves x.1).isSome) →
      ∃ t, exec (.sidelogReplay c page) s = .next t ∧ (t.core c).sideLog = [] ∧ t.mem = s.mem ∧
        (∀ x ∈ e.members, (t.weave x.1).failures = (s.weave x.1).failures ++ [(0x0B, e.addr, x.2)]) ∧
        ∃ x, (t.die (dieOfCore c)).pending = (s.die (dieOfCore c)).pending ++ [x]) ∧
    (alone → cached → s.reportsFit = true →
      ∃ t, exec (.sidelogWalkRetry c page) s = .next t ∧ t = { s with agenda := s.agenda ++ [.sidelogReplay c page], cores := t.cores } ∧
        (t.core c).sideLog = [e] ∧ Map.find (t.core c).retried page = some s.clock) ∧
    ((s.core c).sideLog = [] → (∀ k ∈ s.copies, k.2.frozen = false) → s.reportsFit = true →
      ∃ t, exec (.pageRequestExpire c page) s = .next t ∧ t = { s with cores := t.cores } ∧
        ∀ q, q ∈ (t.core c).requests ↔ q ∈ (s.core c).requests ∧ ¬(q.page = page ∧ q.posted + 1000000 ≤ s.ptime)) ∧
    ((s.core c).releases.find? (fun x => x.line = r.line) = some r → s.memoryInv →
      ∃ t, exec (.releaseWriteback c r.line) s = .next t ∧ KeepsBytes s t (fun _ => False) ∧
        (∀ x ∈ (t.core c).releases, x.line ≠ r.line) ∧
        ∀ ln ∈ r.lines ++ [r.line], ∀ k < 128, t.dirtyByte c (ln * 128 + k) = none ∧
          (Memory.read t.mem (ln * 128 + k) = s.byteAt c (ln * 128 + k) ∨
            s.wroteByte (fun x => x = c) (ln * 128 + k) (Memory.read t.mem (ln * 128 + k)))) ∧
    (Map.find (s.core c).l1 page = some l → l.dirty = [] → l.filled + 65536 ≤ s.clock →
      ∃ t, exec (.l1CleanExpire c page) s = .next t ∧ Map.find (t.core c).l1 page = none ∧ t = { s with cores := t.cores } ∧
        ∀ x, x ≠ page → Map.find (t.core c).l1 x = Map.find (s.core c).l1 x)

/-- FAULT_RECORD_WRITE, PATROL_READ, TIMING_REPLAY and the events of the in-field test (R326, R438 to R450). The oldest waiting record
leaves its die once it has been written to the ring; patrol logs what it finds and poisons a unit that cannot be corrected, where a
rule says what the poison does (log entry 129); a detector's replay is logged, and too many ask for a test. A core whose interval has
expired is due: of its gangs those that could run elsewhere are pre-empted, for the others the test waits; at the end of the wait
a context is cut if it may be, and the gang is then pre-empted. A test clears the capability bits that mismatch, with a FENCED
record, and its end starts the interval anew. -/
def Obligations.ErrorEvents : Prop :=
  ∀ (s s' : State) (d c p : Nat) (r : Record) (rest : List (Nat × Record)) (unit : StorageUnit) (m : Word64),
    let k := s.core c
    let logged := fun (t : State) (die kind detail : Nat) =>
      ∃ n e, Map.find (t.die die).log n = some e ∧ e.headD 0 = BitVec.ofNat 8 kind ∧ natOfBytes ((e.drop 16).take 8) = detail ∧
        natOfBytes (e.drop 24) = s.ptime % 2 ^ 64
    let taken := fun (t : State) (g : Nat) =>
      (t.gang g).forTest = true ∧ ((t.gang g).requested = true ∨ (t.gang g).draining.isSome = true)
    let closed := s.changeCore c fun k => { k with testDue := some (k.testDue.getD s.ptime), testWait := [] }
    ((s.die d).pending = (p, r) :: rest → s.ringRecord p r = some s' → (s'.die d).pending = (s.die d).pending →
      ∃ t, exec (.faultRecordWrite d) s = .next t ∧ (t.die d).pending = rest) ∧
    ((s.die d).pending = (p, r) :: rest → s.ringRecord p r = none → exec (.faultRecordWrite d) s = .next s) ∧
    exec (.patrolRead d unit .clean) s = .next s ∧
    (∃ t, exec (.patrolRead d unit .correctable) s = .next t ∧ logged t d 1 0 ∧ t = { s with dies := t.dies }) ∧
    (∃ t, exec (.patrolRead d unit .uncorrectable) s = .next t ∧ logged t d 2 0 ∧ t.mem = s.mem ∧
      match unit with
      | .vreg w n => (Map.find s.weaves w).isSome → (t.weave w).poisonV.contains n = true
      | .sreg w n => (Map.find s.weaves w).isSome → (t.weave w).poisonS.contains n = true
      | .tileRow w tile row => (Map.find s.teams w).isSome → (t.team w).poisonRows.contains (tile * 64 + row) = true
      | .line ln _ | .l2 ln _ => t.poison.contains ln = true
      | .l1 y ln _ => (Map.find (s.core y).l1 ln).isSome → (t.core y).toxicL1.contains ln = true
      | .code y key _ => (Map.find (s.core y).icache key).isSome → (t.core y).toxicCode.contains key = true
      | .pred _ _ | .teamReg _ _ _ | .firmware _ _ | .sideLog _ _ | .releases _ _ => t = { s with dies := t.dies }) ∧
    (∃ t, exec (.timingReplay c) s = .next t ∧ logged t (c / 160) 3 0 ∧
      (t.core c).replays = (k.replays.filter fun x => s.ptime < x + 1000000) ++ [s.ptime] ∧
      (t.core c).testAsked = (k.testAsked || decide (1024 < (t.core c).replays.length)) ∧
      t = { s with dies := t.dies, cores := t.cores }) ∧
    ((s.partOfCore c).testing = true → k.testRuns = false → k.testDue = none → s.testExpired c = true → s.gangsOn c = [] →
      ∃ t, exec (.iftDue c) s = .next t ∧ (t.core c).testDue = some s.ptime ∧ t = { s with cores := t.cores }) ∧
    ((s.partOfCore c).testing = true → k.testRuns = false → k.testDue.isSome = true ∨ s.testExpired c = true →
      ∃ t, exec (.iftDue c) s = .next t ∧ (t.core c).testDue.isSome = true ∧ t = { s with cores := t.cores, gangs := t.gangs } ∧
        ∀ g ∈ s.notAsked c, (s.gang g).stands = true →
          if ((closed.withoutGangs [g]).runForSaved g).isSome then taken t g
          else
            t.gang g = s.gang g ∧
              Map.find (t.core c).testWait g =
                some (Map.at k.testWait
                  (s.ptime + min ((s.slice (s.sub (s.gang g).sub).slice).deadline - s.ptime) (s.partOfCore c).waitMax) g)) ∧
    (k.testDue.isSome → k.testRuns = false → (s.partOfCore c).testing = true → s.gangsOn c = [] → s.reportsFit = true →
      (∀ x ∈ s.teams, x.2.core = c → x.2.ended = true ∨ x.2.away = true ∨ (s.gang x.2.gang).saved = none) →
      ∃ t, exec (.iftRun c m) s = .next t ∧ (t.core c).testRuns = true ∧ (t.core c).capmask = k.capmask &&& ~~~m ∧ t.mem = s.mem ∧
        (k.capmask &&& m ≠ 0 → logged t (c / 160) 4 (k.capmask &&& m).toNat)) ∧
    (∀ g, s.waitedOut c = [g] → (s.gang g).stands = true → (Map.find s.slices (s.sub (s.gang g).sub).slice).isSome →
      let n := (s.sub (s.gang g).sub).slice
      ∃ t, exec (.iftWaitExpire c) s = .next t ∧ t.mem = s.mem ∧
        if (s.ctx n).ckptEn = true ∧ k.testCuts.contains n = false then
          (t.slice n).ckptAsked.isSome = true ∧ n ∈ (t.core c).testCuts ∧ t.gangs = s.gangs
        else if k.testCuts.contains n = true ∧ s.cutPending n = true then t = s
        else taken t g) ∧
    (k.testRuns = true → ∃ t, exec (.inFieldTestEnd c) s = .next t ∧ t = { s with cores := t.cores } ∧
      t.core c =
        { k with testRuns := false, testDue := none, testAsked := false, testWait := [], testCuts := [], tested := s.ptime, replays := [] })

/-- GANG_PLACE, NEWCOMER_PLACE, STAGE_RESERVATION_EXPIRE, L2_STAGE_FILL, PREEMPT_REQUEST, CONTROL_SAVE, BANK_SPILL and
GANG_RESUME (R258, R270, R361 to R364, R371, R374 to R376, R380, R387). A new gang stands on the run that it may take, its teams'
threads at the entry; an L2 record is admitted while the partition's share has room for it, and an admitted one is filled page by
page without a report; a request takes effect at once, or when a window closes; a saved gang leaves its cores and keeps what
its save recorded; a claimed bank is spilled for the teams that it holds, which have nothing there then; a resumed gang stands
again as it was, and while no run passes it is UNPLACED. The fill of a record page by page is the model's (log entry 106). -/
def Obligations.PlacementEvents : Prop :=
  ∀ (s : State) (g n u c record : Nat) (cores : List Nat) (r : WorkingSet) (x : Saved) (y : Claim),
    let k := s.gang g
    let m := s.sub k.sub
    let l := s.slice m.slice
    let kn := m.kernel.getD {}
    let known := (Map.find s.gangs g).isSome
    let ends := fun (i : Instr) (result : State → Prop) => ∃ t, exec i s = .next t ∧ result t
    (∀ i ∈ [Instr.gangPlace g, .newcomerPlace g], known → k.state = .unplaced → k.saved = none → k.killed = false → l.places = true →
      s.partRuns (s.fn l.fn).part = true → (s.fn l.fn).stopping = false → s.lowerWaits g = false →
      s.critFirst (s.partOfSlice m.slice) = false →
      (s.runForNew g = none → exec i s = .next s) ∧
      (s.runForNew g = some cores → ends i fun t =>
        t.mem = s.mem ∧ (t.gang g).state = .placed ∧ (t.gang g).cores = cores ∧
          ∀ j < kn.gangTeams, ∃ team, (t.team team).gang = g ∧ (t.team team).teamId = k.gangId * kn.gangTeams + j ∧
            (t.team team).core = cores.getD (j / max 1 (kn.gangTeams / max 1 cores.length)) 0 ∧
            ∀ w < kn.weaves, ∃ h ∈ t.groups, h.members = [(weaveUid team w false, kn.lanes w)] ∧ h.pc = BitVec.ofNat 40 kn.entry)) ∧
    (∀ y, (s.slice n).stagedUntil = some y → y ≤ s.clock → ends (.stageReservationExpire n) fun t =>
      (t.slice n).stagedUntil = none ∧
        (∀ v ∈ (s.slice n).subs, (t.sub v).staging = (s.sub v).staging.filter fun x => x.2 = 0) ∧ t.mem = s.mem ∧ t.weaves = s.weaves) ∧
    (s.stages n u = true → (s.sub u).nextSet = some record → (s.sub u).sets[record]? = some r →
      let p := s.partOfSlice (s.sub u).slice
      let fits := (s.part p).share ≠ 0 ∧ (s.part p).staged + r.reserve ≤ (s.part p).share * ((s.part p).l2Bytes / 64)
      ends (.l2StageFill n u record) fun t =>
        t = { s with subs := t.subs, parts := t.parts } ∧
          (fits → Map.find (t.sub u).staging record = some 1 ∧ (t.part p).staged = (s.part p).staged + r.reserve) ∧
          (¬fits → Map.find (t.sub u).staging record = some 0 ∧ t.parts = s.parts)) ∧
    (s.stages n u = true → (s.sub u).nextSet ≠ some record → (s.sub u).nextFill = some record → (s.sub u).sets[record]? = some r →
      ends (.l2StageFill n u record) fun t =>
        Map.find (t.sub u).staging record = some (Map.at (s.sub u).staging 0 record + 1) ∧ t.parts = s.parts ∧
          KeepsBytes s t (fun _ => False) ∧ ∀ d, (t.die d).pending = (s.die d).pending) ∧
    (k.stands = true → k.draining = none → ends (.preemptRequest g) fun t =>
      t = { s with gangs := t.gangs } ∧ (∀ h, h ≠ g → t.gang h = s.gang h) ∧
        t.gang g = if k.pdis.isSome then { k with requested := true } else { k with requested := false, draining := some (s.clock, false) }) ∧
    (k.stands = false → exec (.preemptRequest g) s = .next s) ∧
    (∀ controls a b, k.stands = true → k.draining.isSome →
      let a0 := (s.withdrawAll g).withdrawWaits g
      a0.saveControls (a0.gangTeams g) [] = (.ok controls, a) → a.saveHeader m.slice (k.cores.headD 0) = (.ok (), b) →
      b.reportsFit = true → ends (.controlSave g) fun t =>
        (t.gang g).state = .preempted ∧ (t.gang g).cores = [] ∧ (t.gang g).draining = none ∧
          (∃ y, (t.gang g).saved = some y ∧ y.parked = (k.state == .parked) ∧ y.held = k.stopped ∧ y.cores = k.cores ∧
            y.time = s.ptime ∧ y.controls = controls) ∧ ∀ h ∈ t.groups, (t.team h.team).gang ≠ g) ∧
    ((s.core c).nextClaim = some y → y.begun = false → s.reportsFit = true → ends (.bankSpill c) fun t =>
      t = { s with cores := t.cores } ∧
        t.core c = { s.core c with claims := (s.core c).claims.map fun z : Claim =>
          if z.array = y.array ∧ z.bank = y.bank then { z with begun := true } else z }) ∧
    ((s.core c).nextClaim = some y → y.begun = true → s.reportsFit = true →
      (∀ v ∈ s.residents c y.array y.bank, s.dirtyPieces v = [] ∧ (s.team v).ended = false) → ends (.bankSpill c) fun t =>
        t = { s with cores := t.cores, teams := t.teams } ∧
          t.core c = { s.core c with claims := (s.core c).claims.filter fun z => ¬(z.array = y.array ∧ z.bank = y.bank) } ∧
          ∀ v ∈ s.residents c y.array y.bank, (y.array, y.bank) ∈ (t.team v).gone) ∧
    ((s.core c).claims = [] → exec (.bankSpill c) s = .next s) ∧
    (s.mayResume g = true → s.runForSaved g = none → ends (.gangResume g) fun t =>
      t = { s with gangs := t.gangs } ∧ t.gang g = { k with state := .unplaced }) ∧
    (∀ a, s.mayResume g = true → s.runForSaved g = some cores → k.saved = some x → (Map.find s.slices m.slice).isSome →
      let per := max 1 (kn.gangTeams / max 1 cores.length)
      s.restoreTeams g (cores != x.cores) (fun v => cores.getD ((s.team v).index / per) 0) x.controls (s.gangTeams g) = .ok a →
      a.reportsFit = true → ends (.gangResume g) fun t =>
        (t.gang g).state = (if x.parked then .parked else .placed) ∧ (t.gang g).cores = cores ∧ (t.gang g).saved = none ∧
          (t.ctx m.slice).restoreCount = (a.ctx m.slice).restoreCount + 1 ∧
          ∀ h ∈ x.groups, ∃ y ∈ t.groups, y.members = h.members ∧ y.pc = h.pc)

/-- SLICE_READ, CTRSET, NOP_SLICE, SLICE_SELECT, SLICE_DISPATCH, SUBLAUNCH_COMPLETE, BUDGET_EXHAUSTED, NODE_BUDGET_REACHED, PERIOD_RENEW,
RCB_FIELD_WRITEBACK and RCB_REREAD (R342 to R358). An entry that was read stands in its queue; the first slice in order that can
start is dispatched, or the first that may displace others does so; CTRSET sets its counter; a spent budget holds its slices and is
reported; a period's start clears USED; a write-back brings SAVECOST up to date; a re-read takes BUDGET, PERIOD, MEMQUOTA and PRIOCEIL
(R356, R359), and the whole node where it was unreadable, or leaves the fields as they were where it fails. -/
def Obligations.SliceEvents : Prop :=
  ∀ (s : State) (fn queue n part u k : Nat),
    let key := queueKey fn queue
    let q := s.queue key
    let index := q.next % max 1 q.ringSize
    let w := s.deviceWalker fn
    let root := (s.part (nodePart k)).root * 160
    let core := ((s.standingGangs n).head?.map fun g => (s.gang g).cores.headD 0).getD 0
    let period := s.nodePeriod (s.tailOf k)
    let old := (s.node k).fields
    let mine := (s.slices.filter fun l =>
      (l.2.state == .running || l.2.state == .held) && (s.sliceChain l.1).contains k &&
        (s.standingGangs l.1).any fun g => !(s.gang g).stopped).map Prod.fst
    let room := fun (x : Nat) => s.reportsFit = true ∧ (s.die (dieOfCore root)).pending.length + x ≤ 256
    let ends := fun (i : Instr) (result : State → Prop) => ∃ t, exec i s = .next t ∧ result t
    (∀ bs a subs b, s.mayRead key = true → s.deviceGet w ((q.ringBase + 64 * index) % 2 ^ 56) 64 = (.ok bs, a) →
      let l := sliceOfEntry fn queue index q bs
      (readingSlice w (a.part (a.fn fn).part).dies.length (a.fn fn).counters l q bs).run.run a = (.ok subs, b) →
      let m := Map.next s.slices
      let e := (b.enqueue key m l).addSubs m subs
      let t := if l.kind = .launch then e.readChain fn chainFuel (nodeKey (a.fn fn).part l.rcb) else e
      t.reportsFit = true → exec (.sliceRead fn queue) s = .next t ∧ (t.queue key).slices = q.slices ++ [m] ∧
        (t.queue key).next = (q.next + 1) % max 1 q.ringSize ∧ t.slice m = { l with subs := span (Map.next b.subs) subs.length }) ∧
    (s.picked key .ctrset = some n → (s.slice n).cplAddr = none → s.reportsFit = true → ends (.ctrset fn queue) fun t =>
      t.counter (counterKey fn ((s.slice n).sigCtr.getD 0)) = (s.slice n).ctrValue.toInt ∧
        (∀ c, c ≠ counterKey fn ((s.slice n).sigCtr.getD 0) → t.counter c = s.counter c) ∧
        ∀ l, Map.find t.slices n = some l → l.state = .retired) ∧
    (s.picked key .nop = some n → (s.slice n).cplAddr = none → s.reportsFit = true → ends (.nopSlice fn queue) fun t =>
      t.counters = s.counters ∧ ∀ l, Map.find t.slices n = some l → l.state = .retired) ∧
    (∀ before rest, s.ranked part = before ++ n :: rest → (∀ m ∈ before, s.canStart m = false ∧ s.displaced m = []) →
      (s.canStart n = true → s.standsBack (s.ranked part) n = false) → (s.canStart n = false → s.displaced n ≠ []) →
      ends (.sliceSelect part) fun t =>
      t = { s with slices := t.slices, agenda := t.agenda } ∧
        t.agenda = s.agenda ++ (if s.canStart n then [match (s.slice n).kind with
          | .launch => .sliceDispatch (s.slice n).fn (s.slice n).queue
          | .ctrset => .ctrset (s.slice n).fn (s.slice n).queue
          | .nop => .nopSlice (s.slice n).fn (s.slice n).queue] else s.displaced n) ∧
        ∀ m l, Map.find s.slices m = some l → (l.state = .queued ∨ l.state = .eligible) → s.partOfSlice m = part →
          (t.slice m).state = if m ∈ s.ranked part then .eligible else .queued) ∧
    (s.picked key .launch = some n → (s.readChain (s.slice n).fn chainFuel (nodeKey (s.partOfSlice n) (s.slice n).rcb)).reportsFit = true →
      ends (.sliceDispatch fn queue) fun t =>
        ((t.slice n).state = .dispatched ∨ (t.slice n).state = .running) ∧ (t.slice n).setUp = true ∧ (t.slice n).stagedUntil = none ∧
          ∀ v ∈ (s.slice n).subs, (Map.find s.subs v).isSome → (s.slice n).failure = none → (s.sub v).state = .waiting →
            s.edgesMet n (s.sub v) = true → (t.sub v).state = .started) ∧
    (∀ v ∈ (s.slice n).subs, (s.slice n).subs.contains u = true → s.subDone n u = true → v ≠ u → (s.sub v).state = .started →
      s.reportsFit = true → ends (.sublaunchComplete n u) fun t =>
        (t.sub u).state = .complete ∧ (t.sub u).staging = [] ∧ (t.sub v).state = .started ∧ t.weaves = s.weaves) ∧
    ((s.slice n).state = .running ∨ (s.slice n).state = .held → (s.slice n).budget = 0 → (s.slice n).told = false →
      s.standingGangs n ≠ [] → s.hasRoom core = true →
      ends (.budgetExhausted n) fun t =>
        t.slice n = { s.slice n with state := .held, told := true } ∧ t.mem = s.mem ∧ t.weaves = s.weaves ∧
          (∀ g x, Map.find s.gangs g = some x → (s.slice n).subs.contains x.sub = true → x.state ≠ .retired →
            t.gang g = { x with stopped := true }) ∧
          ∃ r, (t.die (dieOfCore core)).pending = (s.die (dieOfCore core)).pending ++ [r]) ∧
    (old ≠ [] → (s.node k).spent = false → s.nodeBudget (s.tailOf k) ≤ (s.node k).used → s.reportsFit = true →
      (∀ d, (s.die d).pending.length + mine.length ≤ 256) → ends (.nodeBudgetReached k) fun t =>
        (t.node k).spent = true ∧ (∀ m ∈ mine, (t.slice m).state = .held) ∧ t.mem = s.mem ∧ t.weaves = s.weaves) ∧
    (old ≠ [] → s.ptimeBefore / period ≠ s.ptime / period → (s.node k).renewedAt ≠ s.clock → ends (.periodRenew k) fun t =>
      (t.node k).used = 0 ∧ (t.node k).spent = false ∧ (t.node k).renewedAt = s.clock) ∧
    (s.ptimeBefore / period = s.ptime / period → exec (.periodRenew k) s = .next s) ∧
    (old ≠ [] → room 4 → ends (.rcbFieldWriteback k) fun t =>
      (t.node k).wrote = s.clock ∧ (t.node k).used = (s.node k).used ∧ t.weaves = s.weaves ∧
        (t.node k).ctx.saveCost = min (s.saveClocks k) (2 ^ 40 - 1)) ∧
    (old = [] → s.reportsFit = true → ends (.rcbFieldWriteback k) fun t =>
      t = { s with nodes := t.nodes } ∧ (t.node k).wrote = s.clock ∧
        (t.node k).ctx.saveCost = min (s.saveClocks k) (2 ^ 40 - 1)) ∧
    (∀ met a, (s.node k).reRead + 1000000 ≤ s.ptime → s.deviceGet (s.deviceWalker (s.node k).fn) (k % 2 ^ 64 % 2 ^ 56) 256 = (met, a) →
      a.reportsFit = true →
      match met with
      | .ok bs =>
        let kept := (s.node k).readable = true ∧ old.length = 256
        let parent := natOfBytes ((if kept then old else bs).take 8)
        ((s.node k).readable = true → kept) → (parent = 0 ∨ (Map.find a.nodes (nodeKey (nodePart k) parent)).isSome = true) →
          ends (.rcbReread k) fun t =>
            (t.node k).reRead = s.ptime ∧ (t.node k).readable = true ∧
              ∀ j < 256, (t.node k).fields[j]? = if kept ∧ ¬(0x10 ≤ j ∧ j < 0x28 ∨ j = 0x2C) then old[j]? else bs[j]?
      | .error m =>
        m.1 ≠ causePoison → ends (.rcbReread k) fun t =>
          (t.node k).reRead = s.ptime ∧ (t.node k).readable = false ∧ (t.node k).fields = old ∧ (t.node k).fault = m.1) ∧
    (s.ptime < (s.node k).reRead + 1000000 → s.reportsFit = true → exec (.rcbReread k) s = .next s)

/-- The eight commands of the partition scheduler (R178, R212, R273, R330, R335, R358, R374, R375, R437, R455, R456): EXTEND, PREEMPT,
KILL, RESUME, CANCEL, UNRECOVERABLE, DISCARD and RESTORE do what they name, and SCMDSTAT says so. That KILL takes any live slice and any
DETAIL, what PREEMPT makes of a DISPATCHED slice and that a forwarded cause takes its threads out of waits are the model's (log entries
42 and 109), and so is where a restored slice's old ring entry goes (log entry 47). -/
def Obligations.SchedulerCommands : Prop :=
  ∀ (s : State) (p n g u : Nat) (obj a1 a2 : Word64) (h : Slot),
    let status := fun (t : State) (x : Nat) => (t.part p).reg regScmdStat = BitVec.ofNat 64 x
    let named := nameOk obj = true ∧ s.sliceNamed p obj = some n
    let l := s.slice n
    let known := a1 = BitVec.allOnes 64 ∨ s.gangsNamed n a1 ≠ []
    let finished := fun (t : State) =>
      (∀ x, Map.find t.slices n = some x → x.state = .killed ∨ x.state = .retired) ∧
        ∀ y x, (y, x) ∈ t.gangs → l.subs.contains x.sub = true → x.killed = true
    let ends := fun (i : Instr) (result : State → Prop) => ∃ t, exec i s = .next t ∧ status t 0 ∧ result t
    (named → a1.toNat < 2 ^ 40 → a2 = 0 → l.state = .held → ends (.scmdExtend p obj a1 a2) fun t =>
      let b := min (l.budget + a1.toNat) (2 ^ 40 - 1)
      t = { s with gangs := t.gangs, slices := t.slices, parts := t.parts } ∧
        t.slice n = { l with budget := b, told := false, state := .running } ∧
        ∀ y x, Map.find s.gangs y = some x → l.subs.contains x.sub = true → t.gang y = { x with stopped := false }) ∧
    (named → a2 = 0 → known → l.live = true → l.state ≠ .dispatched → ends (.scmdPreempt p obj a1 a2) fun t =>
      t = { s with gangs := t.gangs, parts := t.parts } ∧
        ∀ y ∈ s.gangsNamed n a1, (s.gang y).stands = true → (t.gang y).requested = true ∨ (t.gang y).draining.isSome = true) ∧
    (named → a2 = 0 → known → l.state = .dispatched → ends (.scmdPreempt p obj a1 a2) fun t =>
      t.mem = s.mem ∧
        if s.gangs.any (fun x => l.subs.contains x.2.sub && (x.2.saved.isSome || x.2.state == .retired)) then
          (t.slice n).state = .preempted ∧ t.gangs = s.gangs
        else (t.slice n).state = .queued ∧ ∀ x ∈ t.gangs, l.subs.contains x.2.sub = false) ∧
    (named → a1.toNat < 256 → a2 = 0 → l.state ≠ .killed → s.justOver n = true → s.reportsFit = true → ends (.scmdKill p obj a1 a2) fun t =>
      t = { s with parts := t.parts }) ∧
    (named → a1.toNat < 256 → a2 = 0 → l.state ≠ .killed → s.justOver n = false → (s.killSlice n killedStatus 0xFF (a1.setWidth 8)).reportsFit = true →
      ends (.scmdKill p obj a1 a2) finished) ∧
    (named → a1 = 0 → a2 = 0 → l.state ∈ [.queued, .eligible, .dispatched] →
      (s.killSlice n cancelledStatus 0xFF 0).reportsFit = true → ends (.scmdCancel p obj a1 a2) finished) ∧
    (named → a2 = 0 → (s.gangsWith n a1).find? (fun x => (s.gang x).state == .parked) = some g → s.resumeWaits n a1 = false →
      (∀ w ∈ s.gangWeaves g, w.2.entry = none) → s.reportsFit = true → ends (.scmdResume p obj a1 a2) fun t =>
        t.gang g = { s.gang g with state := .running } ∧ t.mem = s.mem ∧ t.groups = s.groups) ∧
    (named → bits a2.toNat 15 8 = 0 → a2.toNat % 256 ≠ 0 → a2.toNat % 256 ≤ 0x18 →
      (s.gangsWith n a1).find? (fun x => (s.gang x).state == .parked) = some g → s.resumeWaits n a1 = false →
      (∀ w ∈ s.gangWeaves g, w.2.entry = none) → s.weaveNamed g (bits a2.toNat 31 16) (a2.toNat / 2 ^ 32) = some u →
      (s.sub (s.gang g).sub).handler = some h → s.frameReady u = true → s.reportsFit = true →
      ends (.scmdResume p obj a1 a2) fun t =>
        (t.gang g).state = .running ∧ (t.weave u).trapCause = BitVec.ofNat 8 (a2.toNat % 256) ∧
          (t.weave u).handler = true ∧ (t.weave u).nest = (s.weave u).handler ∧
          ∀ y m, (y, m) ∈ (t.weave u).waits → (s.forwarded g u).2.2.2.getLsbD y = false) ∧
    (a1.toNat % 65536 = 0 → a1.toNat < 2 ^ 56 → a2 = 0 → s.slicesUnder p obj = [n] → (s.failPage n a1.toNat).reportsFit = true →
      ends (.scmdUnrecoverable p obj a1 a2) fun t =>
        (∀ x ∈ t.gangs, ∀ y, x.2.saved = some y → ∀ e ∈ y.side, ¬(e.slice = n ∧ e.page = a1.toNat)) ∧
        (∀ c, ∀ e ∈ (t.core c).sideLog, ¬(e.slice = n ∧ e.page = a1.toNat)) ∧
          ∀ y x, Map.find s.copies y = some x → x.slice = n → x.active = true → x.frozen = true → a1.toNat ∈ x.pages →
            ∃ z, Map.find t.copies y = some z ∧ z.active = false ∧ z.failed = true) ∧
    (a1 = 0 → a2 = 0 → s.slicesUnder p obj = [n] → s.standingGangs n ≠ [] → ends (.scmdDiscard p obj a1 a2) fun t =>
      (t.slice n).state = .preempted ∧ (t.slice n).discarded = true ∧ (t.slice n).ckptAsked = none ∧ (t.ckpt n).decided = none ∧
        ∀ y ∈ s.standingGangs n, (t.gang y).state = .unplaced ∧ (t.gang y).cores = []) ∧
    (a1 = 0 → a2 = 0 → s.slicesUnder p obj = [n] → s.standingGangs n = [] →
      ∃ t, exec (.scmdDiscard p obj a1 a2) s = .next t ∧ status t 1 ∧ t = { s with parts := t.parts }) ∧
    (∀ tg images last b1 entry budget b2 rs b3 c1 c2 c3,
      let fn := bits a1.toNat 22 16
      let queue := a1.toNat % 65536
      let key := nodeKey p obj.toNat
      let t0 := s.readChain fn chainFuel key
      let chain := t0.chain chainFuel key
      let area := b3.effective chain 8 0x48 8
      let subs := (b2.slice n).subs.map b2.sub
      let in_ := fun (x : State) (owner : Nat) => x.changeSlice n fun y => { y with fn := owner }
      let b := (in_ b3 fn).contextWalker n ((b3.part p).root * 160)
      let final := ((in_ c3 (b3.slice n).fn).revive (.known n) fn queue (b2.slice n) subs (lastRecords rs)
        (c3.revivedOf subs (lastRecords rs)) budget last.cutAt last.coLocated).scmdStatus p 0 0
      a2 = 0 → a1.toNat < 2 ^ 23 → s.restorable p obj = .known n → (s.queue (queueKey fn queue)).bound = true →
      (s.fn fn).part = p → (s.fn fn).inReset = false → t0.chainOk chain = true →
      t0.latestImage fn (t0.effective chain 9 0x50 8) = (some (tg, images), b1) → images.getLast? = some last →
      b1.sliceOfImage tg.base last = (entry, budget, b2) → b2.readImages subs tg.base obj.toNat images = (some rs, b3) →
      (in_ b3 fn).assemble b subs area (lastRecords rs) (lastRecords rs) = (.ok (), c1) →
      c1.advanceGen b area = (.ok (), c2) → c2.placePages b (lastRecords rs) = (.ok (), c3) → final.reportsFit = true →
      ends (.scmdRestore p obj a1 a2) fun t =>
        (t.slice n).state = .preempted ∧ (t.slice n).budget = budget ∧ (t.slice n).notBefore = last.cutAt + 1 ∧
          (t.slice n).fn = fn ∧ (t.slice n).queue = queue ∧ (t.slice n).offRing = true ∧
          (t.queue (queueKey fn queue)).slices.head? = some n)

/-- TQ_INV, TQ_SCRUB, TQ_POOLADD, PAGE_MOVE and SETTLE_END (R396 to R402). A command that is in order has its effect and is over with
status 1; one that is not is over with status 2 (which are not is in part the model's, log entry 33), and their ring is at physical
addresses (log entry 31). INV leaves no cached translation of its range in the partition, of the leaf size that it names if it names
one, and no L1 line or instruction line of a page that it removed: the lines' bytes are at home. SCRUB frees its frames in one step and
then zeroes them, and waits at one that a cut holds. A page that moves takes its bytes, its leaf, WINSTART and SETTLEEND with it; how
the other module's side of a move comes and goes is the model's (log entries 35 and 36). -/
def Obligations.TranslationCommands : Prop :=
  ∀ (s : State) (fn f : Nat) (c : Command) (a : State) (m : PageMove) (tr : Translation),
    let old := fun (x : Nat) (b : Byte) => b = Memory.read s.mem x ∨ s.wroteByte (fun _ => False) x b
    let sound := fun (x : Nat) => s.memoryInv ∧ ∀ j < 8, ∀ b, ¬s.wroteByte (fun _ => False) (x + j) b
    let finished := fun (t : State) (status : Nat) =>
      (t.fn fn).reg regTqHead = ((s.fn fn).reg regTqHead + 1) % max 1 ((s.fn fn).reg regTqSize) ∧
        (c.cpl % 8 = 0 → stored c.cpl = true → s.memoryInv →
          Memory.readNat t.mem c.cpl 8 = (status + (s.fn fn).reg regTqHead * 2 ^ 32) % 2 ^ 64)
    let fits := c.ok = true ∧ c.level = 0 ∧ s.mayName fn c.asid = true
    let gone := fun (x : Translation) =>
      x.asid = c.asid ∧ x.meets c.base c.length = true ∧ (c.level = 1 → x.size = 65536) ∧ (c.level = 2 → x.size = 2 ^ 21) ∧
        (c.level = 3 → x.size = 2 ^ 30)
    let cores := fun (k : Nat) => s.partOfDie (dieOfCore k) = (s.fn c.asid).part
    let leaf := fun (t : State) => Memory.readNat t.mem tr.leaf 8
    let home := tr.frame / 65536
    let owner := (a.frame home).ownFn
    let own : PageMove :=
      { m with
        moves := BitVec.ofNat 4 (bits (leaf a) 62 59), winStart := (a.frame home).winStart, settleEnd := (a.frame home).settleEnd }
    let runs := s.inRecovery (s.fn m.fn).part = false
    let settles := fun (t : State) (x : PageMove) =>
      bits (leaf t) 62 59 = (a.countMove x).1 % 16 ∧ bit (leaf t) 58 = decide ((a.countMove x).1 = 4)
    let quiet := fun (x : PageMove) => (a.countMove x).1 ≠ 4 ∨ (a.fn m.fn).reg regEvSize = 0
    let mayLeave := tr.remote = false ∧ (a.frame home).migv = true ∧ a.ownsFrame m.fn home = true ∧
      (a.frame home).tenant = (a.fn m.fn).tenant ∧ (a.frame home).refuses (a.frame home).tenant = false
    let moves := bit (leaf a) 56 = true ∧ bit (leaf a) 58 = false ∧ tr.size = 65536 ∧ tr.page = m.va
    let ends := fun (i : Instr) (result : State → Prop) => ∃ t, exec i s = .next t ∧ result t
    (s.command fn = some (c, a) →
      (c.op = 1 → c.ok = true → c.level ≤ 4 → s.mayName fn c.asid = true → ends (.tqInv fn) fun t =>
        finished t 1 ∧ (∀ k, cores k → ∀ x ∈ (t.core k).tlb, ¬gone x) ∧
        (∀ u, cores (s.team (teamOfWeave u)).core → ∀ x ∈ (t.weave u).lastPage, ¬gone x.2) ∧
        (∀ k, cores k → ∀ x ∈ (s.core k).tlb, gone x →
          (x.remote = false → ∀ ln, x.frame ≤ ln * 128 → ln * 128 < x.frame + x.size → Map.find (t.core k).l1 ln = none) ∧
          ∀ y ∈ (t.core k).icache,
            ¬(y.1 / 2 ^ 60 = c.asid ∧ y.1 % 2 ^ 60 < x.page + x.size ∧ x.page < y.1 % 2 ^ 60 + 192)) ∧
        KeepsBytes s t fun x => c.cpl ≤ x ∧ x < c.cpl + 8) ∧
      (c.op = 1 → ¬(c.ok = true ∧ c.level ≤ 4 ∧ s.mayName fn c.asid = true) → ends (.tqInv fn) fun t => finished t 2) ∧
      (c.op = 2 → (s.fn fn).scrubbing = false → fits → (∀ k ∈ c.frames, s.mayFree fn k = true ∧ a.heldFrame k = false) →
        ends (.tqScrub fn) fun t =>
          finished t 1 ∧ (t.fn fn).scrubbing = false ∧
            (∀ k ∈ c.frames, (t.frame k).tenant = 0 ∧ (t.frame k).frameState = 0 ∧ (t.frame k).sgen = (s.frame k).sgen + 1 ∧
              (t.frame k).fgen = (s.frame k).sgen + 1) ∧
            (s.memoryInv → ∀ k ∈ c.frames, ∀ x, k * 65536 ≤ x → x < k * 65536 + 65536 → ¬(c.cpl ≤ x ∧ x < c.cpl + 8) →
              Memory.read t.mem x = 0 ∨ s.wroteByte (fun _ => False) x (Memory.read t.mem x))) ∧
      (∀ k rest, c.op = 2 → (s.fn fn).scrubbing = false → fits → c.frames = k :: rest → (∀ k ∈ c.frames, s.mayFree fn k = true) →
        a.heldFrame k = true → ends (.tqScrub fn) fun t =>
          (t.fn fn).scrubbing = true ∧ (t.fn fn).reg regTqHead = (s.fn fn).reg regTqHead ∧
            ∀ k ∈ c.frames, (t.frame k).frameState = 1) ∧
      (c.op = 2 → (s.fn fn).scrubbing = false → ¬(fits ∧ ∀ k ∈ c.frames, s.mayFree fn k = true) →
        ends (.tqScrub fn) fun t => finished t 2) ∧
      (c.op = 3 → fits →
        let took := s.poolTakes fn (s.fn fn).pool false (c.frames.filter fun k => k * 65536 + 65536 ≤ frameTableBase)
        ends (.tqPooladd fn) fun t => (t.fn fn).pool = took.1 ∧ finished t (if took.2 then 3 else 1)) ∧
      ((c.op = 0 ∨ 3 < c.op ∨ c.op = 3 ∧ ¬fits) → ends (.tqPooladd fn) fun t => finished t 2)) ∧
    (s.command fn = none → ∀ i ∈ [Instr.tqInv fn, .tqScrub fn, .tqPooladd fn], exec i s = .next s) ∧
    (runs → s.walk m.fn m.va = (.leaf tr, a) → moves → m.inward = true → tr.remote = true → a.poolFrames m.fn ≠ [] →
      m.data.length = 65536 → quiet m → sound tr.leaf → ends (.pageMove m) fun t =>
        ∃ k ∈ a.poolFrames m.fn, (t.fn m.fn).pool = setDrop (a.fn m.fn).pool k ∧ (t.frame k).migv = true ∧ (t.frame k).va = m.va ∧
          (t.frame k).ownFn = m.fn ∧ (t.frame k).tenant = (a.fn m.fn).tenant ∧ (t.frame k).pteAddr = tr.leaf ∧
          (t.frame k).winStart = BitVec.ofNat 32 (a.countMove m).2 ∧
          (t.frame k).settleEnd = (if (a.countMove m).1 = 4 then BitVec.ofNat 32 (s.micros + s.moveHold) else m.settleEnd) ∧
          bit (leaf t) 57 = false ∧ bits (leaf t) 51 16 = k % 2 ^ 36 ∧ settles t m ∧
          (∀ x ∈ t.cores, ∀ y ∈ (t.core x.1).tlb, ¬(y.asid = m.fn ∧ y.page = m.va)) ∧
          ∀ j b, m.data[j]? = some b → ¬(tr.leaf ≤ k * 65536 + j ∧ k * 65536 + j < tr.leaf + 8) →
            Memory.read t.mem (k * 65536 + j) = b ∨
              s.wroteByte (fun _ => False) (k * 65536 + j) (Memory.read t.mem (k * 65536 + j))) ∧
    (runs → s.walk m.fn m.va = (.leaf tr, a) → moves → m.inward = true → tr.remote = true → a.poolFrames m.fn ≠ [] →
      m.data.length ≠ 65536 → ends (.pageMove m) fun t => Map.find (t.fn m.fn).unmoved m.va = some false ∧ t = { a with fns := t.fns }) ∧
    (runs → s.walk m.fn m.va = (.leaf tr, a) → moves → m.inward = false → mayLeave → quiet own → sound tr.leaf →
      ends (.pageMove m) fun t =>
        let remote := m.peer.toNat * 2 ^ 26 + m.peerFrame.toNat
        (t.frame home).migv = false ∧
          (t.fn owner).pool = (if 4096 ≤ (a.fn owner).pool.length then (a.fn owner).pool else setAdd (a.fn owner).pool home) ∧
          bit (leaf t) 57 = true ∧ bits (leaf t) 51 16 = remote % 2 ^ 36 ∧ settles t own ∧
          ∃ bs, t.moved = a.moved ++ [(m.peer.toNat,
              { own with inward := true, peer := BitVec.ofNat 10 s.module_, peerFrame := BitVec.ofNat 26 home, data := bs })] ∧
            bs.length = 65536 ∧ ∀ j b, bs[j]? = some b → old (home * 65536 + j) b) ∧
    (runs → s.walk m.fn m.va = (.leaf tr, a) → m.inward = false → ¬(moves ∧ mayLeave) → ends (.pageMove m) fun t =>
      t = { a with answers := a.answers ++ [some []] }) ∧
    (¬runs → ends (.pageMove m) fun t => t = if m.inward then s else { s with answers := s.answers ++ [none] }) ∧
    (let k := s.frame f
      let e := Memory.readNat s.mem k.pteAddr 8
      k.migv = true → bit e 58 = true → k.settleAt ≤ s.ptime / 1000 →
      (s.fn k.ownFn).reg regEvSize = 0 → sound k.pteAddr → ends (.settleEnd f) fun t =>
        let x := Memory.readNat t.mem k.pteAddr 8
        bit x 58 = false ∧ bits x 62 59 = 0 ∧ bits x 57 0 = bits e 57 0 ∧ bit x 63 = bit e 63 ∧ t.weaves = s.weaves)

/-- NOTIFY, QBIND_BIND, QBIND_UNBIND, QBIND_REBIND, FNCFG_WRITE, TROOT_WRITE, REGISTER_WRITE, FUNCTION_LEVEL_RESET, FLR_COMPLETE,
MSIX_COALESCE_EXPIRE, INBOUND_ACCESS, TWILL_PLANE_FAIL, TWILL_PLANE_UP and TWILL_REMOTE_ACCESS (R341, R390, R407 to R419, R454): the host's
writes and the traffic of peers and of other modules. What a register write brings about comes next, before any later request. The
model's own choices here are the judgement of QCBs (log entries 37, 38 and 91), when UNBIND and a reset complete and MSI-X is unmasked
(39 and 128), what a module that is not awake ignores (41), and that function numbers of 128 and above name no function (85). -/
def Obligations.HostAndPeers : Prop :=
  ∀ (s a : State) (fn queue off p pa n peer port requester : Nat) (x bus : Word64) (bs data : List Byte) (tr : Translation) (i : Instr),
    let key := queueKey fn queue
    let q := s.queue key
    let ends := fun (i : Instr) (result : State → Prop) => ∃ t, exec i s = .next t ∧ result t
    let bound := fun (t : State) (op status : Nat) (busy : Bool) =>
      (t.fn 0).reg regQbind = (bindWord op fn queue + status * 2 ^ 56 + if busy then 2 ^ 63 else 0) % 2 ^ 64
    let free := s.awake = true ∧ s.binding = false
    let root := (s.part (s.fn fn).part).root * 160
    let inside := 0 < n ∧ s.awake = true ∧ s.inWindow bus.toNat n = some (pa, fn) ∧ s.inboundOk pa n fn = true
    let answered := fun (t : State) =>
      ∃ l, t.answers = s.answers ++ [some l] ∧ l.length = n ∧
        (s.poisoned pa n = false → s.memoryInv → ∀ k b, l[k]? = some b →
          b = Memory.read s.mem (pa + k) ∨ s.wroteByte (fun _ => False) (pa + k) b)
    let reach := if fn = 0 then List.range 128 else [fn]
    let write := fun (i : Instr) (event : Instr) =>
      s.awake = true → s.resetWaits = false → ends i fun t => t = { s with agenda := event :: s.agenda }
    let took := fun (t : State) =>
      (s.memoryInv → ∀ k b, data[k]? = some b → Memory.read t.mem (pa + k) = b) ∧ t.answers = s.answers ∧
        KeepsBytes s t fun y => pa ≤ y ∧ y < pa + data.length
    (s.awake = true → s.mayNotify fn x = true → queue = x.toNat → s.poisoned q.qcb 24 = false → s.physRead q.qcb 24 = (bs, a) →
      ends (.notify fn x) fun t =>
        (t.queue key).tail = fieldAt bs 20 4 ∧ (t.queue key).ringBase = fieldAt bs 0 8 ∧ (t.queue key).ringSize = fieldAt bs 8 4 ∧
          (t.queue key).started = true ∧ (t.queue key).waits = false) ∧
    (s.awake = true → fn < 128 → s.mayNotify fn x = false → ends (.notify fn x) fun t =>
      t = { s with fns := t.fns } ∧ t.fn fn = { s.fn fn with drops := ((s.fn fn).drops + 1) % 2 ^ 64 }) ∧
    (s.awake = false → ∀ i ∈ [Instr.notify fn x, .qbindBind fn queue x, .qbindUnbind fn queue x, .qbindRebind fn queue x, .trootWrite fn x,
        .fncfgWrite fn x, .functionLevelReset fn, .registerWrite .bar0 fn off x, .registerWrite .sched p off x], exec i s = .next s) ∧
    (128 ≤ fn → ∀ i ∈ [Instr.notify fn x, .trootWrite fn x, .functionLevelReset fn, .fncfgWrite fn x], exec i s = .next s) ∧
    (s.resetWaits = false → 128 ≤ fn ∨ off % 8 ≠ 0 ∨ (4096 ≤ off ∧ fn ≠ 0) → exec (.registerWrite .bar0 fn off x) s = .next s) ∧
    (128 ≤ fn ∨ off % 8 ≠ 0 ∨ (4096 ≤ off ∧ fn ≠ 0) → s.readBar fn off = 0) ∧
    (s.awake = true → s.resetWaits = true → ∀ space, ends (.registerWrite space fn off x) fun t =>
      t = { s with waiting := s.waiting ++ [.registerWrite space fn off x] }) ∧
    (free → s.tryBind fn queue x.toNat = some a → ends (.qbindBind fn queue x) fun t =>
      bound t 0 0 false ∧ (t.queue key).bound = true ∧ (t.queue key).qcb = x.toNat ∧ t.mem = a.mem) ∧
    (free → s.tryBind fn queue x.toNat = none → ends (.qbindBind fn queue x) fun t => bound t 0 1 false ∧ t.queues = s.queues) ∧
    (free → (s.fn 0).reg regQbind ≠ bindWord 1 fn queue + 2 ^ 63 → q.bound = true → (s.fn fn).inReset = false → ends (.qbindUnbind fn queue x) fun t =>
      if s.idleQueue key then bound t 1 0 false ∧ Map.find t.queues key = none else bound t 1 0 true ∧ t.queues = s.queues) ∧
    (s.awake = true → (s.fn 0).reg regQbind = bindWord 1 fn queue + 2 ^ 63 → s.idleQueue key = true → ends (.qbindUnbind fn queue x) fun t =>
      bound t 1 0 false ∧ Map.find t.queues key = none) ∧
    (free → q.bound = true → (s.fn fn).inReset = false → s.hasRoom root = true → ends (.qbindRebind fn queue x) fun t =>
      if (s.privileged q.qcb).1 = [q.rcb, q.tenant, q.qclass, q.prio, (s.fn fn).part] then bound t 2 0 false
      else bound t 2 2 false ∧ ∃ r, (t.die (dieOfCore root)).pending = (s.die (dieOfCore root)).pending ++ [r]) ∧
    (ends (.fncfgWrite fn x) fun t =>
      if s.mayConfigure fn x.toNat then
        t.fn fn = { s.fn fn with
          tenant := BitVec.ofNat 16 (bits x.toNat 15 0), queues := bits x.toNat 31 16, counters := bits x.toNat 47 32 * 16
          part := bits x.toNat 55 48, pool := if (s.fn fn).part = bits x.toNat 55 48 then (s.fn fn).pool else [] }
      else t = s) ∧
    (s.awake = true → fn < 128 → ends (.trootWrite fn x) fun t =>
      t = { s with fns := t.fns } ∧ t.fn fn = { s.fn fn with troot := x &&& 0x000FFFFFFFFFF801 }) ∧
    (fn < 128 → write (.registerWrite .bar0 fn 0 x) (.notify fn x)) ∧
    (fn < 128 → write (.registerWrite .bar0 fn 0x20 x) (.trootWrite fn x)) ∧
    (n < 128 → write (.registerWrite .bar0 0 (0x1000 + 16 * n) x) (.fncfgWrite n x)) ∧
    (s.awake = true → s.resetWaits = false → (Map.find s.parts p).isSome → s.scheduled p = true → s.pastQueued p = false →
      ends (.registerWrite .sched p regRootRcb x) fun t => t = { s with parts := t.parts } ∧ (t.part p).reg regRootRcb = x) ∧
    (s.awake = true → s.resetWaits = false → (Map.find s.parts p).isSome → s.scheduled p = true →
      bit ((s.part p).reg regScmdStat).toNat 63 = false → 0 < x.toNat →
      scmdEvent x.toNat p ((s.part p).reg 0x48) ((s.part p).reg 0x50) ((s.part p).reg 0x58) = some i →
      ends (.registerWrite .sched p regScmd x) fun t =>
        t.agenda = i :: s.agenda ∧ (t.part p).reg regScmdStat = BitVec.ofNat 64 (2 ^ 63)) ∧
    (s.resetWaits = false → s.scheduled p = false → exec (.registerWrite .sched p off x) s = .next s) ∧
    (s.awake = true → s.resetWaits = false → fn < 128 → a = reach.foldl (fun (t : State) k => t.resetFn k) s → a.reportsFit = true →
      exec (.functionLevelReset fn) s = .next a ∧ ∀ k ∈ reach, (a.fn k).inReset = true ∧
        ∀ m l, Map.find a.slices m = some l → l.fn = k → (Map.find s.slices m).isSome → l.past = true ∨ l.state = .killed) ∧
    ((s.fn fn).inReset = true → (s.fn fn).scrubbing = false → (∀ l ∈ s.slices, l.2.fn = fn → l.2.past = true) →
      ends (.flrComplete fn) fun t =>
        (t.fn fn).inReset = false ∧ (t.fn fn).troot = 0 ∧ (t.fn fn).masked = true ∧ (t.fn fn).tenant = (s.fn fn).tenant ∧
          (∀ y ∈ t.queues, y.1 / 65536 ≠ fn) ∧ (∀ y ∈ t.counters, y.1 / 65536 ≠ fn) ∧ t.mem = s.mem) ∧
    ((s.fn fn).owed.contains 0 = true → (s.fn fn).masked = false → Map.at (s.fn fn).sentAt 0 0 + 10000 ≤ s.ptime →
      ends (.msixCoalesceExpire fn) fun t =>
        t = { s with fns := t.fns } ∧ (t.fn fn).raised = (s.fn fn).raised ++ [0] ∧ 0 ∉ (t.fn fn).owed ∧
          Map.find (t.fn fn).sentAt 0 = some s.ptime) ∧
    ((s.fn fn).masked = true → (s.fn fn).owed ≠ [] → ends (.msixCoalesceExpire fn) fun t =>
      t = { s with fns := t.fns, freeCtr := t.freeCtr } ∧
        (t.fn fn = s.fn fn ∨ (t.fn fn).masked = false ∧ ∀ v ∈ (s.fn fn).owed, v ∈ (t.fn fn).raised ∨ (v = 0 ∧ 0 ∈ (t.fn fn).owed))) ∧
    (inside → ends (.inboundAccess port requester bus (.read n)) answered) ∧
    (inside → n = data.length → ends (.inboundAccess port requester bus (.write data)) took) ∧
    (n = data.length → (s.awake = false ∨ s.inWindow bus.toNat n = none ∨
        s.inWindow bus.toNat n = some (pa, fn) ∧ s.inboundOk pa n fn = false) →
      ∀ access ∈ [BusAccess.read n, .write data], ends (.inboundAccess port requester bus access) fun t =>
        t = { s with answers := s.answers ++ [none] }) ∧
    (ends (.twillPlaneFail n) fun t =>
      t = { s with planesDown := t.planesDown } ∧ ∀ k, k ∈ t.planesDown ↔ k ∈ s.planesDown ∨ k = n ∧ n < 18) ∧
    (ends (.twillPlaneUp n) fun t => t = { s with planesDown := t.planesDown } ∧ ∀ k, k ∈ t.planesDown ↔ k ∈ s.planesDown ∧ k ≠ n) ∧
    (∀ request, s.inRecovery (s.askedPart request) = true → ends (.twillRemoteAccess peer request) fun t =>
      t = { s with answers := s.answers ++ [none] }) ∧
    (s.inRecovery (s.partOfDie (pa / (96 * 2 ^ 30))) = false →
      (stored pa = true → ends (.twillRemoteAccess peer (.read pa n)) answered ∧ ends (.twillRemoteAccess peer (.write pa data)) took) ∧
      (stored pa = false → exec (.twillRemoteAccess peer (.write pa data)) s = .next s ∧
        ends (.twillRemoteAccess peer (.read pa n)) fun t =>
          ∃ l, l.length = n ∧ t = { s with answers := s.answers ++ [some l], freeCtr := t.freeCtr })) ∧
    (∀ j, Map.find s.jobs n = some j → s.inRecovery (s.fn j.fn).part = false → ends (.twillRemoteAccess peer (.partialValue n data)) fun t =>
      t = { s with jobs := t.jobs } ∧ Map.find t.jobs n = some { j with partials := j.partials ++ [data] }) ∧
    (s.inRecovery (s.fn fn).part = false → s.walk fn n = (.leaf tr, a) → tr.remote = true → (a.fn fn).reg regEvSize = 0 → s.memoryInv →
      (∀ j < 8, ∀ b, ¬s.wroteByte (fun _ => False) (tr.leaf + j) b) → ends (.twillRemoteAccess peer (.unsettle fn n)) fun t =>
        bit (Memory.readNat t.mem tr.leaf 8) 58 = false ∧ bits (Memory.readNat t.mem tr.leaf 8) 62 59 = 0)

/-- CHECKPOINT_TIMER, CHECKPOINT_REQUEST, CHECKPOINT_CUT, CHECKPOINT_STREAM, CHECKPOINT_IMAGE_COMPLETE, LAUNCH_ROLLBACK, MIG_START, MIG_ROUND,
MIG_STOP, MIG_RESUME and MIG_CANCEL (R423 to R425, R430, R431, R434, R435, R463 to R467). The timer registers a request at each expiry;
a request is decided on its descriptor as it is registered; a cut is taken at its time, and its image is streamed record by record and
ends with its directory entry and the descriptor's SEQ; a launch that consumed poison is rolled back or killed; the commands of MIGCTL
track a function's pages, write the bitmap of a round, stop the function and resume it. The scope of a checkpoint, when the engine
looks at TIMER, an image's number, its place, the poison of its units and the bit order of a bitmap are the model's (log entries 43, 45,
47 and 68). -/
def Obligations.CheckpointAndMigration : Prop :=
  ∀ (s a : State) (n fn power switch u y : Nat) (tg : Target) (override : Bool) (x : Stream) (r : ImageRecord) (rest : List ImageRecord)
    (m : Migration) (bitmap : Word64) (st : StateRecord) (met : Met),
    let c := s.ckpt n
    let l := s.slice n
    let root := (s.part (s.fn c.fn).part).root * 160
    let shared := power = s.root.power.toNat ∨ switch = s.root.switch.toNat
    let may := l.live = true ∧ (s.ctx n).ckptEn = true ∧ l.discarded = false
    let reading := s.readDescriptor c.fn (s.descriptorAt n)
    let asks := c.decided = none ∧ (l.ckptAsked = some y ∨ l.ckptAsked = none ∧ may ∧ y = s.ptime)
    let decides := (s.askCheckpoint n).readDescriptor c.fn (s.descriptorAt n)
    let put := fun (b : State) (addr : Nat) (bs : List Byte) => b.devicePut (b.deviceWalker c.fn) (addr % 2 ^ 56) bs
    let reported := fun (t : State) => ∃ z, (t.die (dieOfCore root)).pending = (a.die (dieOfCore root)).pending ++ [z]
    let consumed := fun (t : State) => (t.slice n).ckptAsked = none ∧ t.ckpt n = c
    let failed := fun (t : State) =>
      (t.ckpt n).stream = none ∧ (t.ckpt n).full = true ∧ (t.ckpt n).ended = s.ptime ∧
        (t.ckpt n).decided = (c.decided.map fun d => (d.1, wholeMicro (s.ptime + 2000))) ∧
        t.mem = (put (s.writeEntry c x 4) (x.target.addr + 0x28) [4]).2.mem
    let status : Byte := if x.target.coLocated then 2 else 1
    let base := x.target.base + x.start + x.written
    let ending := put (s.writeEntry c x status) (x.target.addr + 0x20) (bytesOfNat 8 x.seq ++ [status])
    let free := s.awake = true ∧ s.migBusy = false
    let ends := fun (i : Instr) (result : State → Prop) => ∃ t, exec i s = .next t ∧ result t
    let command := fun (t : State) (op rounds status : Nat) (busy : Bool) =>
      (t.fn 0).reg regMigctl =
        ((rounds % 256 * 2 ^ 48 + op * 2 ^ 32 + fn * 65536) % 2 ^ 56 + status * 2 ^ 56 + if busy then 2 ^ 63 else 0) % 2 ^ 64
    (may → c.timed = none ∨ c.timed = some y ∧ c.interval = none ∧ y + 1000000 ≤ s.ptime → ends (.checkpointTimer n) fun t =>
      (t.ckpt n).timed = some s.ptime ∧ t.mem = reading.2.mem ∧
        (t.ckpt n).interval = match reading.1 with
          | .ok z _ _ _ => z.interval
          | _ => none) ∧
    (∀ i, may → c.timed = some y → c.interval = some i → y + i ≤ s.ptime →
      ends (.checkpointTimer n) fun t => (t.ckpt n).timed = some (y + i) ∧ (t.slice n).ckptAsked.isSome = true ∧ t.mem = reading.2.mem) ∧
    (¬may ∨ c.timed = some y ∧ s.ptime < y + c.interval.getD 1000000 → exec (.checkpointTimer n) s = .next s) ∧
    (asks → decides = (.ok tg power switch override, a) →
      (shared → override = false → a.hasRoom root = true → ends (.checkpointRequest n) fun t =>
        consumed t ∧ t.mem = (put a (s.descriptorAt n + 0x28) [3]).2.mem) ∧
      ((shared → override = true) → a.reportsFit = true → ends (.checkpointRequest n) fun t =>
        t.mem = a.mem ∧ (t.slice n).ckptAsked.isSome = (Map.find s.slices n).isSome ∧
          ∃ z, (t.ckpt n).decided = some (z, wholeMicro (max y c.ended + 2000)) ∧ (z.coLocated = true ↔ shared) ∧
            z = { tg with coLocated := z.coLocated })) ∧
    (asks → decides = (.bad, a) → a.hasRoom root = true → ends (.checkpointRequest n) fun t =>
      consumed t ∧ t.mem = (put a (s.descriptorAt n + 0x28) [5]).2.mem) ∧
    (asks → decides = (.met met, a) → a.hasRoom root = true → ends (.checkpointRequest n) fun t =>
      consumed t ∧ t.mem = a.mem ∧ reported t) ∧
    (c.decided.isSome ∨ l.ckptAsked = none ∧ ¬may → exec (.checkpointRequest n) s = .next s) ∧
    (c.decided = some (tg, y) → c.stream = none → y ≤ s.ptime → l.live = true → l.discarded = false →
      (s.collecting n = false → (s.takeCut n tg y).reportsFit = true → ends (.checkpointCut n) fun t =>
        (t.slice n).ckptAsked = none ∧ (t.ckpt n).decided = none ∧ (t.ckpt n).next = c.number tg + 1 ∧
          (∀ k ∈ s.contextSlices n, s.ptime < (t.slice k).notBefore) ∧
          match (t.ckpt n).stream with
          | some z =>
            z.target = tg ∧ z.cutAt = y ∧ z.seq = c.number tg ∧ z.written = 0 ∧ z.failed = false ∧
              z.start + z.length ≤ tg.size ∧ (tg.coLocated = true → (t.node (nodeKey (s.fn c.fn).part c.rcb)).ctx.noIndep = true) ∧
              ∃ rs, z.left = { bytes := imageHeader z c.rcb z.length rs.length } :: rs ∧
                z.length = 64 + (rs.map fun r => r.bytes.length).sum
          | none => (t.ckpt n).full = true ∧ (t.ckpt n).ended = s.ptime) ∧
      (s.collecting n = true → ends (.checkpointCut n) fun t =>
        t = { s with ckpts := t.ckpts } ∧ t.ckpt n = { c with decided := some (tg, wholeMicro (s.ptime + 1)) })) ∧
    (c.decided = some (tg, y) → c.stream = none → y ≤ s.ptime → l.live = false ∨ l.discarded = true → ends (.checkpointCut n) fun t =>
      (t.ckpt n).decided = none ∧ (t.slice n).ckptAsked = none ∧ t = { s with ckpts := t.ckpts, slices := t.slices }) ∧
    (c.decided = none ∨ c.decided = some (tg, y) ∧ (s.ptime < y ∨ c.stream.isSome) → exec (.checkpointCut n) s = .next s) ∧
    (c.stream = some x → x.failed = false → (s.fn c.fn).inReset = false → s.leftOf n x = r :: rest →
      (targetTakes base r.bytes.length = false → s.hasRoom root = true) → ends (.checkpointStream n) fun t =>
        (targetTakes base r.bytes.length = false → failed t) ∧
        (targetTakes base r.bytes.length = true →
          (t.ckpt n).stream = some { x with written := x.written + r.bytes.length, left := rest } ∧
          (s.memoryInv → Memory.readBytes t.mem base r.bytes.length = r.bytes) ∧
          (∀ z ∈ r.toxic, (base + z, 128) ∈ t.toxic) ∧
          (r.copied = false → ∀ z ∈ s.unitToxic r.unit, (base + (z + 16), 128) ∈ t.toxic) ∧
          KeepsBytes s t fun b => base ≤ b ∧ b < base + r.bytes.length)) ∧
    (c.stream = some x → x.failed = true ∨ (s.fn c.fn).inReset = true → s.hasRoom root = true → ends (.checkpointStream n) failed) ∧
    (c.stream = none ∨ c.stream = some x ∧ x.failed = false ∧ (s.fn c.fn).inReset = false ∧ s.leftOf n x = [] →
      exec (.checkpointStream n) s = .next s) ∧
    (c.stream = some x → x.left = [] → x.failed = false →
      (ending = (.ok (), a) → a.reportsFit = true → ends (.checkpointImageComplete n) fun t =>
        t.mem = a.mem ∧ (t.ckpt n).stream = none ∧ (t.ckpt n).ended = s.ptime ∧ (t.ckpt n).full = false ∧
          (t.node (nodeKey (s.fn c.fn).part c.rcb)).ctx.noIndep =
            (x.target.coLocated && (s.node (nodeKey (s.fn c.fn).part c.rcb)).ctx.noIndep) ∧
          (t.ckpt n).decided = c.decided.map fun d =>
            ({ d.1 with seq := if x.target.addr = d.1.addr then x.seq else d.1.seq }, wholeMicro (s.ptime + 2000))) ∧
      (ending = (.error met, a) → a.hasRoom root = true → ends (.checkpointImageComplete n) fun t =>
        (t.ckpt n).stream = none ∧ (t.ckpt n).ended = s.ptime ∧ (t.ckpt n).full = true ∧ reported t ∧
          t.mem = (a.writeEntry c x 4).mem)) ∧
    (c.stream = none ∨ c.stream = some x ∧ (x.left ≠ [] ∨ x.failed = true) → exec (.checkpointImageComplete n) s = .next s) ∧
    (s.poisonedSub n = some u → s.declaresWrites n = true → l.irrevocable = false → l.rollbacks < 2 →
      ends (.launchRollback n) fun t =>
        (t.slice n).state = .queued ∧ (t.slice n).rollbacks = l.rollbacks + 1 ∧ (t.slice n).snapshot = [] ∧ (t.slice n).failure = none ∧
          (t.slice n).budget = fieldAt l.entry 0x10 8 % 2 ^ 40 ∧ (∀ z ∈ t.gangs, l.subs.contains z.2.sub = false) ∧
          (∀ z ∈ t.teams, l.subs.contains z.2.sub = false) ∧ (t.ckpt n).full = true ∧
          (s.memoryInv → (∀ f ∈ l.snapPages, f % 65536 = 0 ∧ f + 65536 ≤ hbmBytes) → (l.snapshot.map Prod.fst).Nodup →
            (∀ z ∈ l.snapshot, ∃ f ∈ l.snapPages, f ≤ z.1 ∧ z.1 < f + 65536) → (∀ j ∈ s.jobs, j.2.slice ≠ n) →
            ∀ f ∈ l.snapPages, ∀ j < 65536, Memory.read t.mem (f + j) = (Map.find l.snapshot (f + j)).getD 0)) ∧
    (s.poisonedSub n = some u → (s.declaresWrites n = false ∨ l.irrevocable = true ∨ 2 ≤ l.rollbacks) →
      (s.killSlice n poisonKilled (s.sub u).index causePoison).reportsFit = true → ends (.launchRollback n) fun t =>
        ∀ z, Map.find t.slices n = some z → z.state = .killed ∨ z.state = .retired) ∧
    (s.poisonedSub n = none → exec (.launchRollback n) s = .next s) ∧
    (free → s.mayStart fn bitmap = true → ends (.migStart fn bitmap) fun t =>
      (t.fn fn).mig = some { base := (s.fn 0).reg regMigVa, pages := (s.fn 0).reg regMigNp, bitmap := bitmap.toNat } ∧ command t 0 0 0 false) ∧
    (free → s.mayStart fn bitmap = false → ends (.migStart fn bitmap) fun t => command t 0 (s.migRounds fn) 1 false ∧ t.slices = s.slices) ∧
    (free → (s.fn fn).mig = some m → m.due = none → m.stopping = false → bitmap.toNat % 8 = 0 → ends (.migRound fn bitmap) fun t =>
      (t.fn fn).mig = some { m with bitmap := bitmap.toNat, due := some (wholeMicro (s.ptime + 2000)) } ∧ command t 1 m.rounds 0 true) ∧
    (s.awake = true → (s.fn fn).mig = some m → m.due = some y → m.stopping = false → y ≤ s.ptime → ends (.migRound fn bitmap) fun t =>
      (t.fn fn).mig = some { m with dirty := [], rounds := m.rounds + 1, due := none } ∧ command t 1 (m.rounds + 1) 0 false ∧
        (s.memoryInv → stored m.bitmap = true → ∀ k < (m.pages + 7) / 8 * 8,
          (Memory.read t.mem (m.bitmap + k / 8)).getLsbD (k % 8) =
            decide (k < m.pages ∧ (m.rounds = 0 ∨ m.dirty.contains (m.base + 65536 * k) = true)))) ∧
    (free → (s.fn fn).mig = some m → m.stopping = false → m.stopped = false → bitmap.toNat % 8 = 0 → (s.fn 0).reg regMigState % 64 = 0 →
      ends (.migStop fn bitmap) fun t =>
        (t.fn fn).mig = some { m with bitmap := bitmap.toNat, stopping := true } ∧ command t 2 m.rounds 0 true ∧
          ∀ k ∈ s.liveSlices fn, ∀ g ∈ s.standingGangs k, (s.gang g).stands = true →
            (t.gang g).requested = true ∨ (t.gang g).draining.isSome = true) ∧
    (s.awake = true → (s.fn fn).mig = some m → m.stopping = true → m.stopped = false → m.due = none → s.stillRuns fn = false →
      ((s.liveSlices fn).foldl (fun (s : State) n => s.settleSave n) s).reportsFit = true → ends (.migStop fn bitmap) fun t =>
        ((t.fn fn).mig.map fun z => z.due) = some (some (wholeMicro (s.ptime + 2000)))) ∧
    (s.awake = true → (s.fn fn).mig = some m → m.stopping = true → m.stopped = false → m.due = some y → y ≤ s.ptime → s.reportsFit = true →
      ends (.migStop fn bitmap) fun t =>
        (t.fn fn).mig = some { m with dirty := [], rounds := m.rounds + 1, due := none, stopped := true } ∧
          command t 2 (m.rounds + 1) 0 false ∧
          (s.memoryInv → stored ((s.fn 0).reg regMigState) = true →
            Memory.readBytes t.mem ((s.fn 0).reg regMigState) (s.stateRecord fn).length = s.stateRecord fn)) ∧
    (∀ b z, free → s.readStateRecord = (some st, b) → b.readyFor fn st = true → b.resumeFunction fn st = some z → z.reportsFit = true →
      ends (.migResume fn bitmap) fun t =>
        command t 3 (z.migRounds fn) 0 false ∧ t.slices = z.slices ∧
          ∀ k v, st.counters[k]? = some v → t.counter (counterKey fn k) = (BitVec.ofNat 32 v).toInt) ∧
    (free → s.readStateRecord.1 = none → ends (.migResume fn bitmap) fun t => command t 3 (s.migRounds fn) 1 false ∧ t.slices = s.slices) ∧
    (free → (s.fn fn).mig = some m → m.stopping = false → ends (.migCancel fn bitmap) fun t =>
      (t.fn fn).mig = none ∧ command t 4 m.rounds 0 false ∧ t.slices = s.slices)

/-- POWER_UP, ROM_BOOT, RAIL_OUT_OF_RANGE, THERMAL_THROTTLE, THERMAL_RECOVER, FWLOAD, the commands of the management interface and
SCRUB_RECORD (R457 to R462, R469 to R471). The root of trust boots the operator's firmware before anything else; a rail out of range
stands the module still, and of what was under way nothing goes on; a partition whose policy allows it loads customer firmware, which
is measured; management commands are carried out one at a time, and wait while a lease reset runs, but for one that is merged into it;
a lease reset zeroes what it covers, and its record says which partitions stay halted. What a power-up keeps, what a rail fault and a
failed load leave, how partitions are numbered and what becomes of their functions' shares, and what a lease reset keeps are the
model's (log entries 63 to 66 and 78). -/
def Obligations.FirmwareEvents : Prop :=
  ∀ (s a : State) (flash head : List Byte) (rail : Rail) (die part core slot : Nat) (image mask : Word64) (auth : MgmtAuth)
    (masks : List (BitVec 16)) (power switch : BitVec 16) (key : Option (BitVec 512)) (floor flags : BitVec 32) (object : MgmtObject)
    (l : Lease),
    let ends := fun (i : Instr) (result : State → Prop) => ∃ t, exec i s = .next t ∧ result t
    let r := { s.root with nonce := auth.nonce }
    let runs := fun (t : State) (dies : List Nat) (f : Option (List Byte × Nat)) => ∀ d ∈ dies, (t.die d).firmware = f
    let dies := (s.part part).dies
    let permitted := s.awake = true ∧ (Map.find s.parts part).isSome ∧
      (s.part part).policy.getLsbD 0 = true ∧ s.partRuns part = true ∧ s.physRead image.toNat 256 = (head, a)
    let loaded := fun (t : State) (status : Nat) => (t.fn 0).reg regFwload = (part % 2 ^ 56 + status * 2 ^ 56) % 2 ^ 64
    (s.root.up = false → ends (.powerUp flash) fun t =>
      t = { s with root := t.root, agenda := .romBoot :: s.agenda, dies := t.dies } ∧
        t.root = { s.root with up := true, flash := flash, booting := true, booted := false, measured := [] } ∧
        runs t (List.range 16) none) ∧
    (s.root.up = true → exec (.powerUp flash) s = .next s) ∧
    (s.root.up = true → s.root.booting = true → ends .romBoot fun t =>
      t = { s with root := t.root, dies := t.dies } ∧ t.root.booting = false ∧ t.root.booted = s.root.operatorImage.isSome ∧
        Map.find t.root.measured 0 = some (sm3 (measuredPart s.root.flash)) ∧
        runs t ((List.range 16).filter fun d => s.partRuns (s.partOfDie d)) s.root.operatorImage) ∧
    (ends (.railOutOfRange rail) fun t =>
      t = { s with root := t.root, parts := t.parts, dies := t.dies, agenda := t.agenda, waiting := [] } ∧
        t.root = { s.root with halted := true, up := s.root.up && rail != .vaux, resetFrom := none } ∧ runs t (List.range 16) none ∧
        (∀ p ∈ t.parts, p.2.halted = true ∧ p.2.resetFrom = none) ∧ (∀ d ∈ t.dies, d.2.fresh = false) ∧
        t.agenda.Sublist s.agenda ∧ ∀ p, Instr.scrubRecord p ∉ t.agenda) ∧
    ((s.die die).throttled = false → ends (.thermalThrottle die) fun t =>
      t = { s with dies := t.dies } ∧ (t.die die).throttled = true ∧
        ∃ e, (t.die die).log = Map.put (s.die die).log (s.die die).logNext e ∧ e.headD 0 = 3) ∧
    (ends (.thermalRecover die) fun t => t = { s with dies := t.dies } ∧ t.die die = { s.die die with throttled := false }) ∧
    (permitted → manifestOf head = none ∨ image.toNat % 256 ≠ 0 → ends (.fwload part image) fun t => loaded t 2 ∧ runs t dies none) ∧
    (∀ m, permitted → manifestOf head = some m → image.toNat % 256 = 0 →
      ends (.fwload part image) fun t =>
        ∃ body, loaded t (if sm3 body = m.digest then 0 else 3) ∧ runs t dies (if sm3 body = m.digest then some (body, m.entry) else none) ∧
          Map.find t.root.measured (1 + part) = some (sm3 (head ++ body)) ∧ body.length = m.length) ∧
    (s.awake = true → (Map.find s.parts part).isNone ∨ (s.part part).policy.getLsbD 0 = false ∨ s.partRuns part = false →
      ends (.fwload part image) fun t => loaded t 1 ∧ t.dies = s.dies) ∧
    (s.accepted auth = true → s.resetting = false →
      ends (.mgmtSetfd auth power switch) (fun t => t = { s with root := { r with power := power, switch := switch } }) ∧
      ends (.mgmtKeyslot auth slot key floor) (fun t => t = { s with root := r.setSlot slot key floor }) ∧
      ends (.mgmtPolicy auth part flags) (fun t =>
        t = { s with root := r, parts := t.parts } ∧
          ∀ p x, Map.find s.parts p = some x → t.part p = if p = part then { x with policy := flags } else x) ∧
      (s.gangsOn core = [] → ends (.mgmtCapset auth core mask) fun t =>
        t = { s with root := r, cores := t.cores } ∧ t.core core = { s.core core with capmask := (s.core core).capmask ||| mask }) ∧
      (s.mayReshape masks = true → ends (.mgmtPartition auth masks) fun t =>
        let dies := masks.flatMap diesOf
        let kept := s.parts.filter fun p => !p.2.dies.all dies.contains
        t = { s with
              root := r, parts := t.parts, mem := t.mem, poison := t.poison, dirtyLines := t.dirtyLines, savedLines := t.savedLines
              fns := t.fns } ∧
          (∀ n, t.fn n = s.fn n ∨ t.fn n = { s.fn n with queues := 0, counters := 0 }) ∧
          (∀ p, (Map.find t.parts p).isSome → t.shareKept p = true) ∧
          (∀ m ∈ masks, ∃ p x, Map.find t.parts p = some x ∧ x.dies = diesOf m ∧ x.root = (diesOf m).headD 0) ∧
          ∀ x, ((∀ p, ownerOf x = some (Region.chip.code, p) → (Map.find kept p).isSome) → Memory.read t.mem x = Memory.read s.mem x) ∧
            ∀ p, ownerOf x = some (Region.chip.code, p) → Map.find kept p = none → Memory.read t.mem x = 0) ∧
      (s.mayReshape masks = false → ends (.mgmtPartition auth masks) fun t => t = { s with root := r }) ∧
      ({ s with root := r }.leaseOf part = some l → { s with root := r }.leaseRuns l = false → ends (.mgmtLeaseReset auth part) fun t =>
        (∀ x, l.cell x = true → Memory.read t.mem x = 0) ∧ t.leaseSince l = some s.ptime ∧
          (∃ more, t.agenda = more ++ [.scrubRecord part]) ∧ (∀ k, l.frame k = true → t.frame k = {}) ∧
          ∀ x ∈ t.slices, l.covers (t.fn x.2.fn).part = false)) ∧
    (s.accepted auth = true → s.leaseOf part = some l → s.leaseRuns l = true → ends (.mgmtLeaseReset auth part) fun t =>
      t = { s with root := r }) ∧
    (∀ i ∈ [Instr.mgmtSetfd auth power switch, .mgmtKeyslot auth slot key floor, .mgmtPolicy auth part flags, .mgmtCapset auth core mask,
        .mgmtPartition auth masks, .mgmtLeaseReset auth part],
      (s.accepted auth = false → s.resetting = false → exec i s = .next s) ∧
        (s.resetting = true → (s.leaseOf part).map s.leaseRuns ≠ some true → ends i fun t => t = { s with agenda := s.agenda ++ [i] })) ∧
    (s.root.up = true → s.root.booting = false → s.resetting = false → ends (.mgmtRead object) fun t => t = { s with answers := s.answers ++ [some (s.mgmtObject object)] }) ∧
    (∀ start, s.leaseOf part = some l → s.leaseSince l = some start → ends (.scrubRecord part) fun t =>
      t.root.leaseCtr = s.root.leaseCtr + 1 ∧ t.leaseSince l = none ∧ t.mem = s.mem ∧
        (t.root.scrubbed.getD 5 0 = 0 ∨ t.root.scrubbed.getD 5 0 = 1) ∧
        ∀ p, l.covers p = true → (Map.find s.parts p).isSome →
          (t.root.scrubbed.getD 5 0 = 0 → (t.part p).halted = false) ∧
            (l.part = some p → t.root.scrubbed.getD 5 0 = 1 → (t.part p).halted = true))

/-- The words that the manual's worked examples write out decode to the instructions that they stand for (R70 to R75, R79): IADD,
NOP, ICMP, FCVT, PERM, BRA, SIGN, two LD, ST, LDM, WAITV, CPY, MMA, MMAQ and ACCX. -/
def Obligations.DecodesWorkedWords : Prop :=
  let decoded := fun (w : Word96) (i : Instr) => decode w = .ok i
  decoded 0x12C0E98407A01024800 (.iadd ⟨false, 2, .v 9, .v 4, .imm, .zero, .w, 0, 0, true, false, true, false, false, false, 0x12C⟩) ∧
    decoded 0xE90003A7A7A5DC9 (.nop ⟨false, 7, .zero, .zero, .zero, .zero, .d, 0, 0, false, false, false, false, false, false, 0x0⟩) ∧
    decoded 0xC20220100F05C80 (.icmp ⟨false, 7, .p 1, .v 3, .v 4, .p 2, .d, 2, 2, false, false, false, false, false, false, 0x0⟩) ∧
    decoded 0x10E90463A4080DD00 (.fcvt ⟨false, 7, .v 3, .v 2, .zero, .zero, .d, 6, 0, true, false, false, false, false, false, 0x1⟩) ∧
    decoded 0xC90030141018580 (.perm ⟨false, 1, .v 6, .v 4, .v 5, .c 1, .d, 3, 0, false, false, false, false, false, false, 0x0⟩) ∧
    decoded 0x30E90003A7A7A45C0 (.bra ⟨false, 1, .zero, .zero, .zero, .zero, .d, 0, 0, false, false, false, false, false, false, 0x3⟩) ∧
    decoded 0xC80003A7A7A5E01 (.sign ⟨false, 7, .zero, .zero, .zero, .c 0, .d, 0, 0, false, false, false, false, false, false, 0x0⟩) ∧
    decoded 0x40000080E90127A40814640 (.ld ⟨false, 1, .v 5, .v 2, .zero, .zero, .w, 2, 1, false, false, false, false, false, false, 0x4000008⟩) ∧
    decoded 0x40000040E91107A41811E40 (.ld ⟨false, 7, .v 4, .v 6, .zero, .zero, .w, 0, 1, false, false, false, false, false, true, 0x4000004⟩) ∧
    decoded 0x10080E90006220FA5E41 (.st ⟨false, 7, .zero, .s 3, .s 8, .zero, .w, 0, 0, false, false, false, false, false, false, 0x1008⟩) ∧
    decoded 0x100020000E90023A7A421E42 (.ldm ⟨false, 7, .v 8, .zero, .zero, .zero, .d, 2, 0, false, false, false, false, false, false, 0x10002000⟩) ∧
    decoded 0x40070007A41B0DE84 (.waitv ⟨false, 7, .p 3, .v 6, .zero, .v 7, .w, 0, 0, false, false, false, false, false, false, 0x4⟩) ∧
    decoded 0x4000D30022220A11EC0 (.cpy ⟨false, 7, .s 4, .s 2, .s 8, .w 3, .d, 2, 0, false, false, false, false, false, false, 0x400⟩) ∧
    decoded 0x660C808004023C1F40 (.mma ⟨false, 7, .a 0, .v 8, .v 16, .c 0, .d, 0, 0, false, true, false, false, false, false, 0x66⟩) ∧
    decoded 0x600C0C800004023C1F42 (.mmaq ⟨false, 7, .a 0, .v 8, .v 16, .c 0, .d, 0, 0, false, false, false, false, false, false, 0x600C⟩) ∧
    decoded 0xE90003A467C1F82 (.accx ⟨false, 7, .a 0, .v 25, .zero, .zero, .d, 0, 0, false, false, false, false, false, false, 0x0⟩)

/-- Decoding and encoding agree: the word of a well-formed instruction decodes to it with every field, and a word that decodes
is the word of the well-formed instruction it decodes to. -/
def Obligations.EncodingRoundTrip : Prop :=
  (∀ (i : Instr) (f : Fields), i.fields = some f → i.wellFormed = true → ∃ w, encode i = some w ∧ decode w = .ok i) ∧
    ∀ (w : Word96) (i : Instr), decode w = .ok i → i.wellFormed = true ∧ encode i = some w

/-- A step runs what it has decoded. An event on the agenda is executed; a group drawn from a bin, and one that the selectors have
taken for this clock and whose turn it is, issues: the instruction that its word decodes to is executed; once all of what was
taken has issued, the clock is charged and passes; before the selectors choose, an event that is due at once comes about; where it
is the issue groups' turn, the selectors choose; and the bytes of a word placed at the slot of a group are fetched as that word. What
one step is, the turns that events, engines and selectors take, and the order of what several pipelines issue in one clock are the
model's choices (log entries 1 and 87); how a program comes to run from reset is said in log entry 4. -/
def Obligations.StepRunsDecoded : Prop :=
  (∀ (s : State) (i : Instr) (rest : List Instr), s.drawn = none → s.agenda = i :: rest → step s = exec i { s with agenda := rest }) ∧
    (∀ (s t : State) (g : Group) (w : Word96) (i : Instr), s.drawn = some g → { s with drawn := none }.fetch g = .word w t →
      decodeFor (t.env g) w = .ok i → step s = exec i { t with issuing := some g }) ∧
    (∀ (s t : State) (g : Group) (place index : Nat) (w : Word96) (i : Instr),
      let part := { s.takenPart g with stalled := false, picked := none }
      s.drawn = none → s.agenda = [] → s.root.up = true → s.root.halted = false → s.groups[index]? = some g →
      leastBy Prod.fst s.pending = some (place, .standing index) → part.members ≠ [] →
      (s.takeGroup index part).fetch part = .word w t → decodeFor (t.env part) w = .ok i →
      step s = exec i { t with issuing := some part }) ∧
    (∀ s : State, s.drawn = none → s.agenda = [] → s.root.up = true → s.root.halted = false → s.pending = [] →
      (s.chosen = true → s.nextLate = none → step s = .next s.closeClock.charge.tick) ∧
        (∀ i, s.chosen = true → s.nextLate = some i → step s = exec i s) ∧
        (∀ i, s.chosen = false → s.nextUrgent = some i → step s = exec i s) ∧
        (s.chosen = false → s.nextUrgent = none → s.turn % 3 = 2 → step s = .next { ({ s with turn := 0 } : State).choose with turn := 0 })) ∧
    ∀ (n w : Nat) (i : Instr), decodeTableWord n w = some i →
      ∃ t, step (State.reset.withFetchWord n w) = exec i t ∧ t.issuing = some { members := [(0, BitVec.allOnes 32)], pc := 0 }

/-- What reset leaves: every byte of memory, every register of every wave and every accumulator reads 0 (the value is the
model's choice where the manual gives none, log entries 5 and 7), key slot 0 holds the operator's first key (R458; which key that is
is open, log entry 6), the registers of a partition that R370, R446 and R454 give reset values have them, and the module does nothing
until it is powered (R471). -/
def Obligations.ResetState : Prop :=
  let s := State.reset
  (∀ a, Memory.read s.mem a = 0) ∧ (∀ u n l, (s.weave u).vread n l = 0 ∧ (s.weave u).sread n = 0) ∧
    (∀ u n, n ≠ 7 → (s.weave u).pred n = 0) ∧ (∀ t k, Map.at (s.team t).tiles 0 k = 0) ∧
    s.root.slots = [(0, Config.firstKey, 0)] ∧ s.root.up = false ∧ s.awake = false ∧
    (∀ p, (s.part p).look = 4 ∧ (s.part p).share = 8 ∧ (s.part p).ceiling = 2000000000 ∧ (s.part p).testing = true ∧
      (s.part p).reg regRootRcb = 0 ∧ ∀ c < 8, (s.part p).cap c = 0) ∧
    step s = .next s

/-- Reset memory has its canonical form. -/
def Obligations.ResetKeepsMemoryForm : Prop := State.reset.memoryInv

/-- The memory keeps its canonical form (rising addresses, no byte listed that an unlisted address reads as) in every step, from
every state that has it. -/
def Obligations.StepKeepsMemoryForm : Prop := ∀ s t : State, s.memoryInv → step s = .next t → t.memoryInv
end

