-- ==== Sys2Proof/Laws/Map.lean ====
section
/-! SUPPORT. Laws of finite maps: what is found after a put, a change or a drop. -/

namespace Sys2Proof.Machine

variable {α β : Type}

@[simp] theorem Map.find_nil (k : Nat) : Map.find ([] : Map α) k = none := rfl

theorem Map.find_cons (k : Nat) (v : α) (m : Map α) (key : Nat) :
    Map.find ((k, v) :: m) key = if k = key then some v else Map.find m key := rfl

/-- A map whose entries are changed each by its key. -/
theorem Map.find_mapEntries (h : Nat → α → β) (m : Map α) (k : Nat) :
    Map.find (List.map (fun e : Nat × α => (e.1, h e.1 e.2)) m : Map β) k = (Map.find m k).map (h k) := by
  induction m with
  | nil => rfl
  | cons e m ih =>
    obtain ⟨a, v⟩ := e
    by_cases hk : a = k <;> simp_all [Map.find]

theorem Map.find_change (m : Map α) (k : Nat) (g : α → α) (key : Nat) :
    Map.find (Map.change m k g) key = (Map.find m key).map fun v => if key = k then g v else v := by
  have h := Map.find_mapEntries (fun a v => if a = k then g v else v) m key
  rw [← h, Map.change]
  congr 1
  apply List.map_congr_left
  intro e _
  by_cases hk : e.1 = k <;> simp [hk]

theorem Map.find_changeAll (m : Map α) (g : Nat → α → α) (key : Nat) :
    Map.find (Map.changeAll m g) key = (Map.find m key).map (g key) :=
  Map.find_mapEntries g m key

theorem Map.find_put_self (m : Map α) (k : Nat) (v : α) : Map.find (Map.put m k v) k = some v := by
  induction m with
  | nil => simp [Map.put, Map.find]
  | cons e m ih =>
    obtain ⟨a, x⟩ := e
    by_cases h1 : a = k
    · simp [Map.put, Map.find, h1]
    · by_cases h2 : k < a <;> simp [Map.put, Map.find, h1, h2, ih]

theorem Map.find_put_other (m : Map α) (k : Nat) (v : α) (key : Nat) (hk : key ≠ k) :
    Map.find (Map.put m k v) key = Map.find m key := by
  induction m with
  | nil => simp [Map.put, Map.find, Ne.symm hk]
  | cons e m ih =>
    obtain ⟨a, x⟩ := e
    by_cases h1 : a = k
    · subst h1; simp [Map.put, Map.find, Ne.symm hk]
    · by_cases h2 : k < a
      · simp [Map.put, Map.find, h1, h2, Ne.symm hk]
      · simp [Map.put, Map.find, h1, h2, ih]

theorem Map.find_put (m : Map α) (k : Nat) (v : α) (key : Nat) :
    Map.find (Map.put m k v) key = if key = k then some v else Map.find m key := by
  by_cases h : key = k
  · subst h; simp [Map.find_put_self]
  · simp [h, Map.find_put_other m k v key h]

theorem Map.at_put (m : Map α) (d : α) (k : Nat) (v : α) (key : Nat) :
    Map.at (Map.put m k v) d key = if key = k then v else Map.at m d key := by
  simp only [Map.at, Map.find_put]; split <;> rfl

theorem Map.at_change (m : Map α) (d : α) (k : Nat) (g : α → α) (key : Nat) (h : (Map.find m key).isSome) :
    Map.at (Map.change m k g) d key = if key = k then g (Map.at m d key) else Map.at m d key := by
  obtain ⟨v, hv⟩ := Option.isSome_iff_exists.mp h
  simp [Map.at, Map.find_change, hv]

theorem Map.at_of_none (m : Map α) (d : α) (key : Nat) (h : Map.find m key = none) : Map.at m d key = d := by
  simp [Map.at, h]

/-- A change that leaves the default as it is changes the entry found, or nothing. -/
theorem Map.at_change_default (m : Map α) (d : α) (k : Nat) (g : α → α) (key : Nat) :
    Map.at (Map.change m k g) d key =
      if key = k ∧ (Map.find m key).isSome then g (Map.at m d key) else Map.at m d key := by
  cases h : Map.find m key <;> simp [Map.at, Map.find_change, h]

theorem Map.find_drop (m : Map α) (k key : Nat) :
    Map.find (Map.drop m k) key = if key = k then none else Map.find m key := by
  induction m with
  | nil => simp [Map.drop, Map.find]
  | cons e m ih =>
    obtain ⟨a, x⟩ := e
    by_cases h1 : a = k
    · have : Map.drop ((a, x) :: m) k = Map.drop m k := by simp [Map.drop, h1]
      rw [this, ih, Map.find_cons]
      by_cases h2 : key = k
      · simp [h2]
      · have : a ≠ key := fun h => h2 (h ▸ h1)
        simp [h2, this]
    · have : Map.drop ((a, x) :: m) k = (a, x) :: Map.drop m k := by simp [Map.drop, h1]
      rw [this, Map.find_cons, Map.find_cons, ih]
      by_cases h2 : a = key
      · have : key ≠ k := fun h => h1 (h2.trans h)
        simp [h2, this]
      · simp [h2]

end Sys2Proof.Machine
end

