-- ==== Sys2Proof/Laws/State.lean ====
section
/-! SUPPORT. Laws of the state: every field after every update, so that no proof unfolds a record update; and what the
accessors find after an update. -/

namespace Sys2Proof.Machine

/-! ### Fields after updates -/

/-- What `State.changeCore` leaves alone. -/
@[simp] theorem State.changeCore_rest (s : State) (c : Nat) (g : Core → Core) :
    (s.changeCore c g).clock = s.clock ∧ (s.changeCore c g).ptimeBase = s.ptimeBase ∧
    (s.changeCore c g).module_ = s.module_ ∧ (s.changeCore c g).agenda = s.agenda ∧ (s.changeCore c g).waiting = s.waiting ∧
    (s.changeCore c g).turn = s.turn ∧ (s.changeCore c g).chosen = s.chosen ∧ (s.changeCore c g).drawn = s.drawn ∧
    (s.changeCore c g).freeCtr = s.freeCtr ∧ (s.changeCore c g).issuing = s.issuing ∧ (s.changeCore c g).mem = s.mem ∧
    (s.changeCore c g).poison = s.poison ∧ (s.changeCore c g).dirtyLines = s.dirtyLines ∧
    (s.changeCore c g).savedLines = s.savedLines ∧ (s.changeCore c g).groups = s.groups ∧
    (s.changeCore c g).weaves = s.weaves ∧ (s.changeCore c g).teams = s.teams ∧ (s.changeCore c g).gangs = s.gangs ∧
    (s.changeCore c g).subs = s.subs ∧ (s.changeCore c g).slices = s.slices ∧ (s.changeCore c g).dies = s.dies ∧
    (s.changeCore c g).parts = s.parts ∧ (s.changeCore c g).fns = s.fns ∧ (s.changeCore c g).queues = s.queues ∧
    (s.changeCore c g).counters = s.counters ∧ (s.changeCore c g).nodes = s.nodes ∧ (s.changeCore c g).frames = s.frames ∧
    (s.changeCore c g).copies = s.copies ∧ (s.changeCore c g).jobs = s.jobs ∧ (s.changeCore c g).mats = s.mats ∧
    (s.changeCore c g).outWin = s.outWin ∧ (s.changeCore c g).inWin = s.inWin ∧ (s.changeCore c g).posted = s.posted ∧
    (s.changeCore c g).sent = s.sent ∧ (s.changeCore c g).answers = s.answers ∧
    (s.changeCore c g).planesDown = s.planesDown ∧ (s.changeCore c g).ckpts = s.ckpts ∧ (s.changeCore c g).toxic = s.toxic ∧
    (s.changeCore c g).controls = s.controls ∧ (s.changeCore c g).root = s.root ∧
    (s.changeCore c g).moved = s.moved ∧ (s.changeCore c g).overNow = s.overNow :=
  ⟨rfl, rfl, rfl, rfl, rfl, rfl, rfl, rfl, rfl, rfl, rfl, rfl, rfl, rfl, rfl, rfl, rfl, rfl, rfl, rfl, rfl, rfl, rfl, rfl, rfl, rfl, rfl, rfl, rfl, rfl, rfl, rfl, rfl, rfl, rfl, rfl, rfl, rfl, rfl, rfl, rfl, rfl⟩
@[simp] theorem State.changeCore_cores (s : State) (c : Nat) (g : Core → Core) : (s.changeCore c g).cores = Map.put s.cores c (g (s.core c)) := rfl
/-- What `State.changeCore` leaves every accessor to find. -/
@[simp] theorem State.changeCore_others (s : State) (c : Nat) (g : Core → Core) :
    (∀ k, (s.changeCore c g).weave k = s.weave k) ∧ (∀ k, (s.changeCore c g).team k = s.team k) ∧
    (∀ k, (s.changeCore c g).gang k = s.gang k) ∧ (∀ k, (s.changeCore c g).sub k = s.sub k) ∧
    (∀ k, (s.changeCore c g).slice k = s.slice k) ∧ (∀ k, (s.changeCore c g).fn k = s.fn k) ∧
    (∀ k, (s.changeCore c g).part k = s.part k) ∧ (∀ k, (s.changeCore c g).die k = s.die k) :=
  ⟨fun _ => rfl, fun _ => rfl, fun _ => rfl, fun _ => rfl, fun _ => rfl, fun _ => rfl, fun _ => rfl, fun _ => rfl⟩

/-- What `State.changeWeave` leaves alone. -/
@[simp] theorem State.changeWeave_rest (s : State) (u : Nat) (g : Weave → Weave) :
    (s.changeWeave u g).clock = s.clock ∧ (s.changeWeave u g).ptimeBase = s.ptimeBase ∧
    (s.changeWeave u g).module_ = s.module_ ∧ (s.changeWeave u g).agenda = s.agenda ∧
    (s.changeWeave u g).waiting = s.waiting ∧ (s.changeWeave u g).turn = s.turn ∧ (s.changeWeave u g).chosen = s.chosen ∧
    (s.changeWeave u g).drawn = s.drawn ∧ (s.changeWeave u g).freeCtr = s.freeCtr ∧ (s.changeWeave u g).issuing = s.issuing ∧
    (s.changeWeave u g).mem = s.mem ∧ (s.changeWeave u g).poison = s.poison ∧ (s.changeWeave u g).dirtyLines = s.dirtyLines ∧
    (s.changeWeave u g).savedLines = s.savedLines ∧ (s.changeWeave u g).groups = s.groups ∧
    (s.changeWeave u g).teams = s.teams ∧ (s.changeWeave u g).gangs = s.gangs ∧ (s.changeWeave u g).subs = s.subs ∧
    (s.changeWeave u g).slices = s.slices ∧ (s.changeWeave u g).cores = s.cores ∧ (s.changeWeave u g).dies = s.dies ∧
    (s.changeWeave u g).parts = s.parts ∧ (s.changeWeave u g).fns = s.fns ∧ (s.changeWeave u g).queues = s.queues ∧
    (s.changeWeave u g).counters = s.counters ∧ (s.changeWeave u g).nodes = s.nodes ∧ (s.changeWeave u g).frames = s.frames ∧
    (s.changeWeave u g).copies = s.copies ∧ (s.changeWeave u g).jobs = s.jobs ∧ (s.changeWeave u g).mats = s.mats ∧
    (s.changeWeave u g).outWin = s.outWin ∧ (s.changeWeave u g).inWin = s.inWin ∧ (s.changeWeave u g).posted = s.posted ∧
    (s.changeWeave u g).sent = s.sent ∧ (s.changeWeave u g).answers = s.answers ∧
    (s.changeWeave u g).planesDown = s.planesDown ∧ (s.changeWeave u g).ckpts = s.ckpts ∧
    (s.changeWeave u g).toxic = s.toxic ∧ (s.changeWeave u g).controls = s.controls ∧ (s.changeWeave u g).root = s.root ∧
    (s.changeWeave u g).moved = s.moved ∧ (s.changeWeave u g).overNow = s.overNow :=
  ⟨rfl, rfl, rfl, rfl, rfl, rfl, rfl, rfl, rfl, rfl, rfl, rfl, rfl, rfl, rfl, rfl, rfl, rfl, rfl, rfl, rfl, rfl, rfl, rfl, rfl, rfl, rfl, rfl, rfl, rfl, rfl, rfl, rfl, rfl, rfl, rfl, rfl, rfl, rfl, rfl, rfl, rfl⟩
@[simp] theorem State.changeWeave_weaves (s : State) (u : Nat) (g : Weave → Weave) : (s.changeWeave u g).weaves = Map.change s.weaves u g := rfl
/-- What `State.changeWeave` leaves every accessor to find. -/
@[simp] theorem State.changeWeave_others (s : State) (u : Nat) (g : Weave → Weave) :
    (∀ k, (s.changeWeave u g).core k = s.core k) ∧ (∀ k, (s.changeWeave u g).team k = s.team k) ∧
    (∀ k, (s.changeWeave u g).gang k = s.gang k) ∧ (∀ k, (s.changeWeave u g).sub k = s.sub k) ∧
    (∀ k, (s.changeWeave u g).slice k = s.slice k) ∧ (∀ k, (s.changeWeave u g).fn k = s.fn k) ∧
    (∀ k, (s.changeWeave u g).part k = s.part k) ∧ (∀ k, (s.changeWeave u g).die k = s.die k) :=
  ⟨fun _ => rfl, fun _ => rfl, fun _ => rfl, fun _ => rfl, fun _ => rfl, fun _ => rfl, fun _ => rfl, fun _ => rfl⟩

/-- What `State.changeTeam` leaves alone. -/
@[simp] theorem State.changeTeam_rest (s : State) (t : Nat) (g : Team → Team) :
    (s.changeTeam t g).clock = s.clock ∧ (s.changeTeam t g).ptimeBase = s.ptimeBase ∧
    (s.changeTeam t g).module_ = s.module_ ∧ (s.changeTeam t g).agenda = s.agenda ∧ (s.changeTeam t g).waiting = s.waiting ∧
    (s.changeTeam t g).turn = s.turn ∧ (s.changeTeam t g).chosen = s.chosen ∧ (s.changeTeam t g).drawn = s.drawn ∧
    (s.changeTeam t g).freeCtr = s.freeCtr ∧ (s.changeTeam t g).issuing = s.issuing ∧ (s.changeTeam t g).mem = s.mem ∧
    (s.changeTeam t g).poison = s.poison ∧ (s.changeTeam t g).dirtyLines = s.dirtyLines ∧
    (s.changeTeam t g).savedLines = s.savedLines ∧ (s.changeTeam t g).groups = s.groups ∧
    (s.changeTeam t g).weaves = s.weaves ∧ (s.changeTeam t g).gangs = s.gangs ∧ (s.changeTeam t g).subs = s.subs ∧
    (s.changeTeam t g).slices = s.slices ∧ (s.changeTeam t g).cores = s.cores ∧ (s.changeTeam t g).dies = s.dies ∧
    (s.changeTeam t g).parts = s.parts ∧ (s.changeTeam t g).fns = s.fns ∧ (s.changeTeam t g).queues = s.queues ∧
    (s.changeTeam t g).counters = s.counters ∧ (s.changeTeam t g).nodes = s.nodes ∧ (s.changeTeam t g).frames = s.frames ∧
    (s.changeTeam t g).copies = s.copies ∧ (s.changeTeam t g).jobs = s.jobs ∧ (s.changeTeam t g).mats = s.mats ∧
    (s.changeTeam t g).outWin = s.outWin ∧ (s.changeTeam t g).inWin = s.inWin ∧ (s.changeTeam t g).posted = s.posted ∧
    (s.changeTeam t g).sent = s.sent ∧ (s.changeTeam t g).answers = s.answers ∧
    (s.changeTeam t g).planesDown = s.planesDown ∧ (s.changeTeam t g).ckpts = s.ckpts ∧ (s.changeTeam t g).toxic = s.toxic ∧
    (s.changeTeam t g).controls = s.controls ∧ (s.changeTeam t g).root = s.root ∧
    (s.changeTeam t g).moved = s.moved ∧ (s.changeTeam t g).overNow = s.overNow :=
  ⟨rfl, rfl, rfl, rfl, rfl, rfl, rfl, rfl, rfl, rfl, rfl, rfl, rfl, rfl, rfl, rfl, rfl, rfl, rfl, rfl, rfl, rfl, rfl, rfl, rfl, rfl, rfl, rfl, rfl, rfl, rfl, rfl, rfl, rfl, rfl, rfl, rfl, rfl, rfl, rfl, rfl, rfl⟩
@[simp] theorem State.changeTeam_teams (s : State) (t : Nat) (g : Team → Team) : (s.changeTeam t g).teams = Map.change s.teams t g := rfl
/-- What `State.changeTeam` leaves every accessor to find. -/
@[simp] theorem State.changeTeam_others (s : State) (t : Nat) (g : Team → Team) :
    (∀ k, (s.changeTeam t g).core k = s.core k) ∧ (∀ k, (s.changeTeam t g).weave k = s.weave k) ∧
    (∀ k, (s.changeTeam t g).gang k = s.gang k) ∧ (∀ k, (s.changeTeam t g).sub k = s.sub k) ∧
    (∀ k, (s.changeTeam t g).slice k = s.slice k) ∧ (∀ k, (s.changeTeam t g).fn k = s.fn k) ∧
    (∀ k, (s.changeTeam t g).part k = s.part k) ∧ (∀ k, (s.changeTeam t g).die k = s.die k) :=
  ⟨fun _ => rfl, fun _ => rfl, fun _ => rfl, fun _ => rfl, fun _ => rfl, fun _ => rfl, fun _ => rfl, fun _ => rfl⟩

/-- What `State.changeGang` leaves alone. -/
@[simp] theorem State.changeGang_rest (s : State) (n : Nat) (g : Gang → Gang) :
    (s.changeGang n g).clock = s.clock ∧ (s.changeGang n g).ptimeBase = s.ptimeBase ∧
    (s.changeGang n g).module_ = s.module_ ∧ (s.changeGang n g).agenda = s.agenda ∧ (s.changeGang n g).waiting = s.waiting ∧
    (s.changeGang n g).turn = s.turn ∧ (s.changeGang n g).chosen = s.chosen ∧ (s.changeGang n g).drawn = s.drawn ∧
    (s.changeGang n g).freeCtr = s.freeCtr ∧ (s.changeGang n g).issuing = s.issuing ∧ (s.changeGang n g).mem = s.mem ∧
    (s.changeGang n g).poison = s.poison ∧ (s.changeGang n g).dirtyLines = s.dirtyLines ∧
    (s.changeGang n g).savedLines = s.savedLines ∧ (s.changeGang n g).groups = s.groups ∧
    (s.changeGang n g).weaves = s.weaves ∧ (s.changeGang n g).teams = s.teams ∧ (s.changeGang n g).subs = s.subs ∧
    (s.changeGang n g).slices = s.slices ∧ (s.changeGang n g).cores = s.cores ∧ (s.changeGang n g).dies = s.dies ∧
    (s.changeGang n g).parts = s.parts ∧ (s.changeGang n g).fns = s.fns ∧ (s.changeGang n g).queues = s.queues ∧
    (s.changeGang n g).counters = s.counters ∧ (s.changeGang n g).nodes = s.nodes ∧ (s.changeGang n g).frames = s.frames ∧
    (s.changeGang n g).copies = s.copies ∧ (s.changeGang n g).jobs = s.jobs ∧ (s.changeGang n g).mats = s.mats ∧
    (s.changeGang n g).outWin = s.outWin ∧ (s.changeGang n g).inWin = s.inWin ∧ (s.changeGang n g).posted = s.posted ∧
    (s.changeGang n g).sent = s.sent ∧ (s.changeGang n g).answers = s.answers ∧
    (s.changeGang n g).planesDown = s.planesDown ∧ (s.changeGang n g).ckpts = s.ckpts ∧ (s.changeGang n g).toxic = s.toxic ∧
    (s.changeGang n g).controls = s.controls ∧ (s.changeGang n g).root = s.root ∧
    (s.changeGang n g).moved = s.moved ∧ (s.changeGang n g).overNow = s.overNow :=
  ⟨rfl, rfl, rfl, rfl, rfl, rfl, rfl, rfl, rfl, rfl, rfl, rfl, rfl, rfl, rfl, rfl, rfl, rfl, rfl, rfl, rfl, rfl, rfl, rfl, rfl, rfl, rfl, rfl, rfl, rfl, rfl, rfl, rfl, rfl, rfl, rfl, rfl, rfl, rfl, rfl, rfl, rfl⟩
@[simp] theorem State.changeGang_gangs (s : State) (n : Nat) (g : Gang → Gang) : (s.changeGang n g).gangs = Map.change s.gangs n g := rfl
/-- What `State.changeGang` leaves every accessor to find. -/
@[simp] theorem State.changeGang_others (s : State) (n : Nat) (g : Gang → Gang) :
    (∀ k, (s.changeGang n g).core k = s.core k) ∧ (∀ k, (s.changeGang n g).weave k = s.weave k) ∧
    (∀ k, (s.changeGang n g).team k = s.team k) ∧ (∀ k, (s.changeGang n g).sub k = s.sub k) ∧
    (∀ k, (s.changeGang n g).slice k = s.slice k) ∧ (∀ k, (s.changeGang n g).fn k = s.fn k) ∧
    (∀ k, (s.changeGang n g).part k = s.part k) ∧ (∀ k, (s.changeGang n g).die k = s.die k) :=
  ⟨fun _ => rfl, fun _ => rfl, fun _ => rfl, fun _ => rfl, fun _ => rfl, fun _ => rfl, fun _ => rfl, fun _ => rfl⟩

/-- What `State.changeSub` leaves alone. -/
@[simp] theorem State.changeSub_rest (s : State) (n : Nat) (g : Sub → Sub) :
    (s.changeSub n g).clock = s.clock ∧ (s.changeSub n g).ptimeBase = s.ptimeBase ∧ (s.changeSub n g).module_ = s.module_ ∧
    (s.changeSub n g).agenda = s.agenda ∧ (s.changeSub n g).waiting = s.waiting ∧ (s.changeSub n g).turn = s.turn ∧
    (s.changeSub n g).chosen = s.chosen ∧ (s.changeSub n g).drawn = s.drawn ∧ (s.changeSub n g).freeCtr = s.freeCtr ∧
    (s.changeSub n g).issuing = s.issuing ∧ (s.changeSub n g).mem = s.mem ∧ (s.changeSub n g).poison = s.poison ∧
    (s.changeSub n g).dirtyLines = s.dirtyLines ∧ (s.changeSub n g).savedLines = s.savedLines ∧
    (s.changeSub n g).groups = s.groups ∧ (s.changeSub n g).weaves = s.weaves ∧ (s.changeSub n g).teams = s.teams ∧
    (s.changeSub n g).gangs = s.gangs ∧ (s.changeSub n g).slices = s.slices ∧ (s.changeSub n g).cores = s.cores ∧
    (s.changeSub n g).dies = s.dies ∧ (s.changeSub n g).parts = s.parts ∧ (s.changeSub n g).fns = s.fns ∧
    (s.changeSub n g).queues = s.queues ∧ (s.changeSub n g).counters = s.counters ∧ (s.changeSub n g).nodes = s.nodes ∧
    (s.changeSub n g).frames = s.frames ∧ (s.changeSub n g).copies = s.copies ∧ (s.changeSub n g).jobs = s.jobs ∧
    (s.changeSub n g).mats = s.mats ∧ (s.changeSub n g).outWin = s.outWin ∧ (s.changeSub n g).inWin = s.inWin ∧
    (s.changeSub n g).posted = s.posted ∧ (s.changeSub n g).sent = s.sent ∧ (s.changeSub n g).answers = s.answers ∧
    (s.changeSub n g).planesDown = s.planesDown ∧ (s.changeSub n g).ckpts = s.ckpts ∧ (s.changeSub n g).toxic = s.toxic ∧
    (s.changeSub n g).controls = s.controls ∧ (s.changeSub n g).root = s.root ∧
    (s.changeSub n g).moved = s.moved ∧ (s.changeSub n g).overNow = s.overNow :=
  ⟨rfl, rfl, rfl, rfl, rfl, rfl, rfl, rfl, rfl, rfl, rfl, rfl, rfl, rfl, rfl, rfl, rfl, rfl, rfl, rfl, rfl, rfl, rfl, rfl, rfl, rfl, rfl, rfl, rfl, rfl, rfl, rfl, rfl, rfl, rfl, rfl, rfl, rfl, rfl, rfl, rfl, rfl⟩
@[simp] theorem State.changeSub_subs (s : State) (n : Nat) (g : Sub → Sub) : (s.changeSub n g).subs = Map.change s.subs n g := rfl
/-- What `State.changeSub` leaves every accessor to find. -/
@[simp] theorem State.changeSub_others (s : State) (n : Nat) (g : Sub → Sub) :
    (∀ k, (s.changeSub n g).core k = s.core k) ∧ (∀ k, (s.changeSub n g).weave k = s.weave k) ∧
    (∀ k, (s.changeSub n g).team k = s.team k) ∧ (∀ k, (s.changeSub n g).gang k = s.gang k) ∧
    (∀ k, (s.changeSub n g).slice k = s.slice k) ∧ (∀ k, (s.changeSub n g).fn k = s.fn k) ∧
    (∀ k, (s.changeSub n g).part k = s.part k) ∧ (∀ k, (s.changeSub n g).die k = s.die k) :=
  ⟨fun _ => rfl, fun _ => rfl, fun _ => rfl, fun _ => rfl, fun _ => rfl, fun _ => rfl, fun _ => rfl, fun _ => rfl⟩

/-- What `State.changeSlice` leaves alone. -/
@[simp] theorem State.changeSlice_rest (s : State) (n : Nat) (g : Slice → Slice) :
    (s.changeSlice n g).clock = s.clock ∧ (s.changeSlice n g).ptimeBase = s.ptimeBase ∧
    (s.changeSlice n g).module_ = s.module_ ∧ (s.changeSlice n g).agenda = s.agenda ∧
    (s.changeSlice n g).waiting = s.waiting ∧ (s.changeSlice n g).turn = s.turn ∧ (s.changeSlice n g).chosen = s.chosen ∧
    (s.changeSlice n g).drawn = s.drawn ∧ (s.changeSlice n g).freeCtr = s.freeCtr ∧ (s.changeSlice n g).issuing = s.issuing ∧
    (s.changeSlice n g).mem = s.mem ∧ (s.changeSlice n g).poison = s.poison ∧ (s.changeSlice n g).dirtyLines = s.dirtyLines ∧
    (s.changeSlice n g).savedLines = s.savedLines ∧ (s.changeSlice n g).groups = s.groups ∧
    (s.changeSlice n g).weaves = s.weaves ∧ (s.changeSlice n g).teams = s.teams ∧ (s.changeSlice n g).gangs = s.gangs ∧
    (s.changeSlice n g).subs = s.subs ∧ (s.changeSlice n g).cores = s.cores ∧ (s.changeSlice n g).dies = s.dies ∧
    (s.changeSlice n g).parts = s.parts ∧ (s.changeSlice n g).fns = s.fns ∧ (s.changeSlice n g).queues = s.queues ∧
    (s.changeSlice n g).counters = s.counters ∧ (s.changeSlice n g).nodes = s.nodes ∧ (s.changeSlice n g).frames = s.frames ∧
    (s.changeSlice n g).copies = s.copies ∧ (s.changeSlice n g).jobs = s.jobs ∧ (s.changeSlice n g).mats = s.mats ∧
    (s.changeSlice n g).outWin = s.outWin ∧ (s.changeSlice n g).inWin = s.inWin ∧ (s.changeSlice n g).posted = s.posted ∧
    (s.changeSlice n g).sent = s.sent ∧ (s.changeSlice n g).answers = s.answers ∧
    (s.changeSlice n g).planesDown = s.planesDown ∧ (s.changeSlice n g).ckpts = s.ckpts ∧
    (s.changeSlice n g).toxic = s.toxic ∧ (s.changeSlice n g).controls = s.controls ∧ (s.changeSlice n g).root = s.root ∧
    (s.changeSlice n g).moved = s.moved ∧ (s.changeSlice n g).overNow = s.overNow :=
  ⟨rfl, rfl, rfl, rfl, rfl, rfl, rfl, rfl, rfl, rfl, rfl, rfl, rfl, rfl, rfl, rfl, rfl, rfl, rfl, rfl, rfl, rfl, rfl, rfl, rfl, rfl, rfl, rfl, rfl, rfl, rfl, rfl, rfl, rfl, rfl, rfl, rfl, rfl, rfl, rfl, rfl, rfl⟩
@[simp] theorem State.changeSlice_slices (s : State) (n : Nat) (g : Slice → Slice) : (s.changeSlice n g).slices = Map.change s.slices n g := rfl
/-- What `State.changeSlice` leaves every accessor to find. -/
@[simp] theorem State.changeSlice_others (s : State) (n : Nat) (g : Slice → Slice) :
    (∀ k, (s.changeSlice n g).core k = s.core k) ∧ (∀ k, (s.changeSlice n g).weave k = s.weave k) ∧
    (∀ k, (s.changeSlice n g).team k = s.team k) ∧ (∀ k, (s.changeSlice n g).gang k = s.gang k) ∧
    (∀ k, (s.changeSlice n g).sub k = s.sub k) ∧ (∀ k, (s.changeSlice n g).fn k = s.fn k) ∧
    (∀ k, (s.changeSlice n g).part k = s.part k) ∧ (∀ k, (s.changeSlice n g).die k = s.die k) :=
  ⟨fun _ => rfl, fun _ => rfl, fun _ => rfl, fun _ => rfl, fun _ => rfl, fun _ => rfl, fun _ => rfl, fun _ => rfl⟩

/-- What `State.changeFn` leaves alone. -/
@[simp] theorem State.changeFn_rest (s : State) (n : Nat) (g : Fn → Fn) :
    (s.changeFn n g).clock = s.clock ∧ (s.changeFn n g).ptimeBase = s.ptimeBase ∧ (s.changeFn n g).module_ = s.module_ ∧
    (s.changeFn n g).agenda = s.agenda ∧ (s.changeFn n g).waiting = s.waiting ∧ (s.changeFn n g).turn = s.turn ∧
    (s.changeFn n g).chosen = s.chosen ∧ (s.changeFn n g).drawn = s.drawn ∧ (s.changeFn n g).freeCtr = s.freeCtr ∧
    (s.changeFn n g).issuing = s.issuing ∧ (s.changeFn n g).mem = s.mem ∧ (s.changeFn n g).poison = s.poison ∧
    (s.changeFn n g).dirtyLines = s.dirtyLines ∧ (s.changeFn n g).savedLines = s.savedLines ∧
    (s.changeFn n g).groups = s.groups ∧ (s.changeFn n g).weaves = s.weaves ∧ (s.changeFn n g).teams = s.teams ∧
    (s.changeFn n g).gangs = s.gangs ∧ (s.changeFn n g).subs = s.subs ∧ (s.changeFn n g).slices = s.slices ∧
    (s.changeFn n g).cores = s.cores ∧ (s.changeFn n g).dies = s.dies ∧ (s.changeFn n g).parts = s.parts ∧
    (s.changeFn n g).queues = s.queues ∧ (s.changeFn n g).counters = s.counters ∧ (s.changeFn n g).nodes = s.nodes ∧
    (s.changeFn n g).frames = s.frames ∧ (s.changeFn n g).copies = s.copies ∧ (s.changeFn n g).jobs = s.jobs ∧
    (s.changeFn n g).mats = s.mats ∧ (s.changeFn n g).outWin = s.outWin ∧ (s.changeFn n g).inWin = s.inWin ∧
    (s.changeFn n g).posted = s.posted ∧ (s.changeFn n g).sent = s.sent ∧ (s.changeFn n g).answers = s.answers ∧
    (s.changeFn n g).planesDown = s.planesDown ∧ (s.changeFn n g).ckpts = s.ckpts ∧ (s.changeFn n g).toxic = s.toxic ∧
    (s.changeFn n g).controls = s.controls ∧ (s.changeFn n g).root = s.root ∧
    (s.changeFn n g).moved = s.moved ∧ (s.changeFn n g).overNow = s.overNow :=
  ⟨rfl, rfl, rfl, rfl, rfl, rfl, rfl, rfl, rfl, rfl, rfl, rfl, rfl, rfl, rfl, rfl, rfl, rfl, rfl, rfl, rfl, rfl, rfl, rfl, rfl, rfl, rfl, rfl, rfl, rfl, rfl, rfl, rfl, rfl, rfl, rfl, rfl, rfl, rfl, rfl, rfl, rfl⟩
@[simp] theorem State.changeFn_fns (s : State) (n : Nat) (g : Fn → Fn) : (s.changeFn n g).fns = Map.put s.fns n (g (s.fn n)) := rfl
/-- What `State.changeFn` leaves every accessor to find. -/
@[simp] theorem State.changeFn_others (s : State) (n : Nat) (g : Fn → Fn) :
    (∀ k, (s.changeFn n g).core k = s.core k) ∧ (∀ k, (s.changeFn n g).weave k = s.weave k) ∧
    (∀ k, (s.changeFn n g).team k = s.team k) ∧ (∀ k, (s.changeFn n g).gang k = s.gang k) ∧
    (∀ k, (s.changeFn n g).sub k = s.sub k) ∧ (∀ k, (s.changeFn n g).slice k = s.slice k) ∧
    (∀ k, (s.changeFn n g).part k = s.part k) ∧ (∀ k, (s.changeFn n g).die k = s.die k) :=
  ⟨fun _ => rfl, fun _ => rfl, fun _ => rfl, fun _ => rfl, fun _ => rfl, fun _ => rfl, fun _ => rfl, fun _ => rfl⟩

/-- What `State.changePart` leaves alone. -/
@[simp] theorem State.changePart_rest (s : State) (n : Nat) (g : Part → Part) :
    (s.changePart n g).clock = s.clock ∧ (s.changePart n g).ptimeBase = s.ptimeBase ∧
    (s.changePart n g).module_ = s.module_ ∧ (s.changePart n g).agenda = s.agenda ∧ (s.changePart n g).waiting = s.waiting ∧
    (s.changePart n g).turn = s.turn ∧ (s.changePart n g).chosen = s.chosen ∧ (s.changePart n g).drawn = s.drawn ∧
    (s.changePart n g).freeCtr = s.freeCtr ∧ (s.changePart n g).issuing = s.issuing ∧ (s.changePart n g).mem = s.mem ∧
    (s.changePart n g).poison = s.poison ∧ (s.changePart n g).dirtyLines = s.dirtyLines ∧
    (s.changePart n g).savedLines = s.savedLines ∧ (s.changePart n g).groups = s.groups ∧
    (s.changePart n g).weaves = s.weaves ∧ (s.changePart n g).teams = s.teams ∧ (s.changePart n g).gangs = s.gangs ∧
    (s.changePart n g).subs = s.subs ∧ (s.changePart n g).slices = s.slices ∧ (s.changePart n g).cores = s.cores ∧
    (s.changePart n g).dies = s.dies ∧ (s.changePart n g).fns = s.fns ∧ (s.changePart n g).queues = s.queues ∧
    (s.changePart n g).counters = s.counters ∧ (s.changePart n g).nodes = s.nodes ∧ (s.changePart n g).frames = s.frames ∧
    (s.changePart n g).copies = s.copies ∧ (s.changePart n g).jobs = s.jobs ∧ (s.changePart n g).mats = s.mats ∧
    (s.changePart n g).outWin = s.outWin ∧ (s.changePart n g).inWin = s.inWin ∧ (s.changePart n g).posted = s.posted ∧
    (s.changePart n g).sent = s.sent ∧ (s.changePart n g).answers = s.answers ∧
    (s.changePart n g).planesDown = s.planesDown ∧ (s.changePart n g).ckpts = s.ckpts ∧ (s.changePart n g).toxic = s.toxic ∧
    (s.changePart n g).controls = s.controls ∧ (s.changePart n g).root = s.root ∧
    (s.changePart n g).moved = s.moved ∧ (s.changePart n g).overNow = s.overNow :=
  ⟨rfl, rfl, rfl, rfl, rfl, rfl, rfl, rfl, rfl, rfl, rfl, rfl, rfl, rfl, rfl, rfl, rfl, rfl, rfl, rfl, rfl, rfl, rfl, rfl, rfl, rfl, rfl, rfl, rfl, rfl, rfl, rfl, rfl, rfl, rfl, rfl, rfl, rfl, rfl, rfl, rfl, rfl⟩
@[simp] theorem State.changePart_parts (s : State) (n : Nat) (g : Part → Part) : (s.changePart n g).parts = Map.put s.parts n (g (s.part n)) := rfl
/-- What `State.changePart` leaves every accessor to find. -/
@[simp] theorem State.changePart_others (s : State) (n : Nat) (g : Part → Part) :
    (∀ k, (s.changePart n g).core k = s.core k) ∧ (∀ k, (s.changePart n g).weave k = s.weave k) ∧
    (∀ k, (s.changePart n g).team k = s.team k) ∧ (∀ k, (s.changePart n g).gang k = s.gang k) ∧
    (∀ k, (s.changePart n g).sub k = s.sub k) ∧ (∀ k, (s.changePart n g).slice k = s.slice k) ∧
    (∀ k, (s.changePart n g).fn k = s.fn k) ∧ (∀ k, (s.changePart n g).die k = s.die k) :=
  ⟨fun _ => rfl, fun _ => rfl, fun _ => rfl, fun _ => rfl, fun _ => rfl, fun _ => rfl, fun _ => rfl, fun _ => rfl⟩

/-- What `State.changeDie` leaves alone. -/
@[simp] theorem State.changeDie_rest (s : State) (n : Nat) (g : Die → Die) :
    (s.changeDie n g).clock = s.clock ∧ (s.changeDie n g).ptimeBase = s.ptimeBase ∧ (s.changeDie n g).module_ = s.module_ ∧
    (s.changeDie n g).agenda = s.agenda ∧ (s.changeDie n g).waiting = s.waiting ∧ (s.changeDie n g).turn = s.turn ∧
    (s.changeDie n g).chosen = s.chosen ∧ (s.changeDie n g).drawn = s.drawn ∧ (s.changeDie n g).freeCtr = s.freeCtr ∧
    (s.changeDie n g).issuing = s.issuing ∧ (s.changeDie n g).mem = s.mem ∧ (s.changeDie n g).poison = s.poison ∧
    (s.changeDie n g).dirtyLines = s.dirtyLines ∧ (s.changeDie n g).savedLines = s.savedLines ∧
    (s.changeDie n g).groups = s.groups ∧ (s.changeDie n g).weaves = s.weaves ∧ (s.changeDie n g).teams = s.teams ∧
    (s.changeDie n g).gangs = s.gangs ∧ (s.changeDie n g).subs = s.subs ∧ (s.changeDie n g).slices = s.slices ∧
    (s.changeDie n g).cores = s.cores ∧ (s.changeDie n g).parts = s.parts ∧ (s.changeDie n g).fns = s.fns ∧
    (s.changeDie n g).queues = s.queues ∧ (s.changeDie n g).counters = s.counters ∧ (s.changeDie n g).nodes = s.nodes ∧
    (s.changeDie n g).frames = s.frames ∧ (s.changeDie n g).copies = s.copies ∧ (s.changeDie n g).jobs = s.jobs ∧
    (s.changeDie n g).mats = s.mats ∧ (s.changeDie n g).outWin = s.outWin ∧ (s.changeDie n g).inWin = s.inWin ∧
    (s.changeDie n g).posted = s.posted ∧ (s.changeDie n g).sent = s.sent ∧ (s.changeDie n g).answers = s.answers ∧
    (s.changeDie n g).planesDown = s.planesDown ∧ (s.changeDie n g).ckpts = s.ckpts ∧ (s.changeDie n g).toxic = s.toxic ∧
    (s.changeDie n g).controls = s.controls ∧ (s.changeDie n g).root = s.root ∧
    (s.changeDie n g).moved = s.moved ∧ (s.changeDie n g).overNow = s.overNow :=
  ⟨rfl, rfl, rfl, rfl, rfl, rfl, rfl, rfl, rfl, rfl, rfl, rfl, rfl, rfl, rfl, rfl, rfl, rfl, rfl, rfl, rfl, rfl, rfl, rfl, rfl, rfl, rfl, rfl, rfl, rfl, rfl, rfl, rfl, rfl, rfl, rfl, rfl, rfl, rfl, rfl, rfl, rfl⟩
@[simp] theorem State.changeDie_dies (s : State) (n : Nat) (g : Die → Die) : (s.changeDie n g).dies = Map.put s.dies n (g (s.die n)) := rfl
/-- What `State.changeDie` leaves every accessor to find. -/
@[simp] theorem State.changeDie_others (s : State) (n : Nat) (g : Die → Die) :
    (∀ k, (s.changeDie n g).core k = s.core k) ∧ (∀ k, (s.changeDie n g).weave k = s.weave k) ∧
    (∀ k, (s.changeDie n g).team k = s.team k) ∧ (∀ k, (s.changeDie n g).gang k = s.gang k) ∧
    (∀ k, (s.changeDie n g).sub k = s.sub k) ∧ (∀ k, (s.changeDie n g).slice k = s.slice k) ∧
    (∀ k, (s.changeDie n g).fn k = s.fn k) ∧ (∀ k, (s.changeDie n g).part k = s.part k) :=
  ⟨fun _ => rfl, fun _ => rfl, fun _ => rfl, fun _ => rfl, fun _ => rfl, fun _ => rfl, fun _ => rfl, fun _ => rfl⟩

/-- What `State.setConv` leaves alone. -/
@[simp] theorem State.setConv_rest (s : State) (t n : Nat) (c : Conv) :
    (s.setConv t n c).clock = s.clock ∧ (s.setConv t n c).ptimeBase = s.ptimeBase ∧ (s.setConv t n c).module_ = s.module_ ∧
    (s.setConv t n c).agenda = s.agenda ∧ (s.setConv t n c).waiting = s.waiting ∧ (s.setConv t n c).turn = s.turn ∧
    (s.setConv t n c).chosen = s.chosen ∧ (s.setConv t n c).drawn = s.drawn ∧ (s.setConv t n c).freeCtr = s.freeCtr ∧
    (s.setConv t n c).issuing = s.issuing ∧ (s.setConv t n c).mem = s.mem ∧ (s.setConv t n c).poison = s.poison ∧
    (s.setConv t n c).dirtyLines = s.dirtyLines ∧ (s.setConv t n c).savedLines = s.savedLines ∧
    (s.setConv t n c).groups = s.groups ∧ (s.setConv t n c).weaves = s.weaves ∧ (s.setConv t n c).gangs = s.gangs ∧
    (s.setConv t n c).subs = s.subs ∧ (s.setConv t n c).slices = s.slices ∧ (s.setConv t n c).cores = s.cores ∧
    (s.setConv t n c).dies = s.dies ∧ (s.setConv t n c).parts = s.parts ∧ (s.setConv t n c).fns = s.fns ∧
    (s.setConv t n c).queues = s.queues ∧ (s.setConv t n c).counters = s.counters ∧ (s.setConv t n c).nodes = s.nodes ∧
    (s.setConv t n c).frames = s.frames ∧ (s.setConv t n c).copies = s.copies ∧ (s.setConv t n c).jobs = s.jobs ∧
    (s.setConv t n c).mats = s.mats ∧ (s.setConv t n c).outWin = s.outWin ∧ (s.setConv t n c).inWin = s.inWin ∧
    (s.setConv t n c).posted = s.posted ∧ (s.setConv t n c).sent = s.sent ∧ (s.setConv t n c).answers = s.answers ∧
    (s.setConv t n c).planesDown = s.planesDown ∧ (s.setConv t n c).ckpts = s.ckpts ∧ (s.setConv t n c).toxic = s.toxic ∧
    (s.setConv t n c).controls = s.controls ∧ (s.setConv t n c).root = s.root ∧
    (s.setConv t n c).moved = s.moved ∧ (s.setConv t n c).overNow = s.overNow :=
  ⟨rfl, rfl, rfl, rfl, rfl, rfl, rfl, rfl, rfl, rfl, rfl, rfl, rfl, rfl, rfl, rfl, rfl, rfl, rfl, rfl, rfl, rfl, rfl, rfl, rfl, rfl, rfl, rfl, rfl, rfl, rfl, rfl, rfl, rfl, rfl, rfl, rfl, rfl, rfl, rfl, rfl, rfl⟩
@[simp] theorem State.setConv_teams (s : State) (t n : Nat) (c : Conv) : (s.setConv t n c).teams = Map.change s.teams t fun m => { m with conv := Map.put m.conv n c } := rfl
/-- What `State.setConv` leaves every accessor to find. -/
@[simp] theorem State.setConv_others (s : State) (t n : Nat) (c : Conv) :
    (∀ k, (s.setConv t n c).core k = s.core k) ∧ (∀ k, (s.setConv t n c).weave k = s.weave k) ∧
    (∀ k, (s.setConv t n c).gang k = s.gang k) ∧ (∀ k, (s.setConv t n c).sub k = s.sub k) ∧
    (∀ k, (s.setConv t n c).slice k = s.slice k) ∧ (∀ k, (s.setConv t n c).fn k = s.fn k) ∧
    (∀ k, (s.setConv t n c).part k = s.part k) ∧ (∀ k, (s.setConv t n c).die k = s.die k) :=
  ⟨fun _ => rfl, fun _ => rfl, fun _ => rfl, fun _ => rfl, fun _ => rfl, fun _ => rfl, fun _ => rfl, fun _ => rfl⟩

/-- What `State.eachWeave` leaves alone. -/
@[simp] theorem State.eachWeave_rest (s : State) (g : Group) (h : Nat → Mask → Weave → Weave) :
    (s.eachWeave g h).clock = s.clock ∧ (s.eachWeave g h).ptimeBase = s.ptimeBase ∧ (s.eachWeave g h).module_ = s.module_ ∧
    (s.eachWeave g h).agenda = s.agenda ∧ (s.eachWeave g h).waiting = s.waiting ∧ (s.eachWeave g h).turn = s.turn ∧
    (s.eachWeave g h).chosen = s.chosen ∧ (s.eachWeave g h).drawn = s.drawn ∧ (s.eachWeave g h).freeCtr = s.freeCtr ∧
    (s.eachWeave g h).issuing = s.issuing ∧ (s.eachWeave g h).mem = s.mem ∧ (s.eachWeave g h).poison = s.poison ∧
    (s.eachWeave g h).dirtyLines = s.dirtyLines ∧ (s.eachWeave g h).savedLines = s.savedLines ∧
    (s.eachWeave g h).groups = s.groups ∧ (s.eachWeave g h).teams = s.teams ∧ (s.eachWeave g h).gangs = s.gangs ∧
    (s.eachWeave g h).subs = s.subs ∧ (s.eachWeave g h).slices = s.slices ∧ (s.eachWeave g h).cores = s.cores ∧
    (s.eachWeave g h).dies = s.dies ∧ (s.eachWeave g h).parts = s.parts ∧ (s.eachWeave g h).fns = s.fns ∧
    (s.eachWeave g h).queues = s.queues ∧ (s.eachWeave g h).counters = s.counters ∧ (s.eachWeave g h).nodes = s.nodes ∧
    (s.eachWeave g h).frames = s.frames ∧ (s.eachWeave g h).copies = s.copies ∧ (s.eachWeave g h).jobs = s.jobs ∧
    (s.eachWeave g h).mats = s.mats ∧ (s.eachWeave g h).outWin = s.outWin ∧ (s.eachWeave g h).inWin = s.inWin ∧
    (s.eachWeave g h).posted = s.posted ∧ (s.eachWeave g h).sent = s.sent ∧ (s.eachWeave g h).answers = s.answers ∧
    (s.eachWeave g h).planesDown = s.planesDown ∧ (s.eachWeave g h).ckpts = s.ckpts ∧ (s.eachWeave g h).toxic = s.toxic ∧
    (s.eachWeave g h).controls = s.controls ∧ (s.eachWeave g h).root = s.root ∧
    (s.eachWeave g h).moved = s.moved ∧ (s.eachWeave g h).overNow = s.overNow :=
  ⟨rfl, rfl, rfl, rfl, rfl, rfl, rfl, rfl, rfl, rfl, rfl, rfl, rfl, rfl, rfl, rfl, rfl, rfl, rfl, rfl, rfl, rfl, rfl, rfl, rfl, rfl, rfl, rfl, rfl, rfl, rfl, rfl, rfl, rfl, rfl, rfl, rfl, rfl, rfl, rfl, rfl, rfl⟩
/-- What `State.eachWeave` leaves every accessor to find. -/
@[simp] theorem State.eachWeave_others (s : State) (g : Group) (h : Nat → Mask → Weave → Weave) :
    (∀ k, (s.eachWeave g h).core k = s.core k) ∧ (∀ k, (s.eachWeave g h).team k = s.team k) ∧
    (∀ k, (s.eachWeave g h).gang k = s.gang k) ∧ (∀ k, (s.eachWeave g h).sub k = s.sub k) ∧
    (∀ k, (s.eachWeave g h).slice k = s.slice k) ∧ (∀ k, (s.eachWeave g h).fn k = s.fn k) ∧
    (∀ k, (s.eachWeave g h).part k = s.part k) ∧ (∀ k, (s.eachWeave g h).die k = s.die k) :=
  ⟨fun _ => rfl, fun _ => rfl, fun _ => rfl, fun _ => rfl, fun _ => rfl, fun _ => rfl, fun _ => rfl, fun _ => rfl⟩

/-- What `State.markDead` leaves alone. -/
@[simp] theorem State.markDead_rest (s : State) (g : Group) (op : Nat) (f : Fields) :
    (s.markDead g op f).clock = s.clock ∧ (s.markDead g op f).ptimeBase = s.ptimeBase ∧
    (s.markDead g op f).module_ = s.module_ ∧ (s.markDead g op f).agenda = s.agenda ∧
    (s.markDead g op f).waiting = s.waiting ∧ (s.markDead g op f).turn = s.turn ∧ (s.markDead g op f).chosen = s.chosen ∧
    (s.markDead g op f).drawn = s.drawn ∧ (s.markDead g op f).freeCtr = s.freeCtr ∧ (s.markDead g op f).issuing = s.issuing ∧
    (s.markDead g op f).mem = s.mem ∧ (s.markDead g op f).poison = s.poison ∧ (s.markDead g op f).dirtyLines = s.dirtyLines ∧
    (s.markDead g op f).savedLines = s.savedLines ∧ (s.markDead g op f).groups = s.groups ∧
    (s.markDead g op f).teams = s.teams ∧ (s.markDead g op f).gangs = s.gangs ∧ (s.markDead g op f).subs = s.subs ∧
    (s.markDead g op f).slices = s.slices ∧ (s.markDead g op f).cores = s.cores ∧ (s.markDead g op f).dies = s.dies ∧
    (s.markDead g op f).parts = s.parts ∧ (s.markDead g op f).fns = s.fns ∧ (s.markDead g op f).queues = s.queues ∧
    (s.markDead g op f).counters = s.counters ∧ (s.markDead g op f).nodes = s.nodes ∧ (s.markDead g op f).frames = s.frames ∧
    (s.markDead g op f).copies = s.copies ∧ (s.markDead g op f).jobs = s.jobs ∧ (s.markDead g op f).mats = s.mats ∧
    (s.markDead g op f).outWin = s.outWin ∧ (s.markDead g op f).inWin = s.inWin ∧ (s.markDead g op f).posted = s.posted ∧
    (s.markDead g op f).sent = s.sent ∧ (s.markDead g op f).answers = s.answers ∧
    (s.markDead g op f).planesDown = s.planesDown ∧ (s.markDead g op f).ckpts = s.ckpts ∧
    (s.markDead g op f).toxic = s.toxic ∧ (s.markDead g op f).controls = s.controls ∧ (s.markDead g op f).root = s.root ∧
    (s.markDead g op f).moved = s.moved ∧ (s.markDead g op f).overNow = s.overNow :=
  ⟨rfl, rfl, rfl, rfl, rfl, rfl, rfl, rfl, rfl, rfl, rfl, rfl, rfl, rfl, rfl, rfl, rfl, rfl, rfl, rfl, rfl, rfl, rfl, rfl, rfl, rfl, rfl, rfl, rfl, rfl, rfl, rfl, rfl, rfl, rfl, rfl, rfl, rfl, rfl, rfl, rfl, rfl⟩
/-- What `State.markDead` leaves every accessor to find. -/
@[simp] theorem State.markDead_others (s : State) (g : Group) (op : Nat) (f : Fields) :
    (∀ k, (s.markDead g op f).core k = s.core k) ∧ (∀ k, (s.markDead g op f).team k = s.team k) ∧
    (∀ k, (s.markDead g op f).gang k = s.gang k) ∧ (∀ k, (s.markDead g op f).sub k = s.sub k) ∧
    (∀ k, (s.markDead g op f).slice k = s.slice k) ∧ (∀ k, (s.markDead g op f).fn k = s.fn k) ∧
    (∀ k, (s.markDead g op f).part k = s.part k) ∧ (∀ k, (s.markDead g op f).die k = s.die k) :=
  ⟨fun _ => rfl, fun _ => rfl, fun _ => rfl, fun _ => rfl, fun _ => rfl, fun _ => rfl, fun _ => rfl, fun _ => rfl⟩

/-- What `State.writeTrap` leaves alone. -/
@[simp] theorem State.writeTrap_rest (s : State) (u : Nat) (cause : Byte) (pc : Slot) (addr : Word64) (lanes : Mask) :
    (s.writeTrap u cause pc addr lanes).clock = s.clock ∧ (s.writeTrap u cause pc addr lanes).ptimeBase = s.ptimeBase ∧
    (s.writeTrap u cause pc addr lanes).module_ = s.module_ ∧ (s.writeTrap u cause pc addr lanes).agenda = s.agenda ∧
    (s.writeTrap u cause pc addr lanes).waiting = s.waiting ∧ (s.writeTrap u cause pc addr lanes).turn = s.turn ∧
    (s.writeTrap u cause pc addr lanes).chosen = s.chosen ∧ (s.writeTrap u cause pc addr lanes).drawn = s.drawn ∧
    (s.writeTrap u cause pc addr lanes).freeCtr = s.freeCtr ∧ (s.writeTrap u cause pc addr lanes).issuing = s.issuing ∧
    (s.writeTrap u cause pc addr lanes).mem = s.mem ∧ (s.writeTrap u cause pc addr lanes).poison = s.poison ∧
    (s.writeTrap u cause pc addr lanes).dirtyLines = s.dirtyLines ∧
    (s.writeTrap u cause pc addr lanes).savedLines = s.savedLines ∧ (s.writeTrap u cause pc addr lanes).groups = s.groups ∧
    (s.writeTrap u cause pc addr lanes).teams = s.teams ∧ (s.writeTrap u cause pc addr lanes).gangs = s.gangs ∧
    (s.writeTrap u cause pc addr lanes).subs = s.subs ∧ (s.writeTrap u cause pc addr lanes).slices = s.slices ∧
    (s.writeTrap u cause pc addr lanes).cores = s.cores ∧ (s.writeTrap u cause pc addr lanes).dies = s.dies ∧
    (s.writeTrap u cause pc addr lanes).parts = s.parts ∧ (s.writeTrap u cause pc addr lanes).fns = s.fns ∧
    (s.writeTrap u cause pc addr lanes).queues = s.queues ∧ (s.writeTrap u cause pc addr lanes).counters = s.counters ∧
    (s.writeTrap u cause pc addr lanes).nodes = s.nodes ∧ (s.writeTrap u cause pc addr lanes).frames = s.frames ∧
    (s.writeTrap u cause pc addr lanes).copies = s.copies ∧ (s.writeTrap u cause pc addr lanes).jobs = s.jobs ∧
    (s.writeTrap u cause pc addr lanes).mats = s.mats ∧ (s.writeTrap u cause pc addr lanes).outWin = s.outWin ∧
    (s.writeTrap u cause pc addr lanes).inWin = s.inWin ∧ (s.writeTrap u cause pc addr lanes).posted = s.posted ∧
    (s.writeTrap u cause pc addr lanes).sent = s.sent ∧ (s.writeTrap u cause pc addr lanes).answers = s.answers ∧
    (s.writeTrap u cause pc addr lanes).planesDown = s.planesDown ∧ (s.writeTrap u cause pc addr lanes).ckpts = s.ckpts ∧
    (s.writeTrap u cause pc addr lanes).toxic = s.toxic ∧ (s.writeTrap u cause pc addr lanes).controls = s.controls ∧
    (s.writeTrap u cause pc addr lanes).root = s.root ∧
    (s.writeTrap u cause pc addr lanes).moved = s.moved ∧ (s.writeTrap u cause pc addr lanes).overNow = s.overNow :=
  ⟨rfl, rfl, rfl, rfl, rfl, rfl, rfl, rfl, rfl, rfl, rfl, rfl, rfl, rfl, rfl, rfl, rfl, rfl, rfl, rfl, rfl, rfl, rfl, rfl, rfl, rfl, rfl, rfl, rfl, rfl, rfl, rfl, rfl, rfl, rfl, rfl, rfl, rfl, rfl, rfl, rfl, rfl⟩
/-- What `State.writeTrap` leaves every accessor to find. -/
@[simp] theorem State.writeTrap_others (s : State) (u : Nat) (cause : Byte) (pc : Slot) (addr : Word64) (lanes : Mask) :
    (∀ k, (s.writeTrap u cause pc addr lanes).core k = s.core k) ∧
    (∀ k, (s.writeTrap u cause pc addr lanes).team k = s.team k) ∧
    (∀ k, (s.writeTrap u cause pc addr lanes).gang k = s.gang k) ∧
    (∀ k, (s.writeTrap u cause pc addr lanes).sub k = s.sub k) ∧
    (∀ k, (s.writeTrap u cause pc addr lanes).slice k = s.slice k) ∧
    (∀ k, (s.writeTrap u cause pc addr lanes).fn k = s.fn k) ∧ (∀ k, (s.writeTrap u cause pc addr lanes).part k = s.part k) ∧
    (∀ k, (s.writeTrap u cause pc addr lanes).die k = s.die k) :=
  ⟨fun _ => rfl, fun _ => rfl, fun _ => rfl, fun _ => rfl, fun _ => rfl, fun _ => rfl, fun _ => rfl, fun _ => rfl⟩

/-- What `State.tick` leaves alone. -/
@[simp] theorem State.tick_rest (s : State)  :
    (s.tick).ptimeBase = s.ptimeBase ∧ (s.tick).module_ = s.module_ ∧ (s.tick).agenda = s.agenda ∧
    (s.tick).waiting = s.waiting ∧ (s.tick).turn = s.turn ∧ (s.tick).groups = s.groups ∧ (s.tick).cores = s.cores ∧ (s.tick).drawn = s.drawn ∧
    (s.tick).freeCtr = s.freeCtr ∧ (s.tick).issuing = s.issuing ∧ (s.tick).mem = s.mem ∧ (s.tick).poison = s.poison ∧
    (s.tick).dirtyLines = s.dirtyLines ∧ (s.tick).savedLines = s.savedLines ∧ (s.tick).weaves = s.weaves ∧
    (s.tick).teams = s.teams ∧ (s.tick).gangs = s.gangs ∧ (s.tick).subs = s.subs ∧ (s.tick).slices = s.slices ∧
    (s.tick).dies = s.dies ∧ (s.tick).parts = s.parts ∧ (s.tick).fns = s.fns ∧ (s.tick).queues = s.queues ∧
    (s.tick).counters = s.counters ∧ (s.tick).nodes = s.nodes ∧ (s.tick).frames = s.frames ∧ (s.tick).copies = s.copies ∧
    (s.tick).jobs = s.jobs ∧ (s.tick).mats = s.mats ∧ (s.tick).outWin = s.outWin ∧ (s.tick).inWin = s.inWin ∧
    (s.tick).posted = s.posted ∧ (s.tick).sent = s.sent ∧ (s.tick).answers = s.answers ∧ (s.tick).planesDown = s.planesDown ∧
    (s.tick).ckpts = s.ckpts ∧ (s.tick).toxic = s.toxic ∧ (s.tick).controls = s.controls ∧ (s.tick).root = s.root ∧
    (s.tick).moved = s.moved ∧ (s.tick).overNow = s.overNow :=
  ⟨rfl, rfl, rfl, rfl, rfl, rfl, rfl, rfl, rfl, rfl, rfl, rfl, rfl, rfl, rfl, rfl, rfl, rfl, rfl, rfl, rfl, rfl, rfl, rfl, rfl, rfl, rfl, rfl, rfl, rfl, rfl, rfl, rfl, rfl, rfl, rfl, rfl, rfl, rfl, rfl, rfl⟩
@[simp] theorem State.tick_clock (s : State) : (s.tick).clock = s.clock + 1 := rfl
@[simp] theorem State.tick_chosen (s : State) : (s.tick).chosen = false := rfl
/-- What `State.tick` leaves every accessor to find. -/
@[simp] theorem State.tick_others (s : State)  :
    (∀ k, (s.tick).core k = s.core k) ∧ (∀ k, (s.tick).weave k = s.weave k) ∧ (∀ k, (s.tick).team k = s.team k) ∧ (∀ k, (s.tick).gang k = s.gang k) ∧
    (∀ k, (s.tick).sub k = s.sub k) ∧ (∀ k, (s.tick).slice k = s.slice k) ∧ (∀ k, (s.tick).fn k = s.fn k) ∧
    (∀ k, (s.tick).part k = s.part k) ∧ (∀ k, (s.tick).die k = s.die k) :=
  ⟨fun _ => rfl, fun _ => rfl, fun _ => rfl, fun _ => rfl, fun _ => rfl, fun _ => rfl, fun _ => rfl, fun _ => rfl, fun _ => rfl⟩

/-- What `State.retire` leaves alone. -/
@[simp] theorem State.retire_rest (s : State) (g : Group) (f : Fields) :
    (s.retire g f).clock = s.clock ∧ (s.retire g f).ptimeBase = s.ptimeBase ∧ (s.retire g f).module_ = s.module_ ∧
    (s.retire g f).agenda = s.agenda ∧ (s.retire g f).waiting = s.waiting ∧ (s.retire g f).turn = s.turn ∧
    (s.retire g f).chosen = s.chosen ∧ (s.retire g f).drawn = s.drawn ∧ (s.retire g f).freeCtr = s.freeCtr ∧
    (s.retire g f).issuing = s.issuing ∧ (s.retire g f).mem = s.mem ∧ (s.retire g f).poison = s.poison ∧
    (s.retire g f).dirtyLines = s.dirtyLines ∧ (s.retire g f).savedLines = s.savedLines ∧ (s.retire g f).groups = s.groups ∧
    (s.retire g f).teams = s.teams ∧ (s.retire g f).subs = s.subs ∧ (s.retire g f).slices = s.slices ∧
    (s.retire g f).cores = s.cores ∧ (s.retire g f).dies = s.dies ∧ (s.retire g f).parts = s.parts ∧
    (s.retire g f).fns = s.fns ∧ (s.retire g f).queues = s.queues ∧ (s.retire g f).counters = s.counters ∧
    (s.retire g f).nodes = s.nodes ∧ (s.retire g f).frames = s.frames ∧ (s.retire g f).copies = s.copies ∧
    (s.retire g f).jobs = s.jobs ∧ (s.retire g f).mats = s.mats ∧ (s.retire g f).outWin = s.outWin ∧
    (s.retire g f).inWin = s.inWin ∧ (s.retire g f).posted = s.posted ∧ (s.retire g f).sent = s.sent ∧
    (s.retire g f).answers = s.answers ∧ (s.retire g f).planesDown = s.planesDown ∧ (s.retire g f).ckpts = s.ckpts ∧
    (s.retire g f).toxic = s.toxic ∧ (s.retire g f).controls = s.controls ∧ (s.retire g f).root = s.root ∧
    (s.retire g f).moved = s.moved ∧ (s.retire g f).overNow = s.overNow :=
  ⟨rfl, rfl, rfl, rfl, rfl, rfl, rfl, rfl, rfl, rfl, rfl, rfl, rfl, rfl, rfl, rfl, rfl, rfl, rfl, rfl, rfl, rfl, rfl, rfl, rfl, rfl, rfl, rfl, rfl, rfl, rfl, rfl, rfl, rfl, rfl, rfl, rfl, rfl, rfl, rfl, rfl⟩
/-- What `State.retire` leaves every accessor to find. -/
@[simp] theorem State.retire_others (s : State) (g : Group) (f : Fields) :
    (∀ k, (s.retire g f).core k = s.core k) ∧ (∀ k, (s.retire g f).team k = s.team k) ∧
    (∀ k, (s.retire g f).sub k = s.sub k) ∧ (∀ k, (s.retire g f).slice k = s.slice k) ∧ (∀ k, (s.retire g f).fn k = s.fn k) ∧
    (∀ k, (s.retire g f).part k = s.part k) ∧ (∀ k, (s.retire g f).die k = s.die k) :=
  ⟨fun _ => rfl, fun _ => rfl, fun _ => rfl, fun _ => rfl, fun _ => rfl, fun _ => rfl, fun _ => rfl⟩

/-- What `State.finish` leaves alone. -/
@[simp] theorem State.finish_rest (s : State) (next : List Group) :
    (s.finish next).ptimeBase = s.ptimeBase ∧ (s.finish next).module_ = s.module_ ∧ (s.finish next).agenda = s.agenda ∧
    (s.finish next).waiting = s.waiting ∧ (s.finish next).turn = s.turn ∧ (s.finish next).chosen = s.chosen ∧
    (s.finish next).drawn = s.drawn ∧ (s.finish next).freeCtr = s.freeCtr ∧ (s.finish next).mem = s.mem ∧
    (s.finish next).poison = s.poison ∧ (s.finish next).dirtyLines = s.dirtyLines ∧
    (s.finish next).savedLines = s.savedLines ∧ (s.finish next).weaves = s.weaves ∧ (s.finish next).teams = s.teams ∧
    (s.finish next).gangs = s.gangs ∧ (s.finish next).subs = s.subs ∧ (s.finish next).slices = s.slices ∧
    (s.finish next).cores = s.cores ∧ (s.finish next).dies = s.dies ∧ (s.finish next).parts = s.parts ∧ (s.finish next).fns = s.fns ∧
    (s.finish next).queues = s.queues ∧ (s.finish next).counters = s.counters ∧ (s.finish next).nodes = s.nodes ∧
    (s.finish next).frames = s.frames ∧ (s.finish next).copies = s.copies ∧ (s.finish next).jobs = s.jobs ∧
    (s.finish next).mats = s.mats ∧ (s.finish next).outWin = s.outWin ∧ (s.finish next).inWin = s.inWin ∧
    (s.finish next).posted = s.posted ∧ (s.finish next).sent = s.sent ∧ (s.finish next).answers = s.answers ∧
    (s.finish next).planesDown = s.planesDown ∧ (s.finish next).ckpts = s.ckpts ∧ (s.finish next).toxic = s.toxic ∧
    (s.finish next).controls = s.controls ∧ (s.finish next).root = s.root ∧
    (s.finish next).moved = s.moved ∧ (s.finish next).overNow = s.overNow :=
  ⟨rfl, rfl, rfl, rfl, rfl, rfl, rfl, rfl, rfl, rfl, rfl, rfl, rfl, rfl, rfl, rfl, rfl, rfl, rfl, rfl, rfl, rfl, rfl, rfl, rfl, rfl, rfl, rfl, rfl, rfl, rfl, rfl, rfl, rfl, rfl, rfl, rfl, rfl, rfl, rfl⟩
@[simp] theorem State.finish_clock (s : State) (next : List Group) : (s.finish next).clock = s.clock := rfl
@[simp] theorem State.finish_issuing (s : State) (next : List Group) : (s.finish next).issuing = none := rfl
/-- What `State.finish` leaves every accessor to find. -/
@[simp] theorem State.finish_others (s : State) (next : List Group) :
    (∀ k, (s.finish next).core k = s.core k) ∧ (∀ k, (s.finish next).weave k = s.weave k) ∧ (∀ k, (s.finish next).team k = s.team k) ∧
    (∀ k, (s.finish next).gang k = s.gang k) ∧ (∀ k, (s.finish next).sub k = s.sub k) ∧
    (∀ k, (s.finish next).slice k = s.slice k) ∧ (∀ k, (s.finish next).fn k = s.fn k) ∧
    (∀ k, (s.finish next).part k = s.part k) ∧ (∀ k, (s.finish next).die k = s.die k) :=
  ⟨fun _ => rfl, fun _ => rfl, fun _ => rfl, fun _ => rfl, fun _ => rfl, fun _ => rfl, fun _ => rfl, fun _ => rfl, fun _ => rfl⟩

/-- What `State.free.2` leaves alone. -/
@[simp] theorem State.free_snd_rest (s : State)  :
    (s.free.2).clock = s.clock ∧ (s.free.2).ptimeBase = s.ptimeBase ∧ (s.free.2).module_ = s.module_ ∧
    (s.free.2).agenda = s.agenda ∧ (s.free.2).waiting = s.waiting ∧ (s.free.2).turn = s.turn ∧ (s.free.2).chosen = s.chosen ∧
    (s.free.2).drawn = s.drawn ∧ (s.free.2).issuing = s.issuing ∧ (s.free.2).mem = s.mem ∧ (s.free.2).poison = s.poison ∧
    (s.free.2).dirtyLines = s.dirtyLines ∧ (s.free.2).savedLines = s.savedLines ∧ (s.free.2).groups = s.groups ∧
    (s.free.2).weaves = s.weaves ∧ (s.free.2).teams = s.teams ∧ (s.free.2).gangs = s.gangs ∧ (s.free.2).subs = s.subs ∧
    (s.free.2).slices = s.slices ∧ (s.free.2).cores = s.cores ∧ (s.free.2).dies = s.dies ∧ (s.free.2).parts = s.parts ∧
    (s.free.2).fns = s.fns ∧ (s.free.2).queues = s.queues ∧ (s.free.2).counters = s.counters ∧ (s.free.2).nodes = s.nodes ∧
    (s.free.2).frames = s.frames ∧ (s.free.2).copies = s.copies ∧ (s.free.2).jobs = s.jobs ∧ (s.free.2).mats = s.mats ∧
    (s.free.2).outWin = s.outWin ∧ (s.free.2).inWin = s.inWin ∧ (s.free.2).posted = s.posted ∧ (s.free.2).sent = s.sent ∧
    (s.free.2).answers = s.answers ∧ (s.free.2).planesDown = s.planesDown ∧ (s.free.2).ckpts = s.ckpts ∧
    (s.free.2).toxic = s.toxic ∧ (s.free.2).controls = s.controls ∧ (s.free.2).root = s.root ∧
    (s.free.2).moved = s.moved ∧ (s.free.2).overNow = s.overNow :=
  ⟨rfl, rfl, rfl, rfl, rfl, rfl, rfl, rfl, rfl, rfl, rfl, rfl, rfl, rfl, rfl, rfl, rfl, rfl, rfl, rfl, rfl, rfl, rfl, rfl, rfl, rfl, rfl, rfl, rfl, rfl, rfl, rfl, rfl, rfl, rfl, rfl, rfl, rfl, rfl, rfl, rfl, rfl⟩
@[simp] theorem State.free_snd_freeCtr (s : State)  : (s.free.2).freeCtr = s.freeCtr + 1 := rfl
/-- What `State.free.2` leaves every accessor to find. -/
@[simp] theorem State.free_snd_others (s : State)  :
    (∀ k, (s.free.2).core k = s.core k) ∧ (∀ k, (s.free.2).weave k = s.weave k) ∧ (∀ k, (s.free.2).team k = s.team k) ∧
    (∀ k, (s.free.2).gang k = s.gang k) ∧ (∀ k, (s.free.2).sub k = s.sub k) ∧ (∀ k, (s.free.2).slice k = s.slice k) ∧
    (∀ k, (s.free.2).fn k = s.fn k) ∧ (∀ k, (s.free.2).part k = s.part k) ∧ (∀ k, (s.free.2).die k = s.die k) :=
  ⟨fun _ => rfl, fun _ => rfl, fun _ => rfl, fun _ => rfl, fun _ => rfl, fun _ => rfl, fun _ => rfl, fun _ => rfl, fun _ => rfl⟩

/-! ### What the accessors find after updates -/

theorem State.weave_changeWeave (s : State) (u : Nat) (g : Weave → Weave) (x : Nat) :
    (s.changeWeave u g).weave x = if x = u ∧ (Map.find s.weaves x).isSome then g (s.weave x) else s.weave x :=
  Map.at_change_default s.weaves {} u g x

theorem State.team_changeTeam (s : State) (t : Nat) (g : Team → Team) (x : Nat) :
    (s.changeTeam t g).team x = if x = t ∧ (Map.find s.teams x).isSome then g (s.team x) else s.team x :=
  Map.at_change_default s.teams {} t g x

theorem State.gang_changeGang (s : State) (n : Nat) (g : Gang → Gang) (x : Nat) :
    (s.changeGang n g).gang x = if x = n ∧ (Map.find s.gangs x).isSome then g (s.gang x) else s.gang x :=
  Map.at_change_default s.gangs {} n g x

theorem State.slice_changeSlice (s : State) (n : Nat) (g : Slice → Slice) (x : Nat) :
    (s.changeSlice n g).slice x = if x = n ∧ (Map.find s.slices x).isSome then g (s.slice x) else s.slice x :=
  Map.at_change_default s.slices {} n g x

theorem State.sub_changeSub (s : State) (n : Nat) (g : Sub → Sub) (x : Nat) :
    (s.changeSub n g).sub x = if x = n ∧ (Map.find s.subs x).isSome then g (s.sub x) else s.sub x :=
  Map.at_change_default s.subs {} n g x

theorem State.core_changeCore (s : State) (c : Nat) (g : Core → Core) (x : Nat) :
    (s.changeCore c g).core x = if x = c then g (s.core x) else s.core x := by
  simp only [State.core, State.changeCore_cores, Map.at_put]
  split
  · rename_i h; subst h; rfl
  · rfl

theorem State.fn_changeFn (s : State) (n : Nat) (g : Fn → Fn) (x : Nat) :
    (s.changeFn n g).fn x = if x = n then g (s.fn x) else s.fn x := by
  simp only [State.fn, State.changeFn_fns, Map.at_put]
  split
  · rename_i h; subst h; rfl
  · rfl

theorem State.part_changePart (s : State) (n : Nat) (g : Part → Part) (x : Nat) :
    (s.changePart n g).part x = if x = n then g (s.part x) else s.part x := by
  simp only [State.part, State.changePart_parts, Map.at_put]
  split
  · rename_i h; subst h; rfl
  · rfl

theorem State.die_changeDie (s : State) (n : Nat) (g : Die → Die) (x : Nat) :
    (s.changeDie n g).die x = if x = n then g (s.die x) else s.die x := by
  simp only [State.die, State.changeDie_dies, Map.at_put]
  split
  · rename_i h; subst h; rfl
  · rfl

theorem State.find_eachWeave (s : State) (g : Group) (h : Nat → Mask → Weave → Weave) (u : Nat) :
    Map.find (s.eachWeave g h).weaves u =
      (Map.find s.weaves u).map fun w => match Map.find g.members u with | some m => h u m w | none => w :=
  Map.find_mapEntries (β := Weave)
    (fun (u : Nat) (w : Weave) => match Map.find g.members u with | some m => h u m w | none => w) s.weaves u

/-- What a weave is after a change of the weaves of a group. -/
theorem State.weave_eachWeave (s : State) (g : Group) (h : Nat → Mask → Weave → Weave) (u : Nat) :
    (s.eachWeave g h).weave u =
      if (Map.find s.weaves u).isSome then
        match Map.find g.members u with
        | some m => h u m (s.weave u)
        | none => s.weave u
      else s.weave u := by
  rw [State.weave, Map.at, State.find_eachWeave, State.weave, Map.at]
  cases Map.find s.weaves u <;> rfl

/-- A weave outside the group stays as it is. -/
theorem State.weave_eachWeave_other (s : State) (g : Group) (h : Nat → Mask → Weave → Weave) (u : Nat)
    (hu : Map.find g.members u = none) : (s.eachWeave g h).weave u = s.weave u := by
  rw [State.weave_eachWeave, hu]; split <;> rfl

/-- A weave of the group that exists is changed with its lanes. -/
theorem State.weave_eachWeave_self (s : State) (g : Group) (h : Nat → Mask → Weave → Weave) (u : Nat) (m : Mask)
    (hw : (Map.find s.weaves u).isSome) (hm : Map.find g.members u = some m) :
    (s.eachWeave g h).weave u = h u m (s.weave u) := by
  rw [State.weave_eachWeave, hm, if_pos hw]

theorem State.find_weaves_eachWeave (s : State) (g : Group) (h : Nat → Mask → Weave → Weave) (u : Nat) :
    (Map.find (s.eachWeave g h).weaves u).isSome = (Map.find s.weaves u).isSome := by
  rw [State.find_eachWeave]
  cases Map.find s.weaves u <;> rfl

end Sys2Proof.Machine
end

