-- ==== Sys2Proof/Laws/Registers.lean ====
section
/-! SUPPORT. Laws of the registers of a weave: reading after writing (R16 to R19, R39, R42), and what each write leaves
alone. -/

namespace Sys2Proof.Machine

/-! ### v registers -/

theorem Weave.lane_range (n l : Nat) (f : Nat → Word64) (hl : l < n) : ((List.range n).map f).getD l 0 = f l := by
  simp [List.getD, hl]

theorem Weave.getLsbD_of_ge (m : Mask) (l : Nat) (hl : 32 ≤ l) : m.getLsbD l = false := BitVec.getLsbD_of_ge m l hl

@[simp] theorem Weave.vwrite_live (w : Weave) (n : Nat) (m : Mask) (val : Nat → Word64) : (w.vwrite n m val).live = w.live := by
  unfold Weave.vwrite; simp only; split <;> rfl

/-- A lane that is written and not vacant reads the value written; every other lane reads as before. -/
theorem Weave.vread_vwrite (w : Weave) (n : Nat) (m : Mask) (val : Nat → Word64) (k l : Nat) :
    (w.vwrite n m val).vread k l =
      if k = n ∧ (m &&& w.live).getLsbD l = true then val l else w.vread k l := by
  unfold Weave.vwrite
  by_cases h0 : m &&& w.live = 0
  · simp [h0]
  · simp only [h0, if_false, Weave.vread, Weave.lane, Map.at_put]
    by_cases hv : w.live.getLsbD l = true
    · have hl : l < 32 := by
        rcases Nat.lt_or_ge l 32 with h | h
        · exact h
        · rw [BitVec.getLsbD_of_ge _ _ h] at hv; cases hv
      by_cases hk : k = n
      · subst hk
        simp only [hv, if_true, Weave.merged, Weave.lane_range 32 l _ hl, true_and, Weave.vread, Weave.lane]
      · simp [hk]
    · have : (m &&& w.live).getLsbD l = false := by simp [hv]
      simp [hv]

theorem Weave.sread_vwrite (w : Weave) (n : Nat) (m : Mask) (val : Nat → Word64) (k : Nat) :
    (w.vwrite n m val).sread k = w.sread k := by
  unfold Weave.vwrite; simp only; split <;> rfl

theorem Weave.pred_vwrite (w : Weave) (n : Nat) (m : Mask) (val : Nat → Word64) (k : Nat) :
    (w.vwrite n m val).pred k = w.pred k := by
  unfold Weave.vwrite; simp only; split <;> rfl

/-! ### s registers -/

theorem Weave.sread_swrite (w : Weave) (n : Nat) (x : Word64) (k : Nat) :
    (w.swrite n x).sread k = if k = n then x else w.sread k := by
  simp [Weave.swrite, Weave.sread, Map.at_put]

@[simp] theorem Weave.vread_swrite (w : Weave) (n : Nat) (x : Word64) (k l : Nat) : (w.swrite n x).vread k l = w.vread k l := rfl
@[simp] theorem Weave.pred_swrite (w : Weave) (n : Nat) (x : Word64) (k : Nat) : (w.swrite n x).pred k = w.pred k := rfl
@[simp] theorem Weave.swrite_live (w : Weave) (n : Nat) (x : Word64) : (w.swrite n x).live = w.live := rfl

/-! ### p registers -/

@[simp] theorem Weave.pwrite_live (w : Weave) (n : Nat) (m : Mask) (val : Nat → Bool) : (w.pwrite n m val).live = w.live := by
  unfold Weave.pwrite; split <;> rfl

@[simp] theorem Weave.vread_pwrite (w : Weave) (n : Nat) (m : Mask) (val : Nat → Bool) (k l : Nat) :
    (w.pwrite n m val).vread k l = w.vread k l := by
  unfold Weave.pwrite; split <;> rfl

@[simp] theorem Weave.sread_pwrite (w : Weave) (n : Nat) (m : Mask) (val : Nat → Bool) (k : Nat) :
    (w.pwrite n m val).sread k = w.sread k := by
  unfold Weave.pwrite; split <;> rfl

theorem Weave.pred_pwrite_other (w : Weave) (n : Nat) (m : Mask) (val : Nat → Bool) (k : Nat) (hk : k ≠ n) :
    (w.pwrite n m val).pred k = w.pred k := by
  unfold Weave.pwrite
  split
  · rfl
  · simp [Weave.pred, Map.at_put, hk]

theorem getLsbD_laneBit (x l : Nat) (hl : l < 32) : (laneBit x).getLsbD l = decide (l = x) := by
  rw [laneBit, BitVec.getLsbD_twoPow]
  by_cases h : l = x
  · subst h; simp [hl]
  · simp [h, Ne.symm h]

theorem getLsbD_foldl_lane (ls : List Nat) (m : Mask) (l : Nat) (hl : l < 32) :
    (ls.foldl (fun m l => m ||| laneBit l) m).getLsbD l = (m.getLsbD l || decide (l ∈ ls)) := by
  induction ls generalizing m with
  | nil => simp
  | cons x ls ih => rw [List.foldl_cons, ih]; simp [getLsbD_laneBit x l hl, Bool.or_assoc]

/-- The lanes of a mask made of a list. -/
theorem getLsbD_maskOf (ls : List Nat) (l : Nat) (hl : l < 32) : (maskOf ls).getLsbD l = decide (l ∈ ls) := by
  rw [maskOf, getLsbD_foldl_lane ls 0 l hl]
  simp

theorem getLsbD_maskOf_filter (val : Nat → Bool) (l : Nat) (hl : l < 32) :
    (maskOf ((List.range 32).filter val)).getLsbD l = val l := by
  rw [getLsbD_maskOf _ l hl]
  simp [hl]

theorem mem_lanesOf (m : Mask) (l : Nat) : l ∈ lanesOf m ↔ m.getLsbD l = true := by
  simp only [lanesOf, List.mem_filter, List.mem_range]
  constructor
  · exact fun h => h.2
  · intro h
    refine ⟨?_, h⟩
    rcases Nat.lt_or_ge l 32 with hl | hl
    · exact hl
    · rw [BitVec.getLsbD_of_ge _ _ hl] at h; cases h

theorem Weave.pread_pwrite (w : Weave) (n : Nat) (m : Mask) (val : Nat → Bool) (k l : Nat) :
    (w.pwrite n m val).pread k l =
      if k = n ∧ n ≠ 7 ∧ (m &&& w.live).getLsbD l = true then val l else w.pread k l := by
  by_cases hn : n = 7
  · subst hn; simp [Weave.pwrite]
  · by_cases hk : k = n
    · subst hk
      by_cases hl : l < 32
      · simp only [Weave.pread, Weave.pwrite_live]
        simp only [Weave.pwrite, Weave.pred, hn, if_false, Map.at_put, if_true]
        simp only [BitVec.getLsbD_or, BitVec.getLsbD_and, BitVec.getLsbD_not, getLsbD_maskOf_filter val l hl, hl]
        cases w.live.getLsbD l <;> cases m.getLsbD l <;> simp [hn]
      · have h : ∀ x : Mask, x.getLsbD l = false := fun x => BitVec.getLsbD_of_ge x l (by omega)
        simp [Weave.pread, h]
    · simp only [Weave.pread, Weave.pwrite_live, Weave.pred_pwrite_other w n m val k hk, hk, false_and, if_false]

theorem Weave.pred_seven (w : Weave) : w.pred 7 = BitVec.allOnes 32 := rfl

end Sys2Proof.Machine
end

