-- ==== Sys2Proof/Laws/Effects.lean ====
section
/-! SUPPORT. Laws of the shared operations of the register instructions: what a write to a destination does and leaves alone,
and that an instruction whose body completes does complete, with its frame. -/

namespace Sys2Proof.Machine

/-! ### Writes to destinations -/

theorem Weave.keeps_refl (w : Weave) : w.keeps w := rfl

theorem Weave.keeps_trans {w x y : Weave} (h1 : w.keeps x) (h2 : x.keeps y) : w.keeps y := by
  unfold Weave.keeps at *
  rw [h2, h1]

theorem Weave.keepsRegisters_refl (w : Weave) (ds : List Operand) : w.keepsRegisters w ds :=
  ⟨fun _ _ _ => rfl, fun _ _ => rfl, fun _ _ => rfl⟩

theorem Weave.keepsRegisters_trans {w x y : Weave} {ds es fs : List Operand} (h1 : w.keepsRegisters x ds)
    (h2 : x.keepsRegisters y es) (hd : ∀ o ∈ ds, o ∈ fs) (he : ∀ o ∈ es, o ∈ fs) : w.keepsRegisters y fs :=
  ⟨fun n hn l => (h2.1 n (fun h => hn (he _ h)) l).trans (h1.1 n (fun h => hn (hd _ h)) l),
    fun n hn => (h2.2.1 n fun h => hn (he _ h)).trans (h1.2.1 n fun h => hn (hd _ h)),
    fun n hn => (h2.2.2 n fun h => hn (he _ h)).trans (h1.2.2 n fun h => hn (hd _ h))⟩

theorem Weave.keeps_vwrite (w : Weave) (n : Nat) (m : Mask) (val : Nat → Word64) : w.keeps (w.vwrite n m val) := by
  unfold Weave.vwrite; simp only; split <;> rfl

theorem Weave.keeps_swrite (w : Weave) (n : Nat) (x : Word64) : w.keeps (w.swrite n x) := rfl

theorem Weave.keeps_pwrite (w : Weave) (n : Nat) (m : Mask) (val : Nat → Bool) : w.keeps (w.pwrite n m val) := by
  unfold Weave.pwrite; split <;> rfl

theorem Weave.keeps_dest (w : Weave) (o : Operand) (m : Mask) (val : Nat → Word64) (once : Word64) :
    w.keeps (w.dest o m val once) := by
  unfold Weave.dest
  split
  · exact w.keeps_vwrite _ _ _
  · split
    · rfl
    · exact w.keeps_swrite _ _
  · exact w.keeps_pwrite _ _ _
  · rfl

theorem Weave.keepsRegisters_vwrite (w : Weave) (n : BitVec 7) (m : Mask) (val : Nat → Word64) :
    w.keepsRegisters (w.vwrite n.toNat m val) [.v n] := by
  refine ⟨fun k hk l => ?_, fun k _ => w.sread_vwrite _ _ _ _, fun k _ => w.pred_vwrite _ _ _ _⟩
  rw [Weave.vread_vwrite, if_neg]
  rintro ⟨h, -⟩
  exact hk (by simp [BitVec.eq_of_toNat_eq h])

theorem Weave.keepsRegisters_swrite (w : Weave) (n : BitVec 6) (x : Word64) : w.keepsRegisters (w.swrite n.toNat x) [.s n] := by
  refine ⟨fun k _ l => rfl, fun k hk => ?_, fun k _ => rfl⟩
  rw [Weave.sread_swrite, if_neg]
  intro h
  exact hk (by simp [BitVec.eq_of_toNat_eq h])

theorem Weave.keepsRegisters_pwrite (w : Weave) (n : BitVec 3) (m : Mask) (val : Nat → Bool) :
    w.keepsRegisters (w.pwrite n.toNat m val) [.p n] := by
  refine ⟨fun k _ l => w.vread_pwrite _ _ _ _ _, fun k _ => w.sread_pwrite _ _ _ _, fun k hk => ?_⟩
  exact w.pred_pwrite_other _ _ _ _ fun h => hk (by simp [BitVec.eq_of_toNat_eq h])

/-- A write to a destination changes no register but the destination. -/
theorem Weave.keepsRegisters_dest (w : Weave) (o : Operand) (m : Mask) (val : Nat → Word64) (once : Word64) :
    w.keepsRegisters (w.dest o m val once) [o] := by
  unfold Weave.dest
  split
  · exact w.keepsRegisters_vwrite _ _ _
  · split
    · exact w.keepsRegisters_refl _
    · exact w.keepsRegisters_swrite _ _
  · exact w.keepsRegisters_pwrite _ _ _
  · exact w.keepsRegisters_refl _

/-! ### The DEAD hint changes no register -/

/-- A weave with other registers marked dead. -/
def Weave.withDead (w : Weave) (d : List Nat) : Weave := { w with dead := d }

theorem Weave.hintDead_cases (w : Weave) (f : Fields) (m : Mask) : ∃ d, w.hintDead f m = { w with dead := d } := by
  unfold Weave.hintDead
  split
  · split
    · exact ⟨_, rfl⟩
    · exact ⟨w.dead, rfl⟩
  · exact ⟨w.dead, rfl⟩

theorem State.weave_markDead (s : State) (g : Group) (op : Nat) (f : Fields) (u : Nat) :
    ∃ d, (s.markDead g op f).weave u = { s.weave u with dead := d } := by
  unfold State.markDead
  rw [State.weave_eachWeave]
  split
  · split
    · split
      · exact ⟨(s.weave u).dead, rfl⟩
      · exact Weave.hintDead_cases _ _ _
    · exact ⟨(s.weave u).dead, rfl⟩
  · exact ⟨(s.weave u).dead, rfl⟩

@[simp] theorem State.active_markDead (s : State) (g h : Group) (op : Nat) (f e : Fields) (u : Nat) :
    (s.markDead g op f).active h e u = s.active h e u := by
  obtain ⟨d, hd⟩ := s.weave_markDead g op f u
  simp only [State.active, hd]; rfl

@[simp] theorem State.represented_markDead (s : State) (g h : Group) (op : Nat) (f e : Fields) :
    (s.markDead g op f).represented h e = s.represented h e := by
  simp only [State.represented, State.active_markDead]

@[simp] theorem State.site_markDead (s : State) (g : Group) (op : Nat) (f : Fields) (t : Nat) :
    (s.markDead g op f).site t = s.site t := rfl

@[simp] theorem State.env_markDead (s : State) (g h : Group) (op : Nat) (f : Fields) : (s.markDead g op f).env h = s.env h := by
  obtain ⟨d, hd⟩ := s.weave_markDead g op f (h.weaves.headD 0)
  simp only [State.env, State.site_markDead, hd]

@[simp] theorem State.fenced_markDead (s : State) (g h : Group) (op n : Nat) (f e : Fields) :
    (s.markDead g op f).fenced h n e = s.fenced h n e := rfl

@[simp] theorem State.scoreboard_markDead (s : State) (g h : Group) (op n : Nat) (f e : Fields) :
    (s.markDead g op f).scoreboard h n e = s.scoreboard h n e := by
  have h : ∀ u, ((s.markDead g op f).weave u).writes n e ((s.markDead g op f).active h e u) =
      (s.weave u).writes n e (s.active h e u) := fun u => by
    obtain ⟨d, hd⟩ := s.weave_markDead g op f u
    rw [State.active_markDead, hd]; rfl
  simp only [State.scoreboard, State.matrixHolds, State.bankHolds, State.represented_markDead, h]; rfl

@[simp] theorem State.registerPoison_markDead (s : State) (g h : Group) (op n : Nat) (f e : Fields) :
    (s.markDead g op f).registerPoison h n e = s.registerPoison h n e := by
  simp only [State.registerPoison, State.represented_markDead, State.active_markDead]
  split
  · rfl
  · congr 1
    funext u
    obtain ⟨d, hd⟩ := s.weave_markDead g op f u
    rw [hd]; rfl

/-! ### An instruction that reaches its effect -/

theorem State.issues_issuing {s : State} {i : Instr} {g : Group} (h : s.issues i g = true) : s.issuing = some g := by
  simp only [State.issues, State.holdsGroup, Bool.and_eq_true, beq_iff_eq] at h
  exact h.1.1.1.1.1

theorem State.issues_members {s : State} {i : Instr} {g : Group} (h : s.issues i g = true) : g.members ≠ [] := by
  simp only [State.issues, State.holdsGroup, Bool.and_eq_true, Bool.not_eq_true', List.isEmpty_eq_false_iff] at h
  exact h.1.1.1.1.2

theorem State.issues_nodup {s : State} {i : Instr} {g : Group} (h : s.issues i g = true) : g.weaves.Nodup := by
  simp only [State.issues, State.holdsGroup, Bool.and_eq_true, decide_eq_true_eq] at h
  exact h.1.1.1.2

theorem State.issues_exist {s : State} {i : Instr} {g : Group} (h : s.issues i g = true) :
    ∀ u ∈ g.weaves, (Map.find s.weaves u).isSome := by
  simp only [State.issues, State.holdsGroup, Bool.and_eq_true, List.all_eq_true] at h
  exact h.1.1.2

theorem State.issues_fits {s : State} {i : Instr} {g : Group} (h : s.issues i g = true) : s.reportsFit = true := by
  simp only [State.issues, State.holdsGroup, Bool.and_eq_true] at h
  exact h.1.2

theorem State.issues_clears {s : State} {i : Instr} {g : Group} (h : s.issues i g = true) : s.clears i g = true := by
  simp only [State.issues, Bool.and_eq_true] at h
  exact h.2

/-- Where the steps before the effect let the instruction pass, its body decides. -/
theorem beforeBody_of_clears {s : State} {g : Group} {i : Instr} {fm : Format} {f : Fields} (body : Body) (op : Nat) (e : Fields)
    (hi : i.format = some fm) (hf : i.fields = some f) (h : s.clears i g = true) :
    beforeBody fm f (s.markDead g op e) g body = body (s.markDead g op e) g := by
  simp only [State.clears, hi, hf, Bool.and_eq_true, beq_iff_eq, Bool.not_eq_true', List.isEmpty_iff] at h
  obtain ⟨⟨⟨h1, h2⟩, h3⟩, h4⟩ := h
  simp [beforeBody, h1, h2, h3, h4]

/-- The body of an instruction that need not be signed and is done decides the next state. -/
theorem run_of_done {s t : State} {g : Group} {i : Instr} {fm : Format} {f : Fields} {body : Body} {next : List Group}
    (hi : i.format = some fm) (hf : i.fields = some f) (hc : convergent fm.opcode = false) (h : s.issues i g = true)
    (hb : body (s.markDead g fm.opcode f) g = .done t next) (hr : t.dies = s.dies) :
    run i f body s = .next ((t.retire g (s.hinted g fm.opcode f)).finish next) := by
  have hfit : t.roomFor = true := by
    have := s.issues_fits h
    simpa [State.roomFor, State.reportsFit, hr] using this
  rw [run, s.issues_issuing h, hi]
  simp only [hc]
  rw [runPlain, beforeBody_of_clears body fm.opcode f hi hf (s.issues_clears h), hb]
  simp [Res.end_, hfit]

/-! ### What ending an instruction leaves alone -/

theorem State.completed_finish (s t : State) (g : Group) (f : Fields) (next : List Group)
    (hc : t.clock = s.clock) (hg : t.groups = s.groups) :
    Completed s ((t.retire g f).finish next) next :=
  ⟨rfl, by simp [hc], by simp [State.finish, hg]⟩

theorem State.gang_retire (s : State) (g : Group) (f : Fields) (k : Nat) :
    ∃ x, (s.retire g f).gang k = { s.gang k with state := x } := by
  unfold State.retire
  simp only [State.gang_changeGang]
  split
  · exact ⟨_, rfl⟩
  · exact ⟨(s.gang k).state, rfl⟩

theorem State.weave_retire (s : State) (g : Group) (f : Fields) (u : Nat) :
    ∃ y i, (s.retire g f).weave u = { s.weave u with yielding := y, issued := i } := by
  unfold State.retire
  simp only [State.changeGang_others]
  rw [State.weave_eachWeave]
  split
  · split
    · unfold Weave.restart Weave.hintYield
      split
      · exact ⟨_, _, rfl⟩
      · exact ⟨_, _, rfl⟩
    · exact ⟨(s.weave u).yielding, (s.weave u).issued, rfl⟩
  · exact ⟨(s.weave u).yielding, (s.weave u).issued, rfl⟩

theorem find_members_of_mem {g : Group} {u : Nat} (h : u ∈ g.weaves) : ∃ m, Map.find g.members u = some m := by
  unfold Group.weaves at h
  generalize g.members = l at h
  induction l with
  | nil => simp at h
  | cons e l ih =>
    obtain ⟨a, m⟩ := e
    by_cases ha : a = u
    · exact ⟨m, by simp [Map.find, ha]⟩
    · have : u ∈ List.map Prod.fst l := by simpa [Ne.symm ha] using h
      obtain ⟨m', hm'⟩ := ih this
      exact ⟨m', by simp [Map.find, ha, hm']⟩

theorem find_members_none {g : Group} {u : Nat} (h : u ∉ g.weaves) : Map.find g.members u = none := by
  unfold Group.weaves at h
  generalize g.members = l at h
  induction l with
  | nil => rfl
  | cons e l ih =>
    obtain ⟨a, m⟩ := e
    have h1 : a ≠ u := fun e => h (by simp [e])
    have h2 : u ∉ List.map Prod.fst l := fun e => h (by simp at e ⊢; exact .inr e)
    simp [Map.find, h1, ih h2]

/-- Nothing but these fields changes when an instruction ends. -/
theorem State.finish_eq (s : State) (next : List Group) :
    s.finish next = { s with groups := (s.finish next).groups, issuing := none } := rfl

theorem State.retire_eq (s : State) (g : Group) (e : Fields) :
    s.retire g e = { s with weaves := (s.retire g e).weaves, gangs := (s.retire g e).gangs } := rfl

theorem State.markDead_eq (s : State) (g : Group) (op : Nat) (f : Fields) :
    s.markDead g op f = { s with weaves := (s.markDead g op f).weaves } := rfl

/-- The state after an instruction that changed the weaves of its group and took free values. -/
def State.registerNext (s : State) (g : Group) (op : Nat) (f e : Fields) (h : Nat → Mask → Weave → Weave) (next : List Group)
    (c : Nat) : State :=
  (({ (s.markDead g op f).eachWeave g h with freeCtr := c } : State).retire g e).finish next

section
variable (s : State) (g : Group) (op : Nat) (f e : Fields) (h : Nat → Mask → Weave → Weave) (next : List Group) (c : Nat)

theorem State.registerNext_eq :
    s.registerNext g op f e h next c =
      { s with
        weaves := (s.registerNext g op f e h next c).weaves, groups := (s.registerNext g op f e h next c).groups
        gangs := (s.registerNext g op f e h next c).gangs, issuing := (s.registerNext g op f e h next c).issuing
        freeCtr := (s.registerNext g op f e h next c).freeCtr } := by
  generalize hr : s.registerNext g op f e h next c = r
  unfold State.registerNext at hr
  rw [State.finish_eq, State.retire_eq] at hr
  rw [← hr]
  rfl

theorem State.registerNext_keepsModule : KeepsModule s (s.registerNext g op f e h next c) := by
  refine ⟨s.registerNext_eq g op f e h next c, fun k => ?_⟩
  obtain ⟨x, hx⟩ := State.gang_retire ({ (s.markDead g op f).eachWeave g h with freeCtr := c } : State) g e k
  rw [State.registerNext, (State.finish_others _ next).2.2.2.1 k, hx]; rfl

/-- A weave of the group, up to its bookkeeping. -/
theorem State.registerNext_weave (u : Nat) (hu : u ∈ g.weaves) (hp : (Map.find s.weaves u).isSome) :
    ∃ m d y i, Map.find g.members u = some m ∧
      (s.registerNext g op f e h next c).weave u =
        { h u m { s.weave u with dead := d } with yielding := y, issued := i } := by
  obtain ⟨m, hm⟩ := find_members_of_mem hu
  obtain ⟨d, hd⟩ := s.weave_markDead g op f u
  obtain ⟨y, i, hy⟩ := State.weave_retire ({ (s.markDead g op f).eachWeave g h with freeCtr := c } : State) g e u
  refine ⟨m, d, y, i, hm, ?_⟩
  have hw : ({ (s.markDead g op f).eachWeave g h with freeCtr := c } : State).weave u =
      ((s.markDead g op f).eachWeave g h).weave u := rfl
  have hp' : (Map.find (s.markDead g op f).weaves u).isSome = true := by
    unfold State.markDead; rw [State.find_weaves_eachWeave]; exact hp
  rw [State.registerNext, (State.finish_others _ next).2.1 u, hy, hw, State.weave_eachWeave_self _ _ _ _ _ hp' hm, hd]

/-- A weave that is not in the group. -/
theorem State.registerNext_weave_other (u : Nat) (hu : u ∉ g.weaves) :
    ∃ d y i, (s.registerNext g op f e h next c).weave u = { s.weave u with dead := d, yielding := y, issued := i } := by
  obtain ⟨d, hd⟩ := s.weave_markDead g op f u
  obtain ⟨y, i, hy⟩ := State.weave_retire ({ (s.markDead g op f).eachWeave g h with freeCtr := c } : State) g e u
  refine ⟨d, y, i, ?_⟩
  have hw : ({ (s.markDead g op f).eachWeave g h with freeCtr := c } : State).weave u =
      ((s.markDead g op f).eachWeave g h).weave u := rfl
  rw [State.registerNext, (State.finish_others _ next).2.1 u, hy, hw, State.weave_eachWeave_other _ _ _ _ (find_members_none hu), hd]

/-- A change of the weaves of a group that keeps what is no register, and no register but `dests`, is a register
instruction's. -/
theorem State.registerNext_frame (dests : List Operand) (hp : ∀ u ∈ g.weaves, (Map.find s.weaves u).isSome)
    (hk : ∀ (u : Nat) (m : Mask) (w : Weave), w.keeps (h u m w) ∧ w.keepsRegisters (h u m w) dests) :
    RegisterFrame s (s.registerNext g op f e h next c) g dests := by
  refine ⟨fun a => ?_, s.registerNext_keepsModule g op f e h next c, fun u => ?_⟩
  · rw [s.registerNext_eq g op f e h next c]
  · by_cases hu : u ∈ g.weaves
    · obtain ⟨m, d, y, i, -, hw⟩ := s.registerNext_weave g op f e h next c u hu (hp u hu)
      obtain ⟨h1, h2⟩ := hk u m { s.weave u with dead := d }
      rw [hw, if_pos hu]
      refine ⟨?_, h2⟩
      unfold Weave.keeps at h1 ⊢
      rw [h1]
    · obtain ⟨d, y, i, hw⟩ := s.registerNext_weave_other g op f e h next c u hu
      rw [hw, if_neg hu]
      exact ⟨rfl, Weave.keepsRegisters_refl _ _⟩

end

end Sys2Proof.Machine
end

