-- ==== Sys2Proof/Laws/PerInstr.lean ====
section
/-! SUPPORT. What holds of each instruction as syntax, constructor by constructor: the opcode of its format is that of R79, from
which the decoder rebuilds it with the same fields. -/

namespace Sys2Proof.Laws.Encoding

open Sys2Proof

/-- The opcode of an instruction's format fits its field, and the opcode and the fields determine the instruction (R79). An event
has no fields. -/
def Statement (i : Instr) : Prop :=
  ∀ fm f, i.format = some fm → i.fields = some f → i.formOk = true → fm.opcode < 1024 ∧ Instr.ofOpcode fm.opcode f = some i

theorem iadd (f : Fields) : Statement (.iadd f) := by
  rintro fm f' ⟨⟩ ⟨⟩ -
  exact ⟨by decide, rfl⟩

theorem isub (f : Fields) : Statement (.isub f) := by
  rintro fm f' ⟨⟩ ⟨⟩ -
  exact ⟨by decide, rfl⟩

theorem iadds (f : Fields) : Statement (.iadds f) := by
  rintro fm f' ⟨⟩ ⟨⟩ -
  exact ⟨by decide, rfl⟩

theorem isubs (f : Fields) : Statement (.isubs f) := by
  rintro fm f' ⟨⟩ ⟨⟩ -
  exact ⟨by decide, rfl⟩

theorem imul (f : Fields) : Statement (.imul f) := by
  rintro fm f' ⟨⟩ ⟨⟩ -
  exact ⟨by decide, rfl⟩

theorem imulh (f : Fields) : Statement (.imulh f) := by
  rintro fm f' ⟨⟩ ⟨⟩ -
  exact ⟨by decide, rfl⟩

theorem imad (f : Fields) : Statement (.imad f) := by
  rintro fm f' ⟨⟩ ⟨⟩ -
  exact ⟨by decide, rfl⟩

theorem idiv (f : Fields) : Statement (.idiv f) := by
  rintro fm f' ⟨⟩ ⟨⟩ -
  exact ⟨by decide, rfl⟩

theorem irem (f : Fields) : Statement (.irem f) := by
  rintro fm f' ⟨⟩ ⟨⟩ -
  exact ⟨by decide, rfl⟩

theorem imin (f : Fields) : Statement (.imin f) := by
  rintro fm f' ⟨⟩ ⟨⟩ -
  exact ⟨by decide, rfl⟩

theorem imax (f : Fields) : Statement (.imax f) := by
  rintro fm f' ⟨⟩ ⟨⟩ -
  exact ⟨by decide, rfl⟩

theorem iabs (f : Fields) : Statement (.iabs f) := by
  rintro fm f' ⟨⟩ ⟨⟩ -
  exact ⟨by decide, rfl⟩

theorem ineg (f : Fields) : Statement (.ineg f) := by
  rintro fm f' ⟨⟩ ⟨⟩ -
  exact ⟨by decide, rfl⟩

theorem iaddc (f : Fields) : Statement (.iaddc f) := by
  rintro fm f' ⟨⟩ ⟨⟩ -
  exact ⟨by decide, rfl⟩

theorem lea (f : Fields) : Statement (.lea f) := by
  rintro fm f' ⟨⟩ ⟨⟩ -
  exact ⟨by decide, rfl⟩

theorem idot (f : Fields) : Statement (.idot f) := by
  rintro fm f' ⟨⟩ ⟨⟩ -
  exact ⟨by decide, rfl⟩

theorem andOp (f : Fields) : Statement (.andOp f) := by
  rintro fm f' ⟨⟩ ⟨⟩ -
  exact ⟨by decide, rfl⟩

theorem orOp (f : Fields) : Statement (.orOp f) := by
  rintro fm f' ⟨⟩ ⟨⟩ -
  exact ⟨by decide, rfl⟩

theorem xorOp (f : Fields) : Statement (.xorOp f) := by
  rintro fm f' ⟨⟩ ⟨⟩ -
  exact ⟨by decide, rfl⟩

theorem andn (f : Fields) : Statement (.andn f) := by
  rintro fm f' ⟨⟩ ⟨⟩ -
  exact ⟨by decide, rfl⟩

theorem notOp (f : Fields) : Statement (.notOp f) := by
  rintro fm f' ⟨⟩ ⟨⟩ -
  exact ⟨by decide, rfl⟩

theorem shl (f : Fields) : Statement (.shl f) := by
  rintro fm f' ⟨⟩ ⟨⟩ -
  exact ⟨by decide, rfl⟩

theorem shr (f : Fields) : Statement (.shr f) := by
  rintro fm f' ⟨⟩ ⟨⟩ -
  exact ⟨by decide, rfl⟩

theorem sar (f : Fields) : Statement (.sar f) := by
  rintro fm f' ⟨⟩ ⟨⟩ -
  exact ⟨by decide, rfl⟩

theorem rot (f : Fields) : Statement (.rot f) := by
  rintro fm f' ⟨⟩ ⟨⟩ -
  exact ⟨by decide, rfl⟩

theorem fshr (f : Fields) : Statement (.fshr f) := by
  rintro fm f' ⟨⟩ ⟨⟩ -
  exact ⟨by decide, rfl⟩

theorem popc (f : Fields) : Statement (.popc f) := by
  rintro fm f' ⟨⟩ ⟨⟩ -
  exact ⟨by decide, rfl⟩

theorem clz (f : Fields) : Statement (.clz f) := by
  rintro fm f' ⟨⟩ ⟨⟩ -
  exact ⟨by decide, rfl⟩

theorem ctz (f : Fields) : Statement (.ctz f) := by
  rintro fm f' ⟨⟩ ⟨⟩ -
  exact ⟨by decide, rfl⟩

theorem brev (f : Fields) : Statement (.brev f) := by
  rintro fm f' ⟨⟩ ⟨⟩ -
  exact ⟨by decide, rfl⟩

theorem bfx (f : Fields) : Statement (.bfx f) := by
  rintro fm f' ⟨⟩ ⟨⟩ -
  exact ⟨by decide, rfl⟩

theorem bfi (f : Fields) : Statement (.bfi f) := by
  rintro fm f' ⟨⟩ ⟨⟩ -
  exact ⟨by decide, rfl⟩

theorem prmb (f : Fields) : Statement (.prmb f) := by
  rintro fm f' ⟨⟩ ⟨⟩ -
  exact ⟨by decide, rfl⟩

theorem icmp (f : Fields) : Statement (.icmp f) := by
  rintro fm f' ⟨⟩ ⟨⟩ -
  exact ⟨by decide, rfl⟩

theorem sel (f : Fields) : Statement (.sel f) := by
  rintro fm f' ⟨⟩ ⟨⟩ -
  exact ⟨by decide, rfl⟩

theorem mov (f : Fields) : Statement (.mov f) := by
  rintro fm f' ⟨⟩ ⟨⟩ h3
  exact ⟨by decide, by simpa [Instr.ofOpcode, Instr.ofGroup2, Instr.formOk] using h3⟩

theorem movSubelement (f : Fields) : Statement (.movSubelement f) := by
  rintro fm f' ⟨⟩ ⟨⟩ h3
  exact ⟨by decide, by simpa [Instr.ofOpcode, Instr.ofGroup2, Instr.formOk] using h3⟩

theorem movi (f : Fields) : Statement (.movi f) := by
  rintro fm f' ⟨⟩ ⟨⟩ -
  exact ⟨by decide, rfl⟩

theorem movs (f : Fields) : Statement (.movs f) := by
  rintro fm f' ⟨⟩ ⟨⟩ -
  exact ⟨by decide, rfl⟩

theorem movv (f : Fields) : Statement (.movv f) := by
  rintro fm f' ⟨⟩ ⟨⟩ -
  exact ⟨by decide, rfl⟩

theorem pset (f : Fields) : Statement (.pset f) := by
  rintro fm f' ⟨⟩ ⟨⟩ -
  exact ⟨by decide, rfl⟩

theorem pmov (f : Fields) : Statement (.pmov f) := by
  rintro fm f' ⟨⟩ ⟨⟩ -
  exact ⟨by decide, rfl⟩

theorem cvti (f : Fields) : Statement (.cvti f) := by
  rintro fm f' ⟨⟩ ⟨⟩ -
  exact ⟨by decide, rfl⟩

theorem fadd (f : Fields) : Statement (.fadd f) := by
  rintro fm f' ⟨⟩ ⟨⟩ -
  exact ⟨by decide, rfl⟩

theorem fsub (f : Fields) : Statement (.fsub f) := by
  rintro fm f' ⟨⟩ ⟨⟩ -
  exact ⟨by decide, rfl⟩

theorem fmul (f : Fields) : Statement (.fmul f) := by
  rintro fm f' ⟨⟩ ⟨⟩ -
  exact ⟨by decide, rfl⟩

theorem ffma (f : Fields) : Statement (.ffma f) := by
  rintro fm f' ⟨⟩ ⟨⟩ -
  exact ⟨by decide, rfl⟩

theorem fmin (f : Fields) : Statement (.fmin f) := by
  rintro fm f' ⟨⟩ ⟨⟩ -
  exact ⟨by decide, rfl⟩

theorem fmax (f : Fields) : Statement (.fmax f) := by
  rintro fm f' ⟨⟩ ⟨⟩ -
  exact ⟨by decide, rfl⟩

theorem fcmp (f : Fields) : Statement (.fcmp f) := by
  rintro fm f' ⟨⟩ ⟨⟩ -
  exact ⟨by decide, rfl⟩

theorem fclass (f : Fields) : Statement (.fclass f) := by
  rintro fm f' ⟨⟩ ⟨⟩ -
  exact ⟨by decide, rfl⟩

theorem fdot2 (f : Fields) : Statement (.fdot2 f) := by
  rintro fm f' ⟨⟩ ⟨⟩ -
  exact ⟨by decide, rfl⟩

theorem fcvt (f : Fields) : Statement (.fcvt f) := by
  rintro fm f' ⟨⟩ ⟨⟩ -
  exact ⟨by decide, rfl⟩

theorem frnd (f : Fields) : Statement (.frnd f) := by
  rintro fm f' ⟨⟩ ⟨⟩ -
  exact ⟨by decide, rfl⟩

theorem ftoi (f : Fields) : Statement (.ftoi f) := by
  rintro fm f' ⟨⟩ ⟨⟩ -
  exact ⟨by decide, rfl⟩

theorem itof (f : Fields) : Statement (.itof f) := by
  rintro fm f' ⟨⟩ ⟨⟩ -
  exact ⟨by decide, rfl⟩

theorem frcp (f : Fields) : Statement (.frcp f) := by
  rintro fm f' ⟨⟩ ⟨⟩ -
  exact ⟨by decide, rfl⟩

theorem frsq (f : Fields) : Statement (.frsq f) := by
  rintro fm f' ⟨⟩ ⟨⟩ -
  exact ⟨by decide, rfl⟩

theorem fsqrt (f : Fields) : Statement (.fsqrt f) := by
  rintro fm f' ⟨⟩ ⟨⟩ -
  exact ⟨by decide, rfl⟩

theorem fexp2 (f : Fields) : Statement (.fexp2 f) := by
  rintro fm f' ⟨⟩ ⟨⟩ -
  exact ⟨by decide, rfl⟩

theorem flog2 (f : Fields) : Statement (.flog2 f) := by
  rintro fm f' ⟨⟩ ⟨⟩ -
  exact ⟨by decide, rfl⟩

theorem fsin (f : Fields) : Statement (.fsin f) := by
  rintro fm f' ⟨⟩ ⟨⟩ -
  exact ⟨by decide, rfl⟩

theorem fcos (f : Fields) : Statement (.fcos f) := by
  rintro fm f' ⟨⟩ ⟨⟩ -
  exact ⟨by decide, rfl⟩

theorem ftanh (f : Fields) : Statement (.ftanh f) := by
  rintro fm f' ⟨⟩ ⟨⟩ -
  exact ⟨by decide, rfl⟩

theorem xmax (f : Fields) : Statement (.xmax f) := by
  rintro fm f' ⟨⟩ ⟨⟩ -
  exact ⟨by decide, rfl⟩

theorem xscale (f : Fields) : Statement (.xscale f) := by
  rintro fm f' ⟨⟩ ⟨⟩ -
  exact ⟨by decide, rfl⟩

theorem xsplit (f : Fields) : Statement (.xsplit f) := by
  rintro fm f' ⟨⟩ ⟨⟩ -
  exact ⟨by decide, rfl⟩

theorem qpack (f : Fields) : Statement (.qpack f) := by
  rintro fm f' ⟨⟩ ⟨⟩ -
  exact ⟨by decide, rfl⟩

theorem qunpk (f : Fields) : Statement (.qunpk f) := by
  rintro fm f' ⟨⟩ ⟨⟩ -
  exact ⟨by decide, rfl⟩

theorem qdeq (f : Fields) : Statement (.qdeq f) := by
  rintro fm f' ⟨⟩ ⟨⟩ -
  exact ⟨by decide, rfl⟩

theorem spsel (f : Fields) : Statement (.spsel f) := by
  rintro fm f' ⟨⟩ ⟨⟩ -
  exact ⟨by decide, rfl⟩

theorem spexp (f : Fields) : Statement (.spexp f) := by
  rintro fm f' ⟨⟩ ⟨⟩ -
  exact ⟨by decide, rfl⟩

theorem perm (f : Fields) : Statement (.perm f) := by
  rintro fm f' ⟨⟩ ⟨⟩ -
  exact ⟨by decide, rfl⟩

theorem bcast (f : Fields) : Statement (.bcast f) := by
  rintro fm f' ⟨⟩ ⟨⟩ -
  exact ⟨by decide, rfl⟩

theorem shfl (f : Fields) : Statement (.shfl f) := by
  rintro fm f' ⟨⟩ ⟨⟩ -
  exact ⟨by decide, rfl⟩

theorem vote (f : Fields) : Statement (.vote f) := by
  rintro fm f' ⟨⟩ ⟨⟩ -
  exact ⟨by decide, rfl⟩

theorem reduce (f : Fields) : Statement (.reduce f) := by
  rintro fm f' ⟨⟩ ⟨⟩ -
  exact ⟨by decide, rfl⟩

theorem scan (f : Fields) : Statement (.scan f) := by
  rintro fm f' ⟨⟩ ⟨⟩ -
  exact ⟨by decide, rfl⟩

theorem matchOp (f : Fields) : Statement (.matchOp f) := by
  rintro fm f' ⟨⟩ ⟨⟩ -
  exact ⟨by decide, rfl⟩

theorem bra (f : Fields) : Statement (.bra f) := by
  rintro fm f' ⟨⟩ ⟨⟩ -
  exact ⟨by decide, rfl⟩

theorem brx (f : Fields) : Statement (.brx f) := by
  rintro fm f' ⟨⟩ ⟨⟩ -
  exact ⟨by decide, rfl⟩

theorem call (f : Fields) : Statement (.call f) := by
  rintro fm f' ⟨⟩ ⟨⟩ -
  exact ⟨by decide, rfl⟩

theorem callx (f : Fields) : Statement (.callx f) := by
  rintro fm f' ⟨⟩ ⟨⟩ -
  exact ⟨by decide, rfl⟩

theorem ret (f : Fields) : Statement (.ret f) := by
  rintro fm f' ⟨⟩ ⟨⟩ -
  exact ⟨by decide, rfl⟩

theorem exit (f : Fields) : Statement (.exit f) := by
  rintro fm f' ⟨⟩ ⟨⟩ -
  exact ⟨by decide, rfl⟩

theorem reform (f : Fields) : Statement (.reform f) := by
  rintro fm f' ⟨⟩ ⟨⟩ -
  exact ⟨by decide, rfl⟩

theorem trap (f : Fields) : Statement (.trap f) := by
  rintro fm f' ⟨⟩ ⟨⟩ -
  exact ⟨by decide, rfl⟩

theorem bpt (f : Fields) : Statement (.bpt f) := by
  rintro fm f' ⟨⟩ ⟨⟩ -
  exact ⟨by decide, rfl⟩

theorem nop (f : Fields) : Statement (.nop f) := by
  rintro fm f' ⟨⟩ ⟨⟩ -
  exact ⟨by decide, rfl⟩

theorem trapEntry (weave : Nat) (cause : Byte) (pc : Slot) (addr : Word64) (lanes trapped : Mask) : Statement (.trapEntry weave cause pc addr lanes trapped) := by
  rintro fm f' - ⟨⟩

theorem conv (f : Fields) : Statement (.conv f) := by
  rintro fm f' ⟨⟩ ⟨⟩ -
  exact ⟨by decide, rfl⟩

theorem sign (f : Fields) : Statement (.sign f) := by
  rintro fm f' ⟨⟩ ⟨⟩ -
  exact ⟨by decide, rfl⟩

theorem pdis (f : Fields) : Statement (.pdis f) := by
  rintro fm f' ⟨⟩ ⟨⟩ -
  exact ⟨by decide, rfl⟩

theorem pen (f : Fields) : Statement (.pen f) := by
  rintro fm f' ⟨⟩ ⟨⟩ -
  exact ⟨by decide, rfl⟩

theorem preemptWindowLimit (gang : Nat) : Statement (.preemptWindowLimit gang) := by
  rintro fm f' - ⟨⟩

theorem syield (f : Fields) : Statement (.syield f) := by
  rintro fm f' ⟨⟩ ⟨⟩ -
  exact ⟨by decide, rfl⟩

theorem getsys (f : Fields) : Statement (.getsys f) := by
  rintro fm f' ⟨⟩ ⟨⟩ -
  exact ⟨by decide, rfl⟩

theorem setsys (f : Fields) : Statement (.setsys f) := by
  rintro fm f' ⟨⟩ ⟨⟩ -
  exact ⟨by decide, rfl⟩

theorem trapret (f : Fields) : Statement (.trapret f) := by
  rintro fm f' ⟨⟩ ⟨⟩ -
  exact ⟨by decide, rfl⟩

theorem icpref (f : Fields) : Statement (.icpref f) := by
  rintro fm f' ⟨⟩ ⟨⟩ -
  exact ⟨by decide, rfl⟩

theorem icpin (f : Fields) : Statement (.icpin f) := by
  rintro fm f' ⟨⟩ ⟨⟩ -
  exact ⟨by decide, rfl⟩

theorem icunpin (f : Fields) : Statement (.icunpin f) := by
  rintro fm f' ⟨⟩ ⟨⟩ -
  exact ⟨by decide, rfl⟩

theorem ckreq (f : Fields) : Statement (.ckreq f) := by
  rintro fm f' ⟨⟩ ⟨⟩ -
  exact ⟨by decide, rfl⟩

theorem ld (f : Fields) : Statement (.ld f) := by
  rintro fm f' ⟨⟩ ⟨⟩ -
  exact ⟨by decide, rfl⟩

theorem st (f : Fields) : Statement (.st f) := by
  rintro fm f' ⟨⟩ ⟨⟩ -
  exact ⟨by decide, rfl⟩

theorem ldm (f : Fields) : Statement (.ldm f) := by
  rintro fm f' ⟨⟩ ⟨⟩ -
  exact ⟨by decide, rfl⟩

theorem stm (f : Fields) : Statement (.stm f) := by
  rintro fm f' ⟨⟩ ⟨⟩ -
  exact ⟨by decide, rfl⟩

theorem pref (f : Fields) : Statement (.pref f) := by
  rintro fm f' ⟨⟩ ⟨⟩ -
  exact ⟨by decide, rfl⟩

theorem cctl (f : Fields) : Statement (.cctl f) := by
  rintro fm f' ⟨⟩ ⟨⟩ -
  exact ⟨by decide, rfl⟩

theorem atom (f : Fields) : Statement (.atom f) := by
  rintro fm f' ⟨⟩ ⟨⟩ -
  exact ⟨by decide, rfl⟩

theorem acas (f : Fields) : Statement (.acas f) := by
  rintro fm f' ⟨⟩ ⟨⟩ -
  exact ⟨by decide, rfl⟩

theorem red (f : Fields) : Statement (.red f) := by
  rintro fm f' ⟨⟩ ⟨⟩ -
  exact ⟨by decide, rfl⟩

theorem fence (f : Fields) : Statement (.fence f) := by
  rintro fm f' ⟨⟩ ⟨⟩ -
  exact ⟨by decide, rfl⟩

theorem waitv (f : Fields) : Statement (.waitv f) := by
  rintro fm f' ⟨⟩ ⟨⟩ -
  exact ⟨by decide, rfl⟩

theorem waitvWake (line : Nat) : Statement (.waitvWake line) := by
  rintro fm f' - ⟨⟩

theorem waitvTimeout (weave lane : Nat) : Statement (.waitvTimeout weave lane) := by
  rintro fm f' - ⟨⟩

theorem cpy (f : Fields) : Statement (.cpy f) := by
  rintro fm f' ⟨⟩ ⟨⟩ -
  exact ⟨by decide, rfl⟩

theorem cpym (f : Fields) : Statement (.cpym f) := by
  rintro fm f' ⟨⟩ ⟨⟩ -
  exact ⟨by decide, rfl⟩

theorem cpyr (f : Fields) : Statement (.cpyr f) := by
  rintro fm f' ⟨⟩ ⟨⟩ -
  exact ⟨by decide, rfl⟩

theorem wmrd (f : Fields) : Statement (.wmrd f) := by
  rintro fm f' ⟨⟩ ⟨⟩ -
  exact ⟨by decide, rfl⟩

theorem wmwait (f : Fields) : Statement (.wmwait f) := by
  rintro fm f' ⟨⟩ ⟨⟩ -
  exact ⟨by decide, rfl⟩

theorem cpyq (f : Fields) : Statement (.cpyq f) := by
  rintro fm f' ⟨⟩ ⟨⟩ -
  exact ⟨by decide, rfl⟩

theorem cpyc (f : Fields) : Statement (.cpyc f) := by
  rintro fm f' ⟨⟩ ⟨⟩ -
  exact ⟨by decide, rfl⟩

theorem jobsub (f : Fields) : Statement (.jobsub f) := by
  rintro fm f' ⟨⟩ ⟨⟩ -
  exact ⟨by decide, rfl⟩

theorem copyLandElement (copy : Nat) : Statement (.copyLandElement copy) := by
  rintro fm f' - ⟨⟩

theorem copyWalkRetry (copy : Nat) : Statement (.copyWalkRetry copy) := by
  rintro fm f' - ⟨⟩

theorem copyComplete (copy : Nat) : Statement (.copyComplete copy) := by
  rintro fm f' - ⟨⟩

theorem jobEnd (job : Nat) : Statement (.jobEnd job) := by
  rintro fm f' - ⟨⟩

theorem binit (f : Fields) : Statement (.binit f) := by
  rintro fm f' ⟨⟩ ⟨⟩ -
  exact ⟨by decide, rfl⟩

theorem barr (f : Fields) : Statement (.barr f) := by
  rintro fm f' ⟨⟩ ⟨⟩ -
  exact ⟨by decide, rfl⟩

theorem barrx (f : Fields) : Statement (.barrx f) := by
  rintro fm f' ⟨⟩ ⟨⟩ -
  exact ⟨by decide, rfl⟩

theorem bwait (f : Fields) : Statement (.bwait f) := by
  rintro fm f' ⟨⟩ ⟨⟩ -
  exact ⟨by decide, rfl⟩

theorem btest (f : Fields) : Statement (.btest f) := by
  rintro fm f' ⟨⟩ ⟨⟩ -
  exact ⟨by decide, rfl⟩

theorem cjoin (f : Fields) : Statement (.cjoin f) := by
  rintro fm f' ⟨⟩ ⟨⟩ -
  exact ⟨by decide, rfl⟩

theorem cleave (f : Fields) : Statement (.cleave f) := by
  rintro fm f' ⟨⟩ ⟨⟩ -
  exact ⟨by decide, rfl⟩

theorem cgen (f : Fields) : Statement (.cgen f) := by
  rintro fm f' ⟨⟩ ⟨⟩ -
  exact ⟨by decide, rfl⟩

theorem qsend (f : Fields) : Statement (.qsend f) := by
  rintro fm f' ⟨⟩ ⟨⟩ -
  exact ⟨by decide, rfl⟩

theorem qrecv (f : Fields) : Statement (.qrecv f) := by
  rintro fm f' ⟨⟩ ⟨⟩ -
  exact ⟨by decide, rfl⟩

theorem qpeek (f : Fields) : Statement (.qpeek f) := by
  rintro fm f' ⟨⟩ ⟨⟩ -
  exact ⟨by decide, rfl⟩

theorem spawn (f : Fields) : Statement (.spawn f) := by
  rintro fm f' ⟨⟩ ⟨⟩ -
  exact ⟨by decide, rfl⟩

theorem steal (f : Fields) : Statement (.steal f) := by
  rintro fm f' ⟨⟩ ⟨⟩ -
  exact ⟨by decide, rfl⟩

theorem synct (f : Fields) : Statement (.synct f) := by
  rintro fm f' ⟨⟩ ⟨⟩ -
  exact ⟨by decide, rfl⟩

theorem mma (f : Fields) : Statement (.mma f) := by
  rintro fm f' ⟨⟩ ⟨⟩ -
  exact ⟨by decide, rfl⟩

theorem mmas (f : Fields) : Statement (.mmas f) := by
  rintro fm f' ⟨⟩ ⟨⟩ -
  exact ⟨by decide, rfl⟩

theorem mmaq (f : Fields) : Statement (.mmaq f) := by
  rintro fm f' ⟨⟩ ⟨⟩ -
  exact ⟨by decide, rfl⟩

theorem mmam (f : Fields) : Statement (.mmam f) := by
  rintro fm f' ⟨⟩ ⟨⟩ -
  exact ⟨by decide, rfl⟩

theorem matrixComplete (op : Nat) : Statement (.matrixComplete op) := by
  rintro fm f' - ⟨⟩

theorem accz (f : Fields) : Statement (.accz f) := by
  rintro fm f' ⟨⟩ ⟨⟩ -
  exact ⟨by decide, rfl⟩

theorem accsc (f : Fields) : Statement (.accsc f) := by
  rintro fm f' ⟨⟩ ⟨⟩ -
  exact ⟨by decide, rfl⟩

theorem accx (f : Fields) : Statement (.accx f) := by
  rintro fm f' ⟨⟩ ⟨⟩ -
  exact ⟨by decide, rfl⟩

theorem accrd (f : Fields) : Statement (.accrd f) := by
  rintro fm f' ⟨⟩ ⟨⟩ -
  exact ⟨by decide, rfl⟩

theorem accwr (f : Fields) : Statement (.accwr f) := by
  rintro fm f' ⟨⟩ ⟨⟩ -
  exact ⟨by decide, rfl⟩

theorem accst (f : Fields) : Statement (.accst f) := by
  rintro fm f' ⟨⟩ ⟨⟩ -
  exact ⟨by decide, rfl⟩

theorem accld (f : Fields) : Statement (.accld f) := by
  rintro fm f' ⟨⟩ ⟨⟩ -
  exact ⟨by decide, rfl⟩

theorem obres (f : Fields) : Statement (.obres f) := by
  rintro fm f' ⟨⟩ ⟨⟩ -
  exact ⟨by decide, rfl⟩

theorem obrel (f : Fields) : Statement (.obrel f) := by
  rintro fm f' ⟨⟩ ⟨⟩ -
  exact ⟨by decide, rfl⟩

theorem obwr (f : Fields) : Statement (.obwr f) := by
  rintro fm f' ⟨⟩ ⟨⟩ -
  exact ⟨by decide, rfl⟩

theorem obrd (f : Fields) : Statement (.obrd f) := by
  rintro fm f' ⟨⟩ ⟨⟩ -
  exact ⟨by decide, rfl⟩

theorem binAged (core bin : Nat) : Statement (.binAged core bin) := by
  rintro fm f' - ⟨⟩

theorem binDraw (core bin : Nat) : Statement (.binDraw core bin) := by
  rintro fm f' - ⟨⟩

theorem yieldPeriodEnd (weave lane : Nat) : Statement (.yieldPeriodEnd weave lane) := by
  rintro fm f' - ⟨⟩

theorem watchdog (gang : Nat) : Statement (.watchdog gang) := by
  rintro fm f' - ⟨⟩

theorem sidelogWalkRetry (core page : Nat) : Statement (.sidelogWalkRetry core page) := by
  rintro fm f' - ⟨⟩

theorem sidelogReplay (core page : Nat) : Statement (.sidelogReplay core page) := by
  rintro fm f' - ⟨⟩

theorem pageRequestExpire (core page : Nat) : Statement (.pageRequestExpire core page) := by
  rintro fm f' - ⟨⟩

theorem faultRecordWrite (die : Nat) : Statement (.faultRecordWrite die) := by
  rintro fm f' - ⟨⟩

theorem releaseWriteback (core line : Nat) : Statement (.releaseWriteback core line) := by
  rintro fm f' - ⟨⟩

theorem l1CleanExpire (core line : Nat) : Statement (.l1CleanExpire core line) := by
  rintro fm f' - ⟨⟩

theorem sliceRead (fn queue : Nat) : Statement (.sliceRead fn queue) := by
  rintro fm f' - ⟨⟩

theorem ctrset (fn queue : Nat) : Statement (.ctrset fn queue) := by
  rintro fm f' - ⟨⟩

theorem nopSlice (fn queue : Nat) : Statement (.nopSlice fn queue) := by
  rintro fm f' - ⟨⟩

theorem sliceSelect (part : Nat) : Statement (.sliceSelect part) := by
  rintro fm f' - ⟨⟩

theorem sliceDispatch (fn queue : Nat) : Statement (.sliceDispatch fn queue) := by
  rintro fm f' - ⟨⟩

theorem gangPlace (gang : Nat) : Statement (.gangPlace gang) := by
  rintro fm f' - ⟨⟩

theorem sublaunchComplete (slice sub : Nat) : Statement (.sublaunchComplete slice sub) := by
  rintro fm f' - ⟨⟩

theorem budgetExhausted (slice : Nat) : Statement (.budgetExhausted slice) := by
  rintro fm f' - ⟨⟩

theorem nodeBudgetReached (node : Nat) : Statement (.nodeBudgetReached node) := by
  rintro fm f' - ⟨⟩

theorem periodRenew (node : Nat) : Statement (.periodRenew node) := by
  rintro fm f' - ⟨⟩

theorem rcbFieldWriteback (node : Nat) : Statement (.rcbFieldWriteback node) := by
  rintro fm f' - ⟨⟩

theorem rcbReread (node : Nat) : Statement (.rcbReread node) := by
  rintro fm f' - ⟨⟩

theorem l2StageFill (slice sub record : Nat) : Statement (.l2StageFill slice sub record) := by
  rintro fm f' - ⟨⟩

theorem stageReservationExpire (slice : Nat) : Statement (.stageReservationExpire slice) := by
  rintro fm f' - ⟨⟩

theorem preemptRequest (gang : Nat) : Statement (.preemptRequest gang) := by
  rintro fm f' - ⟨⟩

theorem controlSave (gang : Nat) : Statement (.controlSave gang) := by
  rintro fm f' - ⟨⟩

theorem newcomerPlace (gang : Nat) : Statement (.newcomerPlace gang) := by
  rintro fm f' - ⟨⟩

theorem bankSpill (core : Nat) : Statement (.bankSpill core) := by
  rintro fm f' - ⟨⟩

theorem gangResume (gang : Nat) : Statement (.gangResume gang) := by
  rintro fm f' - ⟨⟩

theorem tqInv (fn : Nat) : Statement (.tqInv fn) := by
  rintro fm f' - ⟨⟩

theorem tqScrub (fn : Nat) : Statement (.tqScrub fn) := by
  rintro fm f' - ⟨⟩

theorem tqPooladd (fn : Nat) : Statement (.tqPooladd fn) := by
  rintro fm f' - ⟨⟩

theorem pageMove (move : PageMove) : Statement (.pageMove move) := by
  rintro fm f' - ⟨⟩

theorem settleEnd (frame : Nat) : Statement (.settleEnd frame) := by
  rintro fm f' - ⟨⟩

theorem notify (fn : Nat) (value : Word64) : Statement (.notify fn value) := by
  rintro fm f' - ⟨⟩

theorem qbindBind (fn queue : Nat) (qcb : Word64) : Statement (.qbindBind fn queue qcb) := by
  rintro fm f' - ⟨⟩

theorem qbindUnbind (fn queue : Nat) (qcb : Word64) : Statement (.qbindUnbind fn queue qcb) := by
  rintro fm f' - ⟨⟩

theorem qbindRebind (fn queue : Nat) (qcb : Word64) : Statement (.qbindRebind fn queue qcb) := by
  rintro fm f' - ⟨⟩

theorem fncfgWrite (fn : Nat) (value : Word64) : Statement (.fncfgWrite fn value) := by
  rintro fm f' - ⟨⟩

theorem trootWrite (fn : Nat) (value : Word64) : Statement (.trootWrite fn value) := by
  rintro fm f' - ⟨⟩

theorem registerWrite (space : RegSpace) (owner offset : Nat) (value : Word64) : Statement (.registerWrite space owner offset value) := by
  rintro fm f' - ⟨⟩

theorem functionLevelReset (fn : Nat) : Statement (.functionLevelReset fn) := by
  rintro fm f' - ⟨⟩

theorem flrComplete (fn : Nat) : Statement (.flrComplete fn) := by
  rintro fm f' - ⟨⟩

theorem msixCoalesceExpire (fn : Nat) : Statement (.msixCoalesceExpire fn) := by
  rintro fm f' - ⟨⟩

theorem inboundAccess (port : Nat) (requester : Nat) (bus : Word64) (access : BusAccess) : Statement (.inboundAccess port requester bus access) := by
  rintro fm f' - ⟨⟩

theorem twillPlaneFail (plane : Nat) : Statement (.twillPlaneFail plane) := by
  rintro fm f' - ⟨⟩

theorem remoteRetry (weave : Nat) (answer : RemoteAnswer) : Statement (.remoteRetry weave answer) := by
  rintro fm f' - ⟨⟩

theorem remoteCeilingExpire (gang : Nat) : Statement (.remoteCeilingExpire gang) := by
  rintro fm f' - ⟨⟩

theorem checkpointTimer (context : Nat) : Statement (.checkpointTimer context) := by
  rintro fm f' - ⟨⟩

theorem checkpointRequest (context : Nat) : Statement (.checkpointRequest context) := by
  rintro fm f' - ⟨⟩

theorem checkpointCut (context : Nat) : Statement (.checkpointCut context) := by
  rintro fm f' - ⟨⟩

theorem checkpointStream (context : Nat) : Statement (.checkpointStream context) := by
  rintro fm f' - ⟨⟩

theorem checkpointImageComplete (context : Nat) : Statement (.checkpointImageComplete context) := by
  rintro fm f' - ⟨⟩

theorem launchRollback (slice : Nat) : Statement (.launchRollback slice) := by
  rintro fm f' - ⟨⟩

theorem patrolRead (die : Nat) (unit : StorageUnit) (found : PatrolFinding) : Statement (.patrolRead die unit found) := by
  rintro fm f' - ⟨⟩

theorem timingReplay (core : Nat) : Statement (.timingReplay core) := by
  rintro fm f' - ⟨⟩

theorem iftDue (core : Nat) : Statement (.iftDue core) := by
  rintro fm f' - ⟨⟩

theorem iftRun (core : Nat) (mismatch : Word64) : Statement (.iftRun core mismatch) := by
  rintro fm f' - ⟨⟩

theorem iftWaitExpire (core : Nat) : Statement (.iftWaitExpire core) := by
  rintro fm f' - ⟨⟩

theorem scmdExtend (part : Nat) (obj arg1 arg2 : Word64) : Statement (.scmdExtend part obj arg1 arg2) := by
  rintro fm f' - ⟨⟩

theorem scmdPreempt (part : Nat) (obj arg1 arg2 : Word64) : Statement (.scmdPreempt part obj arg1 arg2) := by
  rintro fm f' - ⟨⟩

theorem scmdKill (part : Nat) (obj arg1 arg2 : Word64) : Statement (.scmdKill part obj arg1 arg2) := by
  rintro fm f' - ⟨⟩

theorem scmdResume (part : Nat) (obj arg1 arg2 : Word64) : Statement (.scmdResume part obj arg1 arg2) := by
  rintro fm f' - ⟨⟩

theorem scmdCancel (part : Nat) (obj arg1 arg2 : Word64) : Statement (.scmdCancel part obj arg1 arg2) := by
  rintro fm f' - ⟨⟩

theorem scmdUnrecoverable (part : Nat) (obj arg1 arg2 : Word64) : Statement (.scmdUnrecoverable part obj arg1 arg2) := by
  rintro fm f' - ⟨⟩

theorem scmdDiscard (part : Nat) (obj arg1 arg2 : Word64) : Statement (.scmdDiscard part obj arg1 arg2) := by
  rintro fm f' - ⟨⟩

theorem scmdRestore (part : Nat) (obj arg1 arg2 : Word64) : Statement (.scmdRestore part obj arg1 arg2) := by
  rintro fm f' - ⟨⟩

theorem romBoot  : Statement (.romBoot) := by
  rintro fm f' - ⟨⟩

theorem fwload (part : Nat) (image : Word64) : Statement (.fwload part image) := by
  rintro fm f' - ⟨⟩

theorem mgmtLeaseReset (auth : MgmtAuth) (part : Nat) : Statement (.mgmtLeaseReset auth part) := by
  rintro fm f' - ⟨⟩

theorem scrubRecord (part : Nat) : Statement (.scrubRecord part) := by
  rintro fm f' - ⟨⟩

theorem mgmtPartition (auth : MgmtAuth) (masks : List (BitVec 16)) : Statement (.mgmtPartition auth masks) := by
  rintro fm f' - ⟨⟩

theorem mgmtSetfd (auth : MgmtAuth) (power switch : BitVec 16) : Statement (.mgmtSetfd auth power switch) := by
  rintro fm f' - ⟨⟩

theorem mgmtKeyslot (auth : MgmtAuth) (slot : Nat) (key : Option (BitVec 512)) (floor : BitVec 32) : Statement (.mgmtKeyslot auth slot key floor) := by
  rintro fm f' - ⟨⟩

theorem mgmtCapset (auth : MgmtAuth) (core : Nat) (mask : Word64) : Statement (.mgmtCapset auth core mask) := by
  rintro fm f' - ⟨⟩

theorem mgmtPolicy (auth : MgmtAuth) (part : Nat) (flags : BitVec 32) : Statement (.mgmtPolicy auth part flags) := by
  rintro fm f' - ⟨⟩

theorem mgmtRead (object : MgmtObject) : Statement (.mgmtRead object) := by
  rintro fm f' - ⟨⟩

theorem migStart (fn : Nat) (bitmap : Word64) : Statement (.migStart fn bitmap) := by
  rintro fm f' - ⟨⟩

theorem migRound (fn : Nat) (bitmap : Word64) : Statement (.migRound fn bitmap) := by
  rintro fm f' - ⟨⟩

theorem migStop (fn : Nat) (bitmap : Word64) : Statement (.migStop fn bitmap) := by
  rintro fm f' - ⟨⟩

theorem migResume (fn : Nat) (bitmap : Word64) : Statement (.migResume fn bitmap) := by
  rintro fm f' - ⟨⟩

theorem migCancel (fn : Nat) (bitmap : Word64) : Statement (.migCancel fn bitmap) := by
  rintro fm f' - ⟨⟩

theorem thermalThrottle (die : Nat) : Statement (.thermalThrottle die) := by
  rintro fm f' - ⟨⟩

theorem thermalRecover (die : Nat) : Statement (.thermalRecover die) := by
  rintro fm f' - ⟨⟩

theorem powerUp (bootFlash : List Byte) : Statement (.powerUp bootFlash) := by
  rintro fm f' - ⟨⟩

theorem railOutOfRange (rail : Rail) : Statement (.railOutOfRange rail) := by
  rintro fm f' - ⟨⟩

theorem jobWrite (job : Nat) : Statement (.jobWrite job) := by
  rintro fm f' - ⟨⟩

theorem twillRemoteAccess (peer : Nat) (request : TwillRequest) : Statement (.twillRemoteAccess peer request) := by
  rintro fm f' - ⟨⟩

theorem twillPlaneUp (plane : Nat) : Statement (.twillPlaneUp plane) := by
  rintro fm f' - ⟨⟩

theorem inFieldTestEnd (core : Nat) : Statement (.inFieldTestEnd core) := by
  rintro fm f' - ⟨⟩

end Sys2Proof.Laws.Encoding
end

