-- ==== Sys2Proof/Laws/Encoding.lean ====
section
/-! SUPPORT. Laws of the encoder and the decoder: each field of a word that was encoded, the fields of a word that decodes, and the
instruction of an opcode. -/

namespace Sys2Proof

theorem Operand.ofCode_code (o : Operand) : Operand.ofCode o.code = some o := by
  cases o with
  | v n => revert n; decide
  | s n => revert n; decide
  | p n => revert n; decide
  | c n => revert n; decide
  | w n => revert n; decide
  | q n => revert n; decide
  | imm => decide
  | zero => decide
  | a n => revert n; decide

theorem Operand.code_of_ofCode {c : BitVec 8} : ∀ {o : Operand}, Operand.ofCode c = some o → o.code = c := by
  have : (match Operand.ofCode c with | some o => decide (o.code = c) | none => true) = true := by
    revert c; decide
  intro o h
  simpa [h] using this

/-- The fields of an encoded word (R70). -/
theorem extract_encode (opcode : Nat) (f : Fields) :
    (encodeFields opcode f).extractLsb' 14 8 = f.d.code ∧ (encodeFields opcode f).extractLsb' 22 8 = f.a.code ∧
      (encodeFields opcode f).extractLsb' 30 8 = f.b.code ∧ (encodeFields opcode f).extractLsb' 52 8 = f.c.code ∧
      (encodeFields opcode f).extractLsb' 64 32 = f.imm ∧ (encodeFields opcode f).extractLsb' 60 4 = 0 ∧
      (encodeFields opcode f).extractLsb' 0 10 = BitVec.ofNat 10 opcode ∧ (encodeFields opcode f).extractLsb' 10 3 = f.guard ∧
      (encodeFields opcode f).extractLsb' 38 2 = f.width.code ∧ (encodeFields opcode f).extractLsb' 40 4 = f.t ∧
      (encodeFields opcode f).extractLsb' 44 2 = f.rm := by
  unfold encodeFields Fields.guardBits Fields.modBits Fields.hintBits
  generalize f.d.code = d, f.a.code = a, f.b.code = b, f.c.code = c, f.width.code = wc, f.imm = im, BitVec.ofNat 10 opcode = op,
    f.t = t, f.rm = r, f.guard = g
  refine ⟨?_, ?_, ?_, ?_, ?_, ?_, ?_, ?_, ?_, ?_, ?_⟩ <;>
    (apply BitVec.eq_of_getLsbD_eq; intro i hi
     simp only [BitVec.getLsbD_extractLsb', BitVec.getLsbD_append]
     interval_cases i <;> simp)

/-- The one-bit fields of an encoded word (R70, R74). -/
theorem bits_encode (opcode : Nat) (f : Fields) :
    bitOf (encodeFields opcode f) 13 = f.neg ∧ bitOf (encodeFields opcode f) 46 = f.sat ∧
      bitOf (encodeFields opcode f) 47 = f.x ∧ bitOf (encodeFields opcode f) 48 = f.yieldHint ∧
      bitOf (encodeFields opcode f) 49 = f.reuse ∧ bitOf (encodeFields opcode f) 50 = f.stream ∧
      bitOf (encodeFields opcode f) 51 = f.dead := by
  unfold bitOf encodeFields Fields.guardBits Fields.modBits Fields.hintBits
  refine ⟨?_, ?_, ?_, ?_, ?_, ?_, ?_⟩ <;> (simp only [BitVec.getLsbD_append]; simp)

theorem Width.ofCode_code (x : Width) : Width.ofCode x.code = x := by cases x <;> rfl
theorem Width.code_ofCode (c : BitVec 2) : (Width.ofCode c).code = c := by revert c; decide

/-- An encoded word has the fields that it was encoded from. -/
theorem wordFields_encode (opcode : Nat) (f : Fields) : wordFields (encodeFields opcode f) = f := by
  obtain ⟨e1, e2, e3, e4, e5, e6, e7, e8, e9, e10, e11⟩ := extract_encode opcode f
  obtain ⟨b1, b2, b3, b4, b5, b6, b7⟩ := bits_encode opcode f
  simp [wordFields, wordOperand, e1, e2, e3, e4, e5, e8, e9, e10, e11, b1, b2, b3, b4, b5, b6, b7, Operand.ofCode_code,
    Width.ofCode_code]

theorem wordOperandsOk_encode (opcode : Nat) (f : Fields) : wordOperandsOk (encodeFields opcode f) = true := by
  obtain ⟨e1, e2, e3, e4, -⟩ := extract_encode opcode f
  simp [wordOperandsOk, e1, e2, e3, e4, Operand.ofCode_code]

theorem wordOpcode_encode (opcode : Nat) (f : Fields) (h : opcode < 1024) : wordOpcode (encodeFields opcode f) = opcode := by
  obtain ⟨-, -, -, -, -, -, e, -⟩ := extract_encode opcode f
  simp only [wordOpcode, e, BitVec.toNat_ofNat]; omega

/-- A word without reserved bits and codes is the word of its opcode and fields. -/
theorem encode_wordFields (w : Word96) (hr : wordReserved w = 0) (ho : wordOperandsOk w = true) :
    encodeFields (wordOpcode w) (wordFields w) = w := by
  have hc : ∀ low, (Operand.ofCode (w.extractLsb' low 8)).isSome → (wordOperand w low).code = w.extractLsb' low 8 := by
    intro low h
    obtain ⟨o, h⟩ := Option.isSome_iff_exists.mp h
    simp [wordOperand, h, Operand.code_of_ofCode h]
  simp only [wordOperandsOk, List.all_cons, List.all_nil, Bool.and_true, Bool.and_eq_true] at ho
  obtain ⟨h1, h2, h3, h4⟩ := ho
  unfold encodeFields Fields.guardBits Fields.modBits Fields.hintBits
  simp only [wordFields, hc _ h1, hc _ h2, hc _ h3, hc _ h4, Width.code_ofCode, wordOpcode, bitOf]
  rw [show (0#4) = w.extractLsb' 60 4 from hr.symm]
  apply BitVec.eq_of_getLsbD_eq
  intro i hi
  simp only [BitVec.ofNat_toNat, BitVec.setWidth_eq, BitVec.getLsbD_append, BitVec.getLsbD_extractLsb', BitVec.getLsbD_ofBool]
  interval_cases i <;> simp


/-- What the instruction of an opcode and fields holds (R79). -/
theorem Instr.of_ofOpcode {opcode : Nat} {f : Fields} {i : Instr} (h : Instr.ofOpcode opcode f = some i) :
    i.fields = some f ∧ i.formOk = true ∧ (∀ fm, i.format = some fm → fm.opcode = opcode) := by
  unfold Instr.ofOpcode at h
  split at h
  all_goals first
    | cases h
    | (first
        | unfold Instr.ofGroup0 at h | unfold Instr.ofGroup1 at h | unfold Instr.ofGroup2 at h | unfold Instr.ofGroup3 at h
        | unfold Instr.ofGroup4 at h | unfold Instr.ofGroup5 at h | unfold Instr.ofGroup6 at h | unfold Instr.ofGroup7 at h
        | unfold Instr.ofGroup8 at h | unfold Instr.ofGroup9 at h | unfold Instr.ofGroupA at h | unfold Instr.ofGroupB at h
        | unfold Instr.ofGroupC at h | unfold Instr.ofGroupD at h | unfold Instr.ofGroupE at h
       split at h
       all_goals first
         | (cases h; done)
         | (cases h
            refine ⟨rfl, rfl, ?_⟩
            rintro fm ⟨⟩
            have h1 := Nat.div_add_mod opcode 64
            rw [‹opcode / 64 = _›, ‹opcode % 64 = _›] at h1
            exact h1)
         | (by_cases hx : f.x
            · rw [if_pos hx] at h
              cases h
              refine ⟨rfl, hx, ?_⟩
              rintro fm ⟨⟩
              have h1 := Nat.div_add_mod opcode 64
              rw [‹opcode / 64 = _›, ‹opcode % 64 = _›] at h1
              exact h1
            · rw [if_neg hx] at h
              cases h
              refine ⟨rfl, by simpa [Instr.formOk] using hx, ?_⟩
              rintro fm ⟨⟩
              have h1 := Nat.div_add_mod opcode 64
              rw [‹opcode / 64 = _›, ‹opcode % 64 = _›] at h1
              exact h1))

end Sys2Proof
end

