-- ==== Sys2Proof/Laws/Lanes.lean ====
section
/-! SUPPORT. Laws of the two operand forms (R19, R101): instructions whose body is `computed`, `elemOp`, `intOp` or
`computedPair` complete with the results their rules give; and sub-elements read as they were packed (R14). -/

namespace Sys2Proof.Machine

/-! ### Results -/

/-- A write to a destination gives what was written. -/
theorem Weave.gives_dest (w x y : Weave) (act : Mask) (o : Operand) (val : Nat → Word64) (once : Word64)
    (rule : Nat → Word64 → Prop) (hy : y = w.dest o act val once) (h1 : ∀ n l, x.vread n l = y.vread n l)
    (h2 : ∀ n, x.sread n = y.sread n) (h3 : ∀ n l, x.pread n l = y.pread n l)
    (hact : ∀ l, (act &&& w.live).getLsbD l = act.getLsbD l) (hv : ∀ l, rule l (val l)) (ho : rule 0 once) :
    w.gives x act o rule := by
  subst hy
  cases o with
  | v n =>
    intro l _
    rw [h1]
    simp only [Weave.dest, Weave.vread_vwrite, true_and, hact l]
    split
    · exact hv l
    · rfl
  | s n =>
    simp only [Weave.gives, h2, Weave.dest]
    split
    · rfl
    · rw [Weave.sread_swrite, if_pos rfl]; exact ho
  | p n =>
    intro l _
    rw [h3]
    simp only [Weave.dest, Weave.pread_pwrite, true_and, hact l]
    have h7 : n ≠ 7 ↔ n.toNat ≠ 7 := by
      constructor
      · exact fun h e => h (BitVec.eq_of_toNat_eq e)
      · rintro h rfl; exact h rfl
    split
    · rename_i h
      exact ⟨_, hv l, by rw [if_pos ⟨h7.mp h.1, h.2⟩]⟩
    · rename_i h
      rw [if_neg fun e => h ⟨h7.mpr e.1, e.2⟩]
  | _ => trivial

theorem State.active_live (s : State) (g : Group) (f : Fields) (u l : Nat) :
    (s.active g f u &&& (s.weave u).live).getLsbD l = (s.active g f u).getLsbD l := by
  simp only [State.active, Weave.active, BitVec.getLsbD_and]
  cases (s.weave u).live.getLsbD l <;> simp

/-- The shape of every register instruction: its body is done with the weaves of the group changed. -/
theorem registerEffect_of_done {i : Instr} {fm : Format} {f : Fields} {body : Body} {h : State → Nat → Mask → Weave → Weave}
    {c : State → Nat} (s : State) (g : Group) (dests : List Operand) (result : State → Prop)
    (hx : exec i s = run i f body s) (hi : i.format = some fm) (hf : i.fields = some f) (hc : convergent fm.opcode = false)
    (hb : ∀ t, t.issuing = s.issuing → t = { s with weaves := t.weaves } →
      s.issues i g = true → (∀ h e u, t.active h e u = s.active h e u) →
      (∀ u, ∃ d, t.weave u = { s.weave u with dead := d }) →
      body t g = .done { t.eachWeave g (h t) with freeCtr := c t } g.next)
    (hk : ∀ t u m (w : Weave), w.keeps (h t u m w) ∧ w.keepsRegisters (h t u m w) dests)
    (hr : s.issues i g = true → ∀ t : State, t = { s with weaves := t.weaves } → ∀ r : State,
      (∀ u ∈ g.weaves, ∃ m d y k, Map.find g.members u = some m ∧
        r.weave u = { h t u m { s.weave u with dead := d } with yielding := y, issued := k }) → result r) :
    RegisterEffect i s g dests result := by
  intro hs
  have hm := hb (s.markDead g fm.opcode f) rfl (s.markDead_eq g fm.opcode f) hs (fun h e u => s.active_markDead _ _ _ _ _ _)
    (s.weave_markDead g fm.opcode f)
  refine ⟨_, (hx.trans (run_of_done hi hf hc hs hm rfl)), ?_, ?_, ?_⟩
  · exact State.completed_finish s _ g _ _ rfl rfl
  · exact s.registerNext_frame g fm.opcode f _ _ g.next _ dests (s.issues_exist hs) (hk _)
  · refine hr hs _ (s.markDead_eq g fm.opcode f) _ fun u hu => ?_
    exact s.registerNext_weave g fm.opcode f _ _ g.next _ u hu (s.issues_exist hs u hu)

/-- An instruction whose body is `computed`. -/
theorem computed_effect {i : Instr} {fm : Format} {f : Fields} {val : Weave → Nat → Word64}
    {rule : Weave → Nat → Word64 → Prop} (s : State) (g : Group) (hx : exec i s = run i f (computed f val) s)
    (hi : i.format = some fm) (hf : i.fields = some f) (hc : convergent fm.opcode = false)
    (hv : ∀ (w : Weave) d l, rule w l (val { w with dead := d } l)) :
    RegisterEffect i s g [f.d] fun t => Gives s t g f f.d rule := by
  refine registerEffect_of_done (h := fun _ _ m w => w.dest f.d (w.active f m) (val w) (val w 0)) (c := fun t => t.freeCtr) s g _ _
    hx hi hf hc (fun t _ _ _ _ _ => rfl) (fun _ _ _ w => ⟨w.keeps_dest _ _ _ _, w.keepsRegisters_dest _ _ _ _⟩) ?_
  intro _ t _ r hr u hu
  obtain ⟨m, d, y, k, hm, hw⟩ := hr u hu
  have ha : ({ s.weave u with dead := d } : Weave).active f m = s.active g f u := by
    simp only [State.active, Group.lanes, Map.at, hm]; rfl
  refine Weave.gives_dest { s.weave u with dead := d } _ _ _ f.d _ _ _ rfl (fun _ _ => ?_) (fun _ => ?_) (fun _ _ => ?_)
    (s.active_live g f u) (fun l => hv _ d l) (hv _ d 0) <;> rw [hw, ha] <;> rfl

/-! ### Sub-elements (R14) -/

theorem testBit_setElem (x : Word64) (w k y p : Nat) (hk : k * w + w ≤ 64) (hp : p < 64) :
    (setElem x w k y).toNat.testBit p =
      if k * w ≤ p ∧ p < k * w + w then y.testBit (p - k * w) else x.toNat.testBit p := by
  have hm : (2 ^ w - 1) <<< (k * w) < 2 ^ 64 := by
    rw [Nat.shiftLeft_eq]
    calc (2 ^ w - 1) * 2 ^ (k * w) < 2 ^ w * 2 ^ (k * w) :=
          Nat.mul_lt_mul_of_pos_right (Nat.sub_lt (Nat.two_pow_pos w) Nat.one_pos) (Nat.two_pow_pos _)
      _ = 2 ^ (w + k * w) := (Nat.pow_add 2 w (k * w)).symm
      _ ≤ 2 ^ 64 := Nat.pow_le_pow_right (by omega) (by omega)
  have hs : 2 ^ 64 - 1 - (2 ^ w - 1) <<< (k * w) = 2 ^ 64 - ((2 ^ w - 1) <<< (k * w) + 1) := by omega
  simp only [setElem, BitVec.toNat_ofNat, Nat.testBit_mod_two_pow, hp, decide_true, Bool.true_and, Nat.testBit_or,
    Nat.testBit_and, hs, Nat.testBit_two_pow_sub_succ hm, Nat.testBit_shiftLeft, ge_iff_le]
  by_cases h1 : k * w ≤ p
  · by_cases h2 : p < k * w + w
    · have : p - k * w < w := by omega
      simp [h1, h2, this]
    · have : ¬ p - k * w < w := by omega
      simp [h1, h2, this]
  · simp [h1]

theorem testBit_elem (x : Word64) (w k i : Nat) : (elem x w k).testBit i = (decide (i < w) && x.toNat.testBit (k * w + i)) := by
  rw [elem, Nat.testBit_mod_two_pow, Nat.testBit_shiftRight]

theorem elem_setElem_self (x : Word64) (w k y : Nat) (hk : k * w + w ≤ 64) : elem (setElem x w k y) w k = y % 2 ^ w := by
  apply Nat.eq_of_testBit_eq
  intro i
  rw [testBit_elem, Nat.testBit_mod_two_pow]
  by_cases hi : i < w
  · rw [testBit_setElem x w k y _ hk (by omega), if_pos (by omega)]
    simp
  · simp [hi]

theorem elem_setElem_other (x : Word64) (w k y j : Nat) (hj : j ≠ k) (hk : k * w + w ≤ 64) (hw : j * w + w ≤ 64) :
    elem (setElem x w k y) w j = elem x w j := by
  apply Nat.eq_of_testBit_eq
  intro i
  rw [testBit_elem, testBit_elem]
  by_cases hi : i < w
  · rw [testBit_setElem x w k y _ hk (by omega), if_neg]
    rintro ⟨h1, h2⟩
    rcases Nat.lt_or_gt_of_ne hj with h | h
    · have : (j + 1) * w ≤ k * w := Nat.mul_le_mul_right w h
      rw [Nat.add_mul] at this; omega
    · have : (k + 1) * w ≤ j * w := Nat.mul_le_mul_right w h
      rw [Nat.add_mul] at this; omega
  · simp [hi]

/-- Sub-elements read as they were packed. -/
theorem elem_packElems (w : Nat) (g : Nat → Nat) (n k : Nat) (hn : n * w ≤ 64) (hk : k < n) :
    elem (packElems w g n) w k = g k % 2 ^ w := by
  induction n with
  | zero => omega
  | succ n ih =>
    have h1 : n * w + w ≤ 64 := by rw [Nat.add_mul] at hn; omega
    rw [packElems]
    by_cases h : k = n
    · subst h; exact elem_setElem_self _ _ _ _ h1
    · have h2 : k * w + w ≤ n * w := by
        have : (k + 1) * w ≤ n * w := Nat.mul_le_mul_right w (by omega)
        rw [Nat.add_mul] at this; omega
      rw [elem_setElem_other _ _ _ _ _ h h1 (by omega), ih (by omega) (by omega)]

theorem count_mul_bits (x : Width) : x.count * x.bits = 64 := by cases x <;> rfl

theorem elem_lt (x : Word64) (w k : Nat) : elem x w k < 2 ^ w := Nat.mod_lt _ (Nat.two_pow_pos w)

theorem wrapInt_lt (w : Nat) (x : Int) : wrapInt w x < 2 ^ w := by
  have h : (0 : Int) < 2 ^ w := by exact_mod_cast Nat.two_pow_pos w
  have h1 := Int.emod_lt_of_pos x h
  have h2 := Int.emod_nonneg x (Int.ne_of_gt h)
  have h3 : ((x % 2 ^ w).toNat : Int) < ((2 ^ w : Nat) : Int) := by
    rw [Int.toNat_of_nonneg h2]; push_cast; exact h1
  exact_mod_cast h3

theorem fit_lt (w : Nat) (u sat : Bool) (x : Int) : fit w u sat x < 2 ^ w := by
  unfold fit satUnsigned satSigned
  split
  · split <;> exact wrapInt_lt _ _
  · exact wrapInt_lt _ _

/-- An instruction whose body is `elemOp`. -/
theorem elemOp_effect {i : Instr} {fm : Format} {f : Fields} {op : Nat → Nat → Nat → Nat}
    {rule : Nat → Nat → Nat → Nat → Prop} (s : State) (g : Group) (hx : exec i s = run i f (elemOp f op) s)
    (hi : i.format = some fm) (hf : i.fields = some f) (hc : convergent fm.opcode = false)
    (hv : ∀ a b c, a < 2 ^ f.width.bits → b < 2 ^ f.width.bits → c < 2 ^ f.width.bits →
      rule a b c (op a b c % 2 ^ f.width.bits)) :
    RegisterEffect i s g [f.d] fun t => Gives s t g f f.d (Elements f rule) := by
  refine computed_effect s g hx hi hf hc fun w d l k hk => ?_
  show rule _ _ _ (elem (packElems f.width.bits _ f.width.count) f.width.bits k)
  rw [elem_packElems _ _ _ _ (Nat.le_of_eq (count_mul_bits f.width)) hk]
  exact hv _ _ _ (elem_lt _ _ _) (elem_lt _ _ _) (elem_lt _ _ _)

/-- The rule of an integer instruction: the exact result of `op` on the numbers read, fitted to the width (R102). -/
theorem intOp_effect {i : Instr} {fm : Format} {f : Fields} {u : Bool} {op : Int → Int → Int → Int}
    {rule : Nat → Nat → Nat → Nat → Prop} (s : State) (g : Group) (hx : exec i s = run i f (intOp f u op) s)
    (hi : i.format = some fm) (hf : i.fields = some f) (hc : convergent fm.opcode = false)
    (hv : ∀ a b c, rule a b c
      (fit f.width.bits u f.sat (op (number u f.width.bits a) (number u f.width.bits b) (number u f.width.bits c)))) :
    RegisterEffect i s g [f.d] fun t => Gives s t g f f.d (Elements f rule) := by
  unfold intOp at hx
  refine elemOp_effect s g hx hi hf hc fun a b c _ _ _ => ?_
  rw [Nat.mod_eq_of_lt (fit_lt _ _ _ _)]
  exact hv a b c

end Sys2Proof.Machine
end

