-- ==== Sys2Proof/Laws/Memory.lean ====
section
/-! SUPPORT. Laws of memory: reading after writing, and the canonical form that every operation keeps. -/

namespace Sys2Proof.Machine

/-! ### The canonical form -/

theorem Memory.wf_nil : Memory.wf [] = true := rfl

theorem Memory.wf_cons (k : Nat) (v : Byte) (m : Memory) :
    Memory.wf ((k, v) :: m) = true ↔ v ≠ Memory.rest ∧ Memory.above k m = true ∧ Memory.wf m = true := by
  simp [Memory.wf, and_assoc]

theorem Memory.above_iff (k : Nat) (m : Memory) : Memory.above k m = true ↔ ∀ c ∈ m, k < c.1 := by
  simp [Memory.above]

theorem Memory.above_write (k : Nat) (m : Memory) (a : Nat) (b : Byte) (h : Memory.above k m = true) (ha : k < a) :
    Memory.above k (Memory.write m a b) = true := by
  induction m with
  | nil => unfold Memory.write; split <;> simp_all [Memory.above]
  | cons e m ih =>
    obtain ⟨x, v⟩ := e
    have hx : k < x := by simpa using (Memory.above_iff k _).mp h (x, v) (by simp)
    have hm : Memory.above k m = true := (Memory.above_iff k m).mpr fun c hc => (Memory.above_iff k _).mp h c (by simp [hc])
    have hw := ih hm
    rw [Memory.above_iff] at hm hw ⊢
    intro c hc
    by_cases hxa : x = a
    · by_cases hb : b = Memory.rest
      · simp only [Memory.write, hxa, hb, if_true] at hc
        exact hm c hc
      · simp only [Memory.write, hxa, hb, if_true, if_false, List.mem_cons] at hc
        rcases hc with rfl | hc
        · exact ha
        · exact hm c hc
    · by_cases hlt : a < x
      · by_cases hb : b = Memory.rest
        · simp only [Memory.write, hxa, hlt, hb, if_true, if_false, List.mem_cons] at hc
          rcases hc with rfl | hc
          · exact hx
          · exact hm c hc
        · simp only [Memory.write, hxa, hlt, hb, if_true, if_false, List.mem_cons] at hc
          rcases hc with rfl | rfl | hc
          · exact ha
          · exact hx
          · exact hm c hc
      · simp only [Memory.write, hxa, hlt, if_false, List.mem_cons] at hc
        rcases hc with rfl | hc
        · exact hx
        · exact hw c hc

/-- Writing a byte keeps the canonical form. -/
theorem Memory.wf_write (m : Memory) (a : Nat) (b : Byte) (h : Memory.wf m = true) : Memory.wf (Memory.write m a b) = true := by
  induction m with
  | nil => unfold Memory.write; split <;> simp_all [Memory.wf, Memory.above]
  | cons e m ih =>
    obtain ⟨x, v⟩ := e
    obtain ⟨hv, hab, hm⟩ := (Memory.wf_cons x v m).mp h
    unfold Memory.write
    by_cases hxa : x = a
    · subst hxa
      by_cases hb : b = Memory.rest
      · simpa [hb] using hm
      · simp [hb, Memory.wf_cons, hab, hm]
    · by_cases hlt : a < x
      · by_cases hb : b = Memory.rest
        · simpa [hxa, hlt, hb] using h
        · have : Memory.above a ((x, v) :: m) = true :=
            (Memory.above_iff a _).mpr fun c hc => by
              rcases List.mem_cons.mp hc with rfl | hc
              · exact hlt
              · exact Nat.lt_trans hlt ((Memory.above_iff x m).mp hab c hc)
          simp [hxa, hlt, hb, Memory.wf_cons, this, hv, hab, hm]
      · have : x < a := by omega
        simp [hxa, hlt, Memory.wf_cons, hv, Memory.above_write x m a b hab this, ih hm]

theorem Memory.wf_writeBytes (m : Memory) (a : Nat) (bytes : List Byte) (h : Memory.wf m = true) :
    Memory.wf (Memory.writeBytes m a bytes) = true := by
  induction bytes generalizing m a with
  | nil => exact h
  | cons b rest ih => exact ih _ _ (Memory.wf_write m a b h)

theorem Memory.wf_writeNat (m : Memory) (a n v : Nat) (h : Memory.wf m = true) : Memory.wf (Memory.writeNat m a n v) = true :=
  Memory.wf_writeBytes m a _ h

/-- Cells taken away keep the canonical form. -/
theorem Memory.wf_filter (m : Memory) (p : Host.Cell → Bool) (h : Memory.wf m = true) : Memory.wf (m.filter p) = true := by
  induction m with
  | nil => rfl
  | cons e m ih =>
    obtain ⟨x, v⟩ := e
    obtain ⟨hv, hab, hm⟩ := (Memory.wf_cons x v m).mp h
    by_cases hp : p (x, v) = true
    · rw [List.filter_cons_of_pos hp, Memory.wf_cons]
      exact ⟨hv, (Memory.above_iff x _).mpr fun c hc => (Memory.above_iff x m).mp hab c ((List.mem_filter.mp hc).1), ih hm⟩
    · rw [List.filter_cons_of_neg hp]
      exact ih hm

theorem Memory.wf_zero (m : Memory) (low n : Nat) (h : Memory.wf m = true) : Memory.wf (Memory.zero m low n) = true :=
  Memory.wf_filter m _ h

theorem Memory.wf_foldl_write {α : Type} (l : List α) (f : Memory → α → Memory)
    (hf : ∀ m x, Memory.wf m = true → Memory.wf (f m x) = true) (m : Memory) (h : Memory.wf m = true) :
    Memory.wf (l.foldl f m) = true := by
  induction l generalizing m with
  | nil => exact h
  | cons x l ih => exact ih _ (hf m x h)

theorem Memory.wf_map_sub (m : Memory) (low : Nat) (h : Memory.wf m = true) (hl : ∀ c ∈ m, low ≤ c.1) :
    Memory.wf (List.map (fun c : Host.Cell => (c.1 - low, c.2)) m) = true := by
  induction m with
  | nil => rfl
  | cons e m ih =>
    obtain ⟨x, v⟩ := e
    obtain ⟨hv, hab, hm⟩ := (Memory.wf_cons x v m).mp h
    rw [List.map_cons, Memory.wf_cons]
    refine ⟨hv, (Memory.above_iff _ _).mpr ?_, ih hm fun c hc => hl c (by simp [hc])⟩
    intro c hc
    obtain ⟨d, hd, rfl⟩ := List.mem_map.mp hc
    have h1 := (Memory.above_iff x m).mp hab d hd
    have h2 := hl (x, v) (by simp)
    simp only at h2 ⊢
    omega

theorem Memory.wf_slice (m : Memory) (low n : Nat) (h : Memory.wf m = true) : Memory.wf (Memory.slice m low n) = true :=
  Memory.wf_map_sub _ low (Memory.wf_filter m _ h) fun c hc => by
    have := (List.mem_filter.mp hc).2
    simp at this
    exact this.1

/-- The memory of a module after reset has the canonical form. -/
theorem State.reset_mem_wf : Memory.wf State.reset.mem = true := rfl

/-! ### Reading after writing -/

theorem Memory.read_of_above (m : Memory) (a : Nat) (h : Memory.above a m = true) : Memory.read m a = Memory.rest := by
  cases m with
  | nil => rfl
  | cons e m =>
    obtain ⟨x, v⟩ := e
    have hx : a < x := by simpa using (Memory.above_iff a _).mp h (x, v) (by simp)
    simp [Memory.read, hx, Nat.ne_of_gt hx]

/-- A byte reads as it was written. -/
theorem Memory.read_write_self (m : Memory) (a : Nat) (b : Byte) (h : Memory.wf m = true) :
    Memory.read (Memory.write m a b) a = b := by
  induction m with
  | nil => unfold Memory.write; split <;> simp_all [Memory.read]
  | cons e m ih =>
    obtain ⟨x, v⟩ := e
    obtain ⟨-, hab, hm⟩ := (Memory.wf_cons x v m).mp h
    unfold Memory.write
    by_cases hxa : x = a
    · subst hxa
      by_cases hb : b = Memory.rest
      · simp [hb, Memory.read_of_above m x hab]
      · simp [hb, Memory.read]
    · by_cases hlt : a < x
      · by_cases hb : b = Memory.rest
        · simp [hxa, hlt, hb, Memory.read]
        · simp [hxa, hlt, hb, Memory.read]
      · simp [hxa, hlt, Memory.read, ih hm]

/-- Every other byte reads as before. -/
theorem Memory.read_write_other (m : Memory) (a : Nat) (b : Byte) (c : Nat) (h : Memory.wf m = true) (hc : c ≠ a) :
    Memory.read (Memory.write m a b) c = Memory.read m c := by
  induction m with
  | nil => unfold Memory.write; split <;> simp_all [Memory.read, Ne.symm hc]
  | cons e m ih =>
    obtain ⟨x, v⟩ := e
    obtain ⟨-, hab, hm⟩ := (Memory.wf_cons x v m).mp h
    unfold Memory.write
    by_cases hxa : x = a
    · subst hxa
      by_cases hb : b = Memory.rest
      · by_cases hcx : c < x
        · have : Memory.above c m = true :=
            (Memory.above_iff c m).mpr fun d hd => Nat.lt_trans hcx ((Memory.above_iff x m).mp hab d hd)
          simp [hb, Memory.read, Ne.symm hc, hcx, Memory.read_of_above m c this]
        · simp [hb, Memory.read, Ne.symm hc, hcx]
      · simp [hb, Memory.read, Ne.symm hc]
    · by_cases hlt : a < x
      · by_cases hb : b = Memory.rest
        · simp [hxa, hlt, hb]
        · by_cases hca : c < a
          · have : c < x := by omega
            simp [hxa, hlt, hb, Memory.read, Ne.symm hc, hca, this, Nat.ne_of_gt this]
          · simp [hxa, hlt, hb, Memory.read, Ne.symm hc, hca]
      · by_cases hxc : x = c
        · subst hxc
          simp [hxa, hlt, Memory.read]
        · by_cases hcx : c < x <;> simp [hxa, hlt, Memory.read, hxc, hcx, ih hm]

/-- Bytes written change no byte outside their range. -/
theorem Memory.read_writeBytes_outside (m : Memory) (a : Nat) (bytes : List Byte) (c : Nat) (h : Memory.wf m = true)
    (hc : c < a ∨ a + bytes.length ≤ c) : Memory.read (Memory.writeBytes m a bytes) c = Memory.read m c := by
  induction bytes generalizing m a with
  | nil => rfl
  | cons b rest ih =>
    have hl : (b :: rest).length = rest.length + 1 := rfl
    rw [Memory.writeBytes, ih _ _ (Memory.wf_write m a b h) (by omega)]
    exact Memory.read_write_other m a b c h (by omega)

/-- Bytes read as they were written. -/
theorem Memory.read_writeBytes (m : Memory) (a : Nat) (bytes : List Byte) (k : Nat) (h : Memory.wf m = true)
    (hk : k < bytes.length) : Memory.read (Memory.writeBytes m a bytes) (a + k) = bytes[k] := by
  induction bytes generalizing m a k with
  | nil => simp at hk
  | cons b rest ih =>
    cases k with
    | zero =>
      rw [Memory.writeBytes, Memory.read_writeBytes_outside _ _ _ _ (Memory.wf_write m a b h) (by omega)]
      exact Memory.read_write_self m a b h
    | succ k =>
      have := ih (Memory.write m a b) (a + 1) k (Memory.wf_write m a b h) (by simpa using hk)
      rw [Memory.writeBytes, show a + (k + 1) = a + 1 + k by omega, this]
      rfl

end Sys2Proof.Machine
end

