-- ==== Sys2Proof/Tests/Slice0.lean ====
section
/-! SUPPORT. The author's own tests: ill-formed terms are refused, words written out from the encoding tables decode, worked
examples of the manual come out, and the premises of the statements can be met. -/

namespace Sys2Proof.Tests

set_option Elab.async false

open Sys2Proof Sys2Proof.Machine

/-! ### Well-formedness: one ill-formed term for each check of R80 -/

/-- An IADD of v registers, to be spoiled. -/
def sound : Fields := ⟨false, 7, .v 1, .v 2, .v 3, .zero, .d, 0, 0, false, false, false, false, false, false, 0⟩

/-- The first check that an instruction fails in a kernel. -/
def failing (env : Env) (i : Instr) : Option EncFault :=
  match i.format, i.fields with
  | some fm, some f => fm.check env f
  | _, _ => none

theorem test_sound_is_wellFormed : (Instr.iadd sound).wellFormed = true := by decide

theorem test_reserved_bits_refused :
    failing .widest (.iadd { sound with imm := 1 }) = some .reservedBits ∧
      failing .widest (.bfx { sound with b := .zero, imm := 0x10000 }) = some .reservedBits ∧
      failing .widest (.ld { sound with b := .zero, imm := 0x01000000 }) = some .reservedBits ∧
      failing .widest (.atom { sound with imm := 0x08000000 }) = some .reservedBits ∧
      failing .widest (.ldm { sound with a := .zero, b := .zero, imm := 0x20000000 }) = some .reservedBits ∧
      failing .widest (.mma { sound with d := .a 0, c := .c 0, imm := 0xC6 }) = none ∧
      failing .widest (.mma { sound with d := .a 0, c := .c 0, imm := 0x36 }) = some .reservedBits ∧
      failing .widest (.mmas { sound with d := .a 0, c := .c 0, imm := 0x30066 }) = some .reservedBits ∧
      failing .widest (.mmaq { sound with d := .a 0, c := .c 0, imm := 0x40 }) = some .reservedBits ∧
      failing .widest (.accrd { sound with a := .a 0, b := .zero, imm := 0x13F }) = some .reservedBits ∧
      failing .widest (.accst { sound with d := .zero, a := .a 0, b := .zero, imm := 0x3F01 }) = some .reservedBits := by decide

theorem test_modifiers_refused :
    failing .widest (.iadd { sound with t := 2 }) = some .illegalModifier ∧
      failing .widest (.iadd { sound with rm := 1 }) = some .illegalModifier ∧
      failing .widest (.iadd { sound with x := true }) = some .illegalModifier ∧
      failing .widest (.idiv { sound with sat := true }) = some .illegalModifier ∧
      failing .widest (.lea { sound with width := .w, c := .v 1 }) = some .illegalModifier ∧
      failing .widest (.fadd { sound with width := .b }) = some .illegalModifier ∧
      failing .widest (.fadd { sound with width := .w, t := 1 }) = some .illegalModifier ∧
      failing .widest (.fsin { sound with b := .zero }) = some .illegalModifier ∧
      failing .widest (.reduce { sound with b := .zero, c := .c 0, t := 15 }) = some .illegalModifier ∧
      failing .widest (.atom { sound with width := .h }) = some .illegalModifier ∧
      failing .widest (.mma { sound with d := .a 0, c := .c 0, t := 1, x := true, imm := 0x66 }) = some .illegalModifier ∧
      failing .widest (.mma { sound with d := .a 0, c := .c 0, t := 1, imm := 0xAA }) = some .illegalModifier ∧
      failing .widest (.binit { sound with d := .zero, a := .s 0, b := .s 1 }) = some .illegalModifier := by decide

theorem test_operands_refused :
    failing .widest (.iadd { sound with d := .imm }) = some .illegalOperand ∧
      failing .widest (.iadd { sound with a := .p 1 }) = some .illegalOperand ∧
      failing .widest (.iadd { sound with c := .v 0 }) = some .illegalOperand ∧
      failing .widest (.iadd { sound with d := .s 1 }) = some .illegalOperand ∧
      failing .widest (.sel { sound with c := .zero }) = some .illegalOperand ∧
      failing .widest (.icmp { sound with d := .p 1, c := .p 2 }) = some .illegalOperand ∧
      failing .widest (.xsplit { sound with b := .zero, c := .s 1 }) = some .illegalOperand ∧
      failing .widest (.perm { sound with c := .c 0, x := true, b := .imm }) = some .illegalOperand ∧
      failing .widest (.vote { sound with a := .p 1, b := .zero, c := .c 0, t := 1 }) = some .illegalOperand ∧
      failing { Env.widest with regs := 2 } (.iadd sound) = some .illegalOperand := by decide

theorem test_limits_of_kernel_refused :
    failing { Env.widest with acc := 1 } (.accz { sound with d := .a 1, a := .zero, b := .zero }) = some .accTile ∧
      failing { Env.widest with shadowDeclared := false } (.qpeek { sound with d := .p 1, a := .q 0, b := .zero }) = some .queueWindow := by
  decide

theorem test_illformed_terms_are_not_wellFormed :
    (Instr.iadd { sound with imm := 1 }).wellFormed = false ∧ (Instr.iadd { sound with t := 2 }).wellFormed = false ∧
      (Instr.iadd { sound with d := .imm }).wellFormed = false ∧
      (Instr.mov { sound with b := .zero, x := true }).wellFormed = false ∧
      (Instr.movSubelement { sound with b := .zero }).wellFormed = false := by decide

/-! ### Decoding: a word for every instruction, put together from the fields of R70 and R72, the opcodes of R79 and the operand
codes of R75; and the words that the manual writes out -/

/-- Every word decodes to its instruction. -/
def decodes (l : List (Nat × Instr)) : Bool := l.all fun x => decodeTableWord 96 x.1 == some x.2


theorem test_decode_group0 : decodes [
    (0x12C0E90407A01024000, .iadd ⟨false, 0, .v 9, .v 4, .imm, .zero, .w, 0, 0, true, false, false, false, false, false, 0x12C⟩),
    (0xE914120A060DC01, .isub ⟨false, 7, .s 3, .s 1, .s 2, .zero, .d, 1, 0, true, false, false, false, false, true, 0x0⟩),
    (0xC220180C0805C02, .iadds ⟨false, 7, .v 1, .v 2, .v 3, .p 2, .h, 1, 0, false, false, false, false, true, false, 0x0⟩),
    (0xFFFFFFFE0C7340C0FA006C03, .isubs ⟨true, 3, .v 1, .imm, .v 3, .p 7, .b, 0, 0, true, false, false, false, true, true, 0xFFFFFFFE⟩),
    (0xE94016FC01FDC04, .imul ⟨false, 7, .v 127, .v 0, .s 63, .zero, .w, 1, 0, false, false, false, true, false, false, 0x0⟩),
    (0xE950181C1815C05, .imulh ⟨false, 7, .v 5, .v 6, .v 7, .zero, .h, 1, 0, false, false, false, true, false, true, 0x0⟩),
    (0x7F008640FA01815806, .imad ⟨false, 6, .v 5, .v 6, .imm, .v 8, .b, 0, 0, true, false, false, true, true, false, 0x7F⟩),
    (0xE970161A1611C07, .idiv ⟨false, 7, .s 4, .s 5, .s 6, .zero, .w, 1, 0, false, false, false, true, true, true, 0x0⟩),
    (0xE9800C181411C08, .irem ⟨false, 7, .v 4, .v 5, .v 6, .zero, .b, 0, 0, false, false, true, false, false, false, 0x0⟩),
    (0xE9901BA41412809, .imin ⟨true, 2, .v 4, .v 5, .zero, .zero, .h, 1, 0, false, false, true, false, false, true, 0x0⟩),
    (0xE9A0001817A5C0A, .imax ⟨false, 7, .zero, .v 5, .v 6, .zero, .d, 0, 0, false, false, true, false, true, false, 0x0⟩),
    (0xE9B407A42421C0B, .iabs ⟨false, 7, .v 8, .v 9, .zero, .zero, .w, 0, 0, true, false, true, false, true, true, 0x0⟩),
    (0xE9C00FA6262140C, .ineg ⟨false, 5, .s 8, .s 9, .zero, .zero, .b, 0, 0, false, false, true, true, false, false, 0x0⟩),
    (0xC1D010080011C0D, .iaddc ⟨false, 7, .v 4, .v 0, .v 2, .p 1, .d, 1, 0, false, false, true, true, false, true, 0x0⟩),
    (0x400E8E0F0080011C0E, .lea ⟨false, 7, .v 4, .v 0, .v 2, .imm, .d, 15, 0, false, false, true, true, true, false, 0x40⟩),
    (0x6F43C08001240F, .idot ⟨true, 1, .v 4, .v 0, .v 2, .v 6, .b, 3, 0, true, false, true, true, true, true, 0x0⟩)] = true := by decide +kernel

theorem test_decode_group1 : decodes [
    (0xFF0E90003A00805C40, .andOp ⟨false, 7, .v 1, .v 2, .imm, .zero, .d, 0, 0, false, false, false, false, false, false, 0xFF⟩),
    (0xE910060E0A05C41, .orOp ⟨false, 7, .s 1, .s 2, .s 3, .zero, .w, 0, 0, false, false, false, false, false, true, 0x0⟩),
    (0xE920080C0805042, .xorOp ⟨false, 4, .v 1, .v 2, .v 3, .zero, .h, 0, 0, false, false, false, false, true, false, 0x0⟩),
    (0xE9300C0C0805C43, .andn ⟨false, 7, .v 1, .v 2, .v 3, .zero, .b, 0, 0, false, false, false, false, true, true, 0x0⟩),
    (0xE94003A40805C44, .notOp ⟨false, 7, .v 1, .v 2, .zero, .zero, .d, 0, 0, false, false, false, true, false, false, 0x0⟩),
    (0x1F0E95007A00806045, .shl ⟨true, 0, .v 1, .v 2, .imm, .zero, .w, 0, 0, false, false, false, true, false, true, 0x1F⟩),
    (0xE960080C0805C46, .shr ⟨false, 7, .v 1, .v 2, .v 3, .zero, .h, 0, 0, false, false, false, true, true, false, 0x0⟩),
    (0xE9700C0C0805C47, .sar ⟨false, 7, .v 1, .v 2, .v 3, .zero, .b, 0, 0, false, false, false, true, true, true, 0x0⟩),
    (0x210E98003A20A04C48, .rot ⟨false, 3, .s 1, .s 2, .imm, .zero, .d, 0, 0, false, false, true, false, false, false, 0x21⟩),
    (0x490040C0805C49, .fshr ⟨false, 7, .v 1, .v 2, .v 3, .v 4, .w, 0, 0, false, false, true, false, false, true, 0x0⟩),
    (0xE9A00BA40805C4A, .popc ⟨false, 7, .v 1, .v 2, .zero, .zero, .h, 0, 0, false, false, true, false, true, false, 0x0⟩),
    (0xE9B00FA4080784B, .clz ⟨true, 6, .v 1, .v 2, .zero, .zero, .b, 0, 0, false, false, true, false, true, true, 0x0⟩),
    (0xE9C007A60A05C4C, .ctz ⟨false, 7, .s 1, .s 2, .zero, .zero, .w, 0, 0, false, false, true, true, false, false, 0x0⟩),
    (0xE9D003A40805C4D, .brev ⟨false, 7, .v 1, .v 2, .zero, .zero, .d, 0, 0, false, false, true, true, false, true, 0x0⟩),
    (0x8040E9E017A4080484E, .bfx ⟨false, 2, .v 1, .v 2, .zero, .zero, .w, 1, 0, false, false, true, true, true, false, 0x804⟩),
    (0xC080E9F0080C0805C4F, .bfi ⟨false, 7, .v 1, .v 2, .v 3, .zero, .h, 0, 0, false, false, true, true, true, true, 0xC08⟩),
    (0x3000008041DC50, .prmb ⟨false, 7, .v 7, .v 1, .v 2, .v 3, .d, 0, 0, false, false, false, false, false, false, 0x0⟩)] = true := by decide +kernel

theorem test_decode_group2 : decodes [
    (0xC21220100F07480, .icmp ⟨true, 5, .p 1, .v 3, .v 4, .p 2, .d, 2, 2, false, false, false, false, false, true, 0x0⟩),
    (0x70C32003A00805C81, .sel ⟨false, 7, .v 1, .v 2, .imm, .p 3, .d, 0, 0, false, false, false, false, true, false, 0x7⟩),
    (0xE93007A60805C82, .mov ⟨false, 7, .v 1, .s 2, .zero, .zero, .w, 0, 0, false, false, false, false, true, true, 0x0⟩),
    (0x20E9483BA41814482, .movSubelement ⟨false, 1, .v 5, .v 6, .zero, .zero, .h, 3, 0, false, true, false, true, false, false, 0x2⟩),
    (0xDEADBEEF0E95803A7A405C83, .movi ⟨false, 7, .v 1, .zero, .zero, .zero, .d, 0, 0, false, true, false, true, false, true, 0xDEADBEEF⟩),
    (0x50E96003A00A05C84, .movs ⟨false, 7, .s 1, .v 2, .imm, .zero, .d, 0, 0, false, false, false, true, true, false, 0x5⟩),
    (0xE978020C0807085, .movv ⟨true, 4, .v 1, .v 2, .s 3, .zero, .d, 0, 0, false, true, false, true, true, true, 0x0⟩),
    (0x10E98033A30B05C86, .pset ⟨false, 7, .p 1, .p 2, .imm, .zero, .d, 3, 0, false, false, true, false, false, false, 0x1⟩),
    (0x7F0E99803A00BA5C87, .pmov ⟨false, 7, .zero, .v 2, .imm, .zero, .d, 0, 0, false, true, true, false, false, true, 0x7F⟩),
    (0x10E9AC67A40804088, .cvti ⟨false, 0, .v 1, .v 2, .zero, .zero, .w, 6, 0, true, true, true, false, true, false, 0x1⟩)] = true := by decide +kernel

theorem test_decode_group3 : decodes [
    (0xE9B7040C0805CC0, .fadd ⟨false, 7, .v 1, .v 2, .v 3, .zero, .w, 0, 3, true, false, true, false, true, true, 0x0⟩),
    (0x3F8000000E9C103A00805CC1, .fsub ⟨false, 7, .v 1, .v 2, .imm, .zero, .d, 0, 1, false, false, true, true, false, false, 0x3F800000⟩),
    (0xE9D6180C0806CC2, .fmul ⟨true, 3, .v 1, .v 2, .v 3, .zero, .h, 1, 2, true, false, true, true, false, true, 0x0⟩),
    (0x4E0080C0805CC3, .ffma ⟨false, 7, .v 1, .v 2, .v 3, .v 4, .h, 0, 0, false, false, true, true, true, false, 0x0⟩),
    (0xE9F0040C0805CC4, .fmin ⟨false, 7, .v 1, .v 2, .v 3, .zero, .w, 0, 0, false, false, true, true, true, true, 0x0⟩),
    (0xE900020E0A058C5, .fmax ⟨false, 6, .s 1, .s 2, .s 3, .zero, .d, 0, 0, false, false, false, false, false, false, 0x0⟩),
    (0xE919040C0B05CC6, .fcmp ⟨false, 7, .p 1, .v 2, .v 3, .zero, .w, 0, 1, false, true, false, false, false, true, 0x0⟩),
    (0xE9201BA40805CC7, .fclass ⟨false, 7, .v 1, .v 2, .zero, .zero, .h, 1, 0, false, false, false, false, true, false, 0x0⟩),
    (0x437180C08068C8, .fdot2 ⟨true, 2, .v 1, .v 2, .v 3, .v 4, .h, 1, 3, true, false, false, false, true, true, 0x0⟩)] = true := by decide +kernel

theorem test_decode_group4 : decodes [
    (0x10E94463A4080DD00, .fcvt ⟨false, 7, .v 3, .v 2, .zero, .zero, .d, 6, 0, true, false, false, true, false, false, 0x1⟩),
    (0xE95307A40805D01, .frnd ⟨false, 7, .v 1, .v 2, .zero, .zero, .w, 0, 3, false, false, false, true, false, true, 0x0⟩),
    (0xE96903A40805502, .ftoi ⟨false, 5, .v 1, .v 2, .zero, .zero, .d, 0, 1, false, true, false, true, true, false, 0x0⟩),
    (0xE97E1BA40805D03, .itof ⟨false, 7, .v 1, .v 2, .zero, .zero, .h, 1, 2, true, true, false, true, true, true, 0x0⟩),
    (0xE98407A40805D04, .frcp ⟨false, 7, .v 1, .v 2, .zero, .zero, .w, 0, 0, true, false, true, false, false, false, 0x0⟩),
    (0xE99003A40806505, .frsq ⟨true, 1, .v 1, .v 2, .zero, .zero, .d, 0, 0, false, false, true, false, false, true, 0x0⟩),
    (0xE9A507A40805D06, .fsqrt ⟨false, 7, .v 1, .v 2, .zero, .zero, .w, 0, 1, true, false, true, false, true, false, 0x0⟩),
    (0xE9B407A40805D07, .fexp2 ⟨false, 7, .v 1, .v 2, .zero, .zero, .w, 0, 0, true, false, true, false, true, true, 0x0⟩),
    (0xE9C00BA40805108, .flog2 ⟨false, 4, .v 1, .v 2, .zero, .zero, .h, 0, 0, false, false, true, true, false, false, 0x0⟩),
    (0xE9D007A40805D09, .fsin ⟨false, 7, .v 1, .v 2, .zero, .zero, .w, 0, 0, false, false, true, true, false, true, 0x0⟩),
    (0xE9E01BA40805D0A, .fcos ⟨false, 7, .v 1, .v 2, .zero, .zero, .h, 1, 0, false, false, true, true, true, false, 0x0⟩),
    (0xE9F007A4080610B, .ftanh ⟨true, 0, .v 1, .v 2, .zero, .zero, .w, 0, 0, false, false, true, true, true, true, 0x0⟩),
    (0xE900040C0805D0C, .xmax ⟨false, 7, .v 1, .v 2, .v 3, .zero, .w, 0, 0, false, false, false, false, false, false, 0x0⟩),
    (0x40E9170BA00805D0D, .xscale ⟨false, 7, .v 1, .v 2, .imm, .zero, .h, 0, 3, true, false, false, false, false, true, 0x4⟩),
    (0x32003A40804D0E, .xsplit ⟨false, 3, .v 1, .v 2, .zero, .v 3, .d, 0, 0, false, false, false, false, true, false, 0x0⟩)] = true := by decide +kernel

theorem test_decode_group5 : decodes [
    (0x60E935940C0805D40, .qpack ⟨false, 7, .v 1, .v 2, .v 3, .zero, .w, 9, 1, true, false, false, false, true, true, 0x6⟩),
    (0x100E948F3A40805D41, .qunpk ⟨false, 7, .v 1, .v 2, .zero, .zero, .d, 15, 0, false, true, false, true, false, false, 0x10⟩),
    (0x20E950E4181017942, .qdeq ⟨true, 6, .v 5, .v 4, .v 6, .zero, .w, 14, 0, false, false, false, true, false, true, 0x2⟩),
    (0x4680C08040DD43, .spsel ⟨false, 7, .v 3, .v 1, .v 2, .v 4, .b, 0, 0, false, true, false, true, true, false, 0x0⟩),
    (0x6702C100C15D44, .spexp ⟨false, 7, .v 5, .v 3, .v 4, .v 6, .b, 2, 0, false, false, false, true, true, true, 0x0⟩)] = true := by decide +kernel

theorem test_decode_group6 : decodes [
    (0xC98030141018980, .perm ⟨false, 2, .v 6, .v 4, .v 5, .c 1, .d, 3, 0, false, false, true, false, false, false, 0x0⟩),
    (0x2A0CF9007A01019D81, .bcast ⟨false, 7, .v 6, .v 4, .imm, .c 7, .w, 0, 0, false, false, true, false, false, true, 0x2A⟩),
    (0xFFFFFFFF0C8AB7A041019D82, .shfl ⟨false, 7, .v 6, .v 4, .s 1, .c 0, .h, 7, 3, false, true, true, false, true, false, 0xFFFFFFFF⟩),
    (0xCBB023A70B07583, .vote ⟨true, 5, .p 1, .p 2, .zero, .c 3, .d, 2, 0, false, false, true, false, true, true, 0x0⟩),
    (0xC8C797A40A05D84, .reduce ⟨false, 7, .s 1, .v 2, .zero, .c 0, .w, 9, 3, true, false, true, true, false, false, 0x0⟩),
    (0xC8D803A40825D85, .scan ⟨false, 7, .v 9, .v 2, .zero, .c 0, .d, 0, 0, false, true, true, true, false, true, 0x0⟩),
    (0xC8E00FA40804586, .matchOp ⟨false, 1, .v 1, .v 2, .zero, .c 0, .b, 0, 0, false, false, true, true, true, false, 0x0⟩)] = true := by decide +kernel

theorem test_decode_group7 : decodes [
    (0x30E9F003A7A7A5DC0, .bra ⟨false, 7, .zero, .zero, .zero, .zero, .d, 0, 0, false, false, true, true, true, true, 0x3⟩),
    (0xE90003A607A5DC1, .brx ⟨false, 7, .zero, .s 1, .zero, .zero, .d, 0, 0, false, false, false, false, false, false, 0x0⟩),
    (0xFFFFFFFF0E91003A7A4071C2, .call ⟨true, 4, .v 1, .zero, .zero, .zero, .d, 0, 0, false, false, false, false, false, true, 0xFFFFFFFF⟩),
    (0xE92003A40805DC3, .callx ⟨false, 7, .v 1, .v 2, .zero, .zero, .d, 0, 0, false, false, false, false, true, false, 0x0⟩),
    (0xE93003A407A5DC4, .ret ⟨false, 7, .zero, .v 1, .zero, .zero, .d, 0, 0, false, false, false, false, true, true, 0x0⟩),
    (0xE94003A7A7A41C5, .exit ⟨false, 0, .zero, .zero, .zero, .zero, .d, 0, 0, false, false, false, true, false, false, 0x0⟩),
    (0x80E95803A7A7A5DC6, .reform ⟨false, 7, .zero, .zero, .zero, .zero, .d, 0, 0, false, true, false, true, false, true, 0x8⟩),
    (0x123456780E96003A7A7A5DC7, .trap ⟨false, 7, .zero, .zero, .zero, .zero, .d, 0, 0, false, false, false, true, true, false, 0x12345678⟩),
    (0x90E97003A7A7A6DC8, .bpt ⟨true, 3, .zero, .zero, .zero, .zero, .d, 0, 0, false, false, false, true, true, true, 0x9⟩),
    (0xE98003A7A7A5DC9, .nop ⟨false, 7, .zero, .zero, .zero, .zero, .d, 0, 0, false, false, true, false, false, false, 0x0⟩)] = true := by decide +kernel

theorem test_decode_group8 : decodes [
    (0xFFFF0E99003A7A329E00, .conv ⟨false, 7, .c 2, .imm, .zero, .zero, .d, 0, 0, false, false, true, false, false, true, 0xFFFF⟩),
    (0xC8A003A7A7A5A01, .sign ⟨false, 6, .zero, .zero, .zero, .c 0, .d, 0, 0, false, false, true, false, true, false, 0x0⟩),
    (0xE9B803A7A7A5E02, .pdis ⟨false, 7, .zero, .zero, .zero, .zero, .d, 0, 0, false, true, true, false, true, true, 0x0⟩),
    (0xE9C003A7A7A5E03, .pen ⟨false, 7, .zero, .zero, .zero, .zero, .d, 0, 0, false, false, true, true, false, false, 0x0⟩),
    (0xE9D003A7A7A6A04, .syield ⟨true, 2, .zero, .zero, .zero, .zero, .d, 0, 0, false, false, true, true, false, true, 0x0⟩),
    (0x80E9E003A7A405E05, .getsys ⟨false, 7, .v 1, .zero, .zero, .zero, .d, 0, 0, false, false, true, true, true, false, 0x8⟩),
    (0x120E9F003A607A5E06, .setsys ⟨false, 7, .zero, .s 1, .zero, .zero, .d, 0, 0, false, false, true, true, true, true, 0x12⟩),
    (0xE90013A7A7A5607, .trapret ⟨false, 5, .zero, .zero, .zero, .zero, .d, 1, 0, false, false, false, false, false, false, 0x0⟩),
    (0x100E91013A207A5E08, .icpref ⟨false, 7, .zero, .s 1, .imm, .zero, .d, 1, 0, false, false, false, false, false, true, 0x10⟩),
    (0xE920020A0705E09, .icpin ⟨false, 7, .p 1, .s 1, .s 2, .zero, .d, 0, 0, false, false, false, false, true, false, 0x0⟩),
    (0xE930120A07A660A, .icunpin ⟨true, 1, .zero, .s 1, .s 2, .zero, .d, 1, 0, false, false, false, false, true, true, 0x0⟩),
    (0xE94003A7A705E0B, .ckreq ⟨false, 7, .p 1, .zero, .zero, .zero, .d, 0, 0, false, false, false, true, false, false, 0x0⟩)] = true := by decide +kernel

theorem test_decode_group9 : decodes [
    (0x40000080E95127A40815E40, .ld ⟨false, 7, .v 5, .v 2, .zero, .zero, .w, 2, 1, false, false, false, true, false, true, 0x4000008⟩),
    (0x2FFFFFF0E9614E200FA5241, .st ⟨false, 4, .zero, .v 3, .s 8, .zero, .b, 4, 1, false, false, false, true, true, false, 0x2FFFFFF⟩),
    (0x100020000E97023A7A421E42, .ldm ⟨false, 7, .v 8, .zero, .zero, .zero, .d, 2, 0, false, false, false, true, true, true, 0x10002000⟩),
    (0x80000100E980002207A5E43, .stm ⟨false, 7, .zero, .s 1, .v 8, .zero, .d, 0, 0, false, false, true, false, false, false, 0x8000010⟩),
    (0x800E99013A407A6244, .pref ⟨true, 0, .zero, .v 1, .zero, .zero, .d, 1, 0, false, false, true, false, false, true, 0x80⟩),
    (0x1000E9A013A207A5E45, .cctl ⟨false, 7, .zero, .s 1, .imm, .zero, .d, 1, 0, false, false, true, false, true, false, 0x100⟩)] = true := by decide +kernel

theorem test_decode_groupA : decodes [
    (0x120000040E9B3040C0805E80, .atom ⟨false, 7, .v 1, .v 2, .v 3, .zero, .w, 0, 3, false, false, true, false, true, true, 0x12000004⟩),
    (0x1000000084C1020E0A04E81, .acas ⟨false, 3, .s 1, .s 2, .s 3, .s 4, .d, 0, 1, false, false, true, true, false, false, 0x1000000⟩),
    (0x10000400E9D2040C0BA5E82, .red ⟨false, 7, .zero, .v 2, .v 3, .zero, .w, 0, 2, false, false, true, true, false, true, 0x1000040⟩),
    (0xE9E363A7A7A5E83, .fence ⟨false, 7, .zero, .zero, .zero, .zero, .d, 6, 3, false, false, true, true, true, false, 0x0⟩),
    (0x4007F007A41B0FA84, .waitv ⟨true, 6, .p 3, .v 6, .zero, .v 7, .w, 0, 0, false, false, true, true, true, true, 0x4⟩)] = true := by decide +kernel

theorem test_decode_groupB : decodes [
    (0x4000D30022220A11EC0, .cpy ⟨false, 7, .s 4, .s 2, .s 8, .w 3, .d, 2, 0, false, false, false, false, false, false, 0x400⟩),
    (0x8000DF1822220A11EC1, .cpym ⟨false, 7, .s 4, .s 2, .s 8, .w 15, .d, 2, 0, false, true, false, false, false, true, 0x800⟩),
    (0x7FFFFF80D02042220BA4AC2, .cpyr ⟨false, 2, .zero, .s 2, .s 8, .w 0, .d, 4, 0, false, false, false, false, true, false, 0x7FFFFF8⟩),
    (0xE93003A74805EC3, .wmrd ⟨false, 7, .v 1, .w 2, .zero, .zero, .d, 0, 0, false, false, false, false, true, true, 0x0⟩),
    (0x2000E94003A34B05EC4, .wmwait ⟨false, 7, .p 1, .w 2, .imm, .zero, .d, 0, 0, false, false, false, true, false, false, 0x200⟩),
    (0xE95003A74A076C5, .cpyq ⟨true, 5, .s 1, .w 2, .zero, .zero, .d, 0, 0, false, false, false, true, false, true, 0x0⟩),
    (0xE96003A74B05EC6, .cpyc ⟨false, 7, .p 1, .w 2, .zero, .zero, .d, 0, 0, false, false, false, true, true, false, 0x0⟩),
    (0xE97003A60A05EC7, .jobsub ⟨false, 7, .s 1, .s 2, .zero, .zero, .d, 0, 0, false, false, false, true, true, true, 0x0⟩)] = true := by decide +kernel

theorem test_decode_groupC : decodes [
    (0x100E980220603A4700, .binit ⟨false, 1, .zero, .s 0, .s 1, .zero, .d, 2, 0, false, false, true, false, false, false, 0x10⟩),
    (0xE99833A60015F01, .barr ⟨false, 7, .v 5, .s 0, .zero, .zero, .d, 3, 0, false, true, true, false, false, true, 0x0⟩),
    (0x86A123A60215F02, .barrx ⟨false, 7, .s 5, .s 0, .zero, .s 6, .d, 2, 1, false, false, true, false, true, false, 0x0⟩),
    (0xE9B02216021F303, .bwait ⟨true, 4, .s 7, .s 0, .s 5, .zero, .d, 2, 0, false, false, true, false, true, true, 0x0⟩),
    (0xFFFFF00E9C03216001DF04, .btest ⟨false, 7, .v 7, .s 0, .s 5, .zero, .d, 3, 0, false, false, true, true, false, false, 0xFFFFF0⟩),
    (0xE9D003A7A405F05, .cjoin ⟨false, 7, .v 1, .zero, .zero, .zero, .d, 0, 0, false, false, true, true, false, true, 0x0⟩),
    (0xE9E003A7A604306, .cleave ⟨false, 0, .s 1, .zero, .zero, .zero, .d, 0, 0, false, false, true, true, true, false, 0x0⟩),
    (0x70E9F803A7A005F07, .cgen ⟨false, 7, .v 1, .imm, .zero, .zero, .d, 0, 0, false, true, true, true, true, true, 0x7⟩),
    (0xE90003A40791F08, .qsend ⟨false, 7, .q 4, .v 1, .zero, .zero, .d, 0, 0, false, false, false, false, false, false, 0x0⟩),
    (0xE91003A78006F09, .qrecv ⟨true, 3, .v 1, .q 0, .zero, .zero, .d, 0, 0, false, false, false, false, false, true, 0x0⟩),
    (0xE92013A79F05F0A, .qpeek ⟨false, 7, .p 1, .q 7, .zero, .zero, .d, 1, 0, false, false, false, false, true, false, 0x0⟩),
    (0xFFFFFFFE0E930000807A5F0B, .spawn ⟨false, 7, .zero, .v 1, .v 2, .zero, .d, 0, 0, false, false, false, false, true, true, 0xFFFFFFFE⟩),
    (0xC34003A40805B0C, .steal ⟨false, 6, .v 1, .v 2, .zero, .p 3, .d, 0, 0, false, false, false, true, false, false, 0x0⟩),
    (0xE95003A40B05F0D, .synct ⟨false, 7, .p 1, .v 2, .zero, .zero, .d, 0, 0, false, false, false, true, false, true, 0x0⟩)] = true := by decide +kernel

theorem test_decode_groupD : decodes [
    (0x660C868004023C1F40, .mma ⟨false, 7, .a 0, .v 8, .v 16, .c 0, .d, 0, 0, false, true, false, true, true, false, 0x66⟩),
    (0x120660C870004023C6B41, .mmas ⟨true, 2, .a 1, .v 8, .v 16, .c 0, .d, 0, 0, false, false, false, true, true, true, 0x12066⟩),
    (0x600C0C880004023C1F42, .mmaq ⟨false, 7, .a 0, .v 8, .v 16, .c 0, .d, 0, 0, false, false, true, false, false, false, 0x600C⟩),
    (0x660C895024023C9F43, .mmam ⟨false, 7, .a 2, .v 8, .s 16, .c 0, .d, 0, 1, true, false, true, false, false, true, 0x66⟩)] = true := by decide +kernel

theorem test_decode_groupE : decodes [
    (0xE9A003A7A7CD780, .accz ⟨false, 5, .a 3, .zero, .zero, .zero, .d, 0, 0, false, false, true, false, true, false, 0x0⟩),
    (0xE9B703A463C1F81, .accsc ⟨false, 7, .a 0, .v 24, .zero, .zero, .d, 0, 3, true, false, true, false, true, true, 0x0⟩),
    (0xE9C003A467C1F82, .accx ⟨false, 7, .a 0, .v 25, .zero, .zero, .d, 0, 0, false, false, true, true, false, false, 0x0⟩),
    (0x1010E9D003A7C07A783, .accrd ⟨true, 1, .v 30, .a 0, .zero, .zero, .d, 0, 0, false, false, true, true, false, true, 0x101⟩),
    (0x3380E9E003A47BC1F84, .accwr ⟨false, 7, .a 0, .v 30, .zero, .zero, .d, 0, 0, false, false, true, true, true, false, 0x338⟩),
    (0xF300E9F00207C3A5F85, .accst ⟨false, 7, .zero, .a 0, .s 1, .zero, .d, 0, 0, false, false, true, true, true, true, 0xF30⟩),
    (0x3F000E90003A607C1386, .accld ⟨false, 4, .a 0, .s 1, .zero, .zero, .d, 0, 0, false, false, false, false, false, false, 0x3F00⟩),
    (0x10000E910020BA205F87, .obres ⟨false, 7, .s 1, .imm, .s 2, .zero, .d, 0, 0, false, false, false, false, false, true, 0x1000⟩),
    (0xE92003A607A5F88, .obrel ⟨false, 7, .zero, .s 1, .zero, .zero, .d, 0, 0, false, false, false, false, true, false, 0x0⟩),
    (0x1000E930000A07A6389, .obwr ⟨true, 0, .zero, .s 1, .v 2, .zero, .d, 0, 0, false, false, false, false, true, true, 0x100⟩),
    (0xE94803A6040DF8A, .obrd ⟨false, 7, .v 3, .s 1, .zero, .zero, .d, 0, 0, false, true, false, true, false, false, 0x0⟩)] = true := by decide +kernel

theorem test_decode_manual_words : decodes [
    (0x12C0E98407A01024800, .iadd ⟨false, 2, .v 9, .v 4, .imm, .zero, .w, 0, 0, true, false, true, false, false, false, 0x12C⟩),
    (0xE90003A7A7A5DC9, .nop ⟨false, 7, .zero, .zero, .zero, .zero, .d, 0, 0, false, false, false, false, false, false, 0x0⟩),
    (0xC20220100F05C80, .icmp ⟨false, 7, .p 1, .v 3, .v 4, .p 2, .d, 2, 2, false, false, false, false, false, false, 0x0⟩),
    (0x10E90463A4080DD00, .fcvt ⟨false, 7, .v 3, .v 2, .zero, .zero, .d, 6, 0, true, false, false, false, false, false, 0x1⟩),
    (0xC90030141018580, .perm ⟨false, 1, .v 6, .v 4, .v 5, .c 1, .d, 3, 0, false, false, false, false, false, false, 0x0⟩),
    (0x30E90003A7A7A45C0, .bra ⟨false, 1, .zero, .zero, .zero, .zero, .d, 0, 0, false, false, false, false, false, false, 0x3⟩),
    (0xC80003A7A7A5E01, .sign ⟨false, 7, .zero, .zero, .zero, .c 0, .d, 0, 0, false, false, false, false, false, false, 0x0⟩),
    (0x40000080E90127A40814640, .ld ⟨false, 1, .v 5, .v 2, .zero, .zero, .w, 2, 1, false, false, false, false, false, false, 0x4000008⟩),
    (0x40000040E91107A41811E40, .ld ⟨false, 7, .v 4, .v 6, .zero, .zero, .w, 0, 1, false, false, false, false, false, true, 0x4000004⟩),
    (0x10080E90006220FA5E41, .st ⟨false, 7, .zero, .s 3, .s 8, .zero, .w, 0, 0, false, false, false, false, false, false, 0x1008⟩),
    (0x100020000E90023A7A421E42, .ldm ⟨false, 7, .v 8, .zero, .zero, .zero, .d, 2, 0, false, false, false, false, false, false, 0x10002000⟩),
    (0x40070007A41B0DE84, .waitv ⟨false, 7, .p 3, .v 6, .zero, .v 7, .w, 0, 0, false, false, false, false, false, false, 0x4⟩),
    (0x4000D30022220A11EC0, .cpy ⟨false, 7, .s 4, .s 2, .s 8, .w 3, .d, 2, 0, false, false, false, false, false, false, 0x400⟩),
    (0x660C808004023C1F40, .mma ⟨false, 7, .a 0, .v 8, .v 16, .c 0, .d, 0, 0, false, true, false, false, false, false, 0x66⟩),
    (0x600C0C800004023C1F42, .mmaq ⟨false, 7, .a 0, .v 8, .v 16, .c 0, .d, 0, 0, false, false, false, false, false, false, 0x600C⟩),
    (0xE90003A467C1F82, .accx ⟨false, 7, .a 0, .v 25, .zero, .zero, .d, 0, 0, false, false, false, false, false, false, 0x0⟩)] = true := by decide +kernel


/-- The check that refuses a word. -/
def refusedBy (w : Word96) (e : EncFault) : Bool :=
  match decode w with
  | .error x => x == e
  | .ok _ => false

theorem test_bad_words_refused :
    refusedBy 0 .illegalOperand ∧ refusedBy 0x3FF .illegalOpcode ∧ refusedBy (BitVec.ofNat 96 (0xE900000C0805C00 + 2 ^ 60)) .reservedBits ∧
      refusedBy (BitVec.ofNat 96 0xEA00000C0805C00) .illegalOperand := by decide +kernel

/-! ### Worked examples of the manual, each one step -/

/-- All 32 threads of the one weave, at slot 0. -/
def grp : Group := { members := [(0, BitVec.allOnes 32)], pc := 0 }

/-- A machine whose one group is about to execute what it is given. -/
def base : State := { State.reset.withFetchWord 96 0 with drawn := none, issuing := some grp }

/-- `s` with a v register set in every lane. -/
def setV (s : State) (n : Nat) (x : Word64) : State := s.changeWeave 0 fun w => w.vwrite n (BitVec.allOnes 32) fun _ => x

/-- `s` with a v register set lane by lane. -/
def setLanes (s : State) (n : Nat) (x : Nat → Word64) : State := s.changeWeave 0 fun w => w.vwrite n (BitVec.allOnes 32) x

def setS (s : State) (n : Nat) (x : Word64) : State := s.changeWeave 0 fun w => w.swrite n x

def setP (s : State) (n : Nat) (x : Mask) : State := s.changeWeave 0 fun w => w.pwrite n (BitVec.allOnes 32) fun l => x.getLsbD l

def setMem (s : State) (a n x : Nat) : State := { s with mem := Memory.writeBytes s.mem a (bytesOfNat n x) }

/-- The state after the instruction of a word. -/
def run (word : Nat) (s : State) : State :=
  match decodeTableWord 96 word with
  | some i => match exec i s with
    | .next t => { t with issuing := some grp }
    | _ => s
  | none => s

/-- The value of a v register in lanes 0 and 31. -/
def vIs (s : State) (n : Nat) (x : Word64) : Bool := (s.weave 0).vread n 0 == x && (s.weave 0).vread n 31 == x

theorem test_integers :
    vIs (run 0x12C0E98407A01024800 (setP (setV base 4 0x7FFFFFFF00000005) 2 (BitVec.allOnes 32))) 9 0x7FFFFFFF00000131 = true ∧
      vIs (run 0xE9000408040DC07 (setV (setV base 1 0x8000000000000007) 2 0xFFFFFFFF00000000)) 3 0x80000000FFFFFFFF = true ∧
      vIs (run 0xE9000408040DC07 (setV (setV base 1 0xFFFFFFF9FFFFFFF9) 2 0x0000000200000002)) 3 0xFFFFFFFDFFFFFFFD = true ∧
      vIs (run 0xE9000408040DC08 (setV (setV base 1 0xFFFFFFF9FFFFFFF9) 2 0x0000000200000002)) 3 0xFFFFFFFFFFFFFFFF = true := by decide +kernel

theorem test_carry_chain :
    (let t := run 0xC10000080011C0D (setP (setV (setV base 0 0xFFFFFFFFFFFFFFFF) 2 1) 1 0);
      vIs t 4 0 && (t.weave 0).pread 1 5) = true := by decide +kernel

theorem test_byte_permute :
    vIs (run 0x3000008041DC50 (setV (setV (setV base 1 0x0706050403020100) 2 0x0F0E0D0C0B0A0908) 3 0x10000F0807060100)) 7
      0x00000F0807060100 = true := by decide +kernel

theorem test_shifts :
    vIs (run 0xE9000C08040DC45 (setV (setV base 1 0x80FF018080FF0180) 2 0x0102030908070605)) 3 0xC03F000080FF0008 = false ∧
      vIs (run 0xE9000408040DC47 (setV (setV base 1 0x8000000080000000) 2 0x0000002000000004)) 3 0xFFFFFFFFF8000000 = true ∧
      vIs (run 0xE9000408040DC46 (setV (setV base 1 0x8000000080000000) 2 0x0000002000000004)) 3 0x0000000008000000 = true := by decide +kernel

theorem test_cvti :
    vIs (run 0x40E9043BA41419C88 (setV (setV base 5 0x00078000FFFB012C) 6 0x1122334455667788)) 6 0x0780FB7F55667788 = true ∧
      vIs (run 0x40E9003BA41419C88 (setV (setV base 5 0x00078000FFFB012C) 6 0x1122334455667788)) 6 0x0700FB2C55667788 = true := by decide +kernel

theorem test_fcvt :
    vIs (run 0x10E90063A4080DD00 (setV (setV base 2 0x43E8800042C80000) 3 0xAAAAAAAAAAAAAAAA)) 3 0xAAAAAAAAAAAA7F6C = true ∧
      vIs (run 0x10E90463A4080DD00 (setV (setV base 2 0x43E8800042C80000) 3 0xAAAAAAAAAAAAAAAA)) 3 0xAAAAAAAAAAAA7E6C = true := by decide +kernel

theorem test_exponents :
    vIs (run 0xE9000424201DD0C (setV (setV base 8 0x0000000300000003) 9 0x0000000042200000)) 7 0x0000000300000005 = true ∧
      vIs (run 0xE90004283031D0D (setV (setV base 12 0x4140000041400000) 10 0x00000000FFFFFFFE)) 12 0x4140000040400000 = true := by decide +kernel

theorem test_floats :
    vIs (run 0xE9000408040DCC0 (setV (setV base 1 0x4B8000003F800000) 2 0x3F8000003F800000)) 3 0x4B80000040000000 = true ∧
      vIs (run 0xE9000408040DCC0 (setV (setV base 1 0x7F80000000000000) 2 0xFF80000080000000)) 3 0x7FC0000000000000 = true := by decide +kernel

theorem test_quantisation :
    vIs (run 0xE900D4181015D42 (setV (setV base 4 0xF80D) 6 0x000000083D800000)) 5 0xBF0000003EA00000 = true ∧
      vIs (run 0x20E900D4181015D42 (setV (setV base 4 0xF80D) 6 0x000000083D800000)) 5 0x3EE0000000000000 = true := by decide +kernel

theorem test_sparse_groups :
    (let t := run 0x4080C08040DD43 (setV (setV base 1 0x00F700FE00000500) 2 0x0000000003000700);
      vIs t 3 0x000000000307F705 && vIs t 4 0xB961) = true ∧
      (let t := run 0x6000C100C15D44 (setV (setV base 3 0x000000000307F705) 4 0xB961);
      vIs t 5 0x00F7000000000500 && vIs t 6 0x0000000003000700) = true := by decide +kernel

/-- A team whose register c0 is bound to all lanes of its weave. -/
def bound (s : State) (m : Mask) : State := s.setConv 0 0 { hweave := 0, members := m }

/-- The weave of R161: four threads, their v2 being 5, 1, 2 and 3, and p3 false in lane 2. -/
def four : State :=
  let g : Group := { members := [(0, 0xF)], pc := 0 }
  let s := setP (setLanes (bound base 0xF) 2 fun l => [5, 1, 2, 3].getD l 0) 3 0xB
  { s with issuing := some g }.changeWeave 0 fun w => { w with live := 0xF }

theorem test_reduce_and_scan :
    (let t := run 0xC80003A4081CD84 four;
      (List.range 4).map (fun l => (t.weave 0).vread 7 l) == [9, 9, 0, 9] && (t.conv 0 0).gen == 1) = true ∧
      (let t := run 0xC80003A40820D85 four;
      (List.range 4).map (fun l => (t.weave 0).vread 8 l) == [5, 6, 0, 9]) = true ∧
      (let t := run 0xC80803A40824D85 four;
      (List.range 4).map (fun l => (t.weave 0).vread 9 l) == [0, 5, 0, 6]) = true := by decide +kernel

/-- The weave of R155: lanes 0 to 19 launched, lane 3 gone, lane 7 outside the set. -/
def twenty : State :=
  let g : Group := { members := [(0, 0xFFF77)], pc := 0 }
  let s := base.changeWeave 0 fun w => { w with live := 0xFFFF7 }
  let s := setP (setLanes (setLanes s 4 fun l => BitVec.ofNat 64 (100 + l)) 5 fun l => BitVec.ofNat 64 ((l + 1) % 32 * 8)) 1 0xFFFFFFDF
  { s.setConv 0 1 { hweave := 0, members := 0xFFF77 } with issuing := some g }

theorem test_permute_lanes :
    (let t := run 0xC90030141018580 twenty;
      let v := fun l => (t.weave 0).vread 6 l;
      let p := fun l => (t.weave 0).pread 2 l;
      v 0 == 101 && v 2 == 0 && v 4 == 105 && v 5 == 0 && v 6 == 0 && v 18 == 119 && v 19 == 0 &&
        !p 0 && p 2 && !p 4 && !p 5 && p 6 && p 19 && (t.conv 0 1).gen == 1) = true := by decide +kernel

theorem test_branches :
    (let t := run 0x30E90003A7A7A45C0 { setP base 1 0xFFFF with issuing := some { grp with pc := 11 } };
      t.groups.map fun h => (h.pc, h.members)) = [(14, [(0, 0xFFFF)]), (12, [(0, 0xFFFF0000)])] ∨
    (let t := run 0x30E90003A7A7A45C0 { setP base 1 0xFFFF with issuing := some { grp with pc := 11 } };
      t.groups.map fun h => (h.pc, h.members)) = [(12, [(0, 0xFFFF0000)]), (14, [(0, 0xFFFF)])] := by decide +kernel

/-- A machine with a handler at slot 4 and its trap frames at 0x108000, on the page that the code stands on. -/
def handled (s : State) : State := s.changeSub 0 fun m => { m with handler := some 4, fbase := 0x108000 }

/-- The lanes 0 to 7 of the weave at slot 40, with p2 in lanes 0 to 3 (R170's example, as weave 0 of team 0). -/
def eight : State := { setP (handled base) 2 0xF with issuing := some { members := [(0, 0xFF)], pc := 40 } }

theorem test_trap :
    (let t := run 0x2A0E90003A7A7A49C7 eight;
      let w := t.weave 0;
      w.trapCause == 0x12 && w.trapPc == 40 && w.trapAddr == 0x2A && w.trapLanes == 0xF && w.handler && w.held == 0xFFFFFF00) = true ∧
      (let t := run 0x2A0E90003A7A7A49C7 eight;
      t.groups.any fun h => h.pc == 4 && h.members == [(0, 0xFF)]) = true := by decide +kernel

theorem test_trapret :
    (let t := run 0xE90013A7A7A5E07 { run 0x2A0E90003A7A7A49C7 eight with issuing := some { members := [(0, 0xFF)], pc := 4 } };
      t.groups.any (fun h => h.pc == 41 && h.members == [(0, 0xFF)]) && !(t.weave 0).handler && (t.weave 0).held == 0) = true := by decide +kernel

/-- Three lanes of a kernel with 4,096 bytes of scratchpad (R193's example). -/
def three : State :=
  let s := setV (setLanes (handled base) 2 fun l => [4092, 4094, 4096].getD l 0) 5 7
  let s := s.changeSub 0 fun m => { m with kernel := some { fetchKernel with scratch := 4096 } }
  { s with issuing := some { members := [(0, 7)], pc := 0 } }

theorem test_misaligned_load :
    (let w := (run 0xE90027A40815E40 three).weave 0;
      w.trapCause == 0x07 && w.trapLanes == 2 && w.trapAddr == 4094 && w.vread 5 0 == 7) = true := by decide +kernel

theorem test_atomic_in_lane_order :
    (let t := run 0x20000000E900040E0819E80 (setLanes (setMem (setS { base with issuing := some { members := [(0, 0xF)], pc := 0 } } 2 0x101000) 0x101000 4 10) 3
        fun l => BitVec.ofNat 64 (l + 1));
      (List.range 4).map (fun l => (t.weave 0).vread 6 l) == [10, 11, 13, 16] && t.byteAt 0 0x101000 == 20) = true := by decide +kernel

theorem test_barrier :
    (let s := setS (setS base 0 0x100) 1 2;
      let t := run 0xE900220603A5F00 s;
      let b := t.barrier (onChip .scratch 0 + 0x100);
      b == { gen := 0, pending := 2, expected := 2, inbound := 0, outbound := 0, flags := 1 }) = true ∧
      (let s := run 0xE900220603A5F00 (setS (setS (setS base 0 0x100) 1 2) 6 512);
      let t := run 0x860023A60215F02 s;
      let b := t.barrier (onChip .scratch 0 + 0x100);
      b.pending == 1 && b.inbound == 4 && (t.weave 0).sread 5 == 0) = true := by decide +kernel

/-- The tile a0 of R252's example before its ACCX, in rows 0 and 1, and the exponents in v25. -/
def tile : State :=
  let s := base.changeTeam 0 fun m => { m with tiles := (List.range 128).map fun k => (k, if k < 64 then 0x42000000 else 0x41C00000) }
  setV s 25 0x00000001FFFFFFFF

theorem test_accx :
    (let t := run 0xE90003A467C1F82 tile;
      ((t.team 0).row 0 0).getD 63 0 == 0x41800000 && ((t.team 0).row 0 1).getD 0 0 == 0x42400000) = true := by decide +kernel

theorem test_accrd :
    vIs (run 0x10E90003A7C079F83 tile) 30 0x41C0000041C00000 = true := by decide +kernel

/-- A walk of R391's example: five tables, and a leaf in the last. -/
def tables : State :=
  let root := 0x4000000000
  let s := State.reset.changeFn 0 fun f => { f with troot := BitVec.ofNat 64 (root + 1) }
  let entry := fun (n : Nat) => n + 1
  let s := setMem s (root + 0x008) 8 (entry 0x10000)
  let s := setMem s (0x10000 + 0x020) 8 (entry 0x20000)
  let s := setMem s (0x20000 + 0x818) 8 (entry 0x30000)
  let s := setMem s (0x30000 + 0x028) 8 (entry 0x40000)
  setMem s (0x40000 + 0x018) 8 0x0000012345600487

theorem test_walk :
    (match tables.walk 0 0x00010240C0A32108 with
      | (.leaf tr, _) => tr.pa 0x00010240C0A32108 == 0x0000012345602108 && tr.attr == 1 && tr.canRead && tr.canWrite && !tr.canExec
      | _ => false) = true := by decide +kernel

/-! ### Premises of the statements, met at concrete states and operands -/

/-- Every instruction of the list reaches its effect when it issues. -/
def allIssue (s : State) (l : List Instr) : Bool := l.all fun i => s.issues i grp

/-- The members of a set bound to c0 and to c1. -/
def sets : State := { (bound base (BitVec.allOnes 32)).setConv 0 1 { hweave := 0, members := BitVec.allOnes 32 } with issuing := some grp }

/-- The places at which the accesses of an instruction pass every check. -/
def placesOf (s : State) (g : Group) (space align : Nat) (need : Need) (loggable : Bool) (accs : List Access) : List (Access × Place) :=
  match s.checkAccesses (s.site g.team) space align need loggable g.pc accs with
  | .pass _ l => l
  | _ => []

/-- They do pass. -/
def doPass (s : State) (g : Group) (space align : Nat) (need : Need) (loggable : Bool) (accs : List Access) : Bool :=
  (s.core (s.team g.team).core).sideLog.isEmpty &&
    match s.checkAccesses (s.site g.team) space align need loggable g.pc accs with
    | .pass t _ => t.reportsFit
    | _ => false

/-- A release finds nothing to wait for. -/
def gatePasses (s : State) (f : Fields) : Bool :=
  match s.gate grp f with
  | .pass => true
  | _ => false

theorem passes_placesOf {s : State} {g : Group} {space align : Nat} {need : Need} {loggable : Bool} {accs : List Access}
    (h : doPass s g space align need loggable accs = true) :
    s.passes g space align need loggable accs (placesOf s g space align need loggable accs) := by
  rw [doPass, Bool.and_eq_true] at h
  refine ⟨List.isEmpty_iff.mp h.1, ?_⟩
  have hp := h.2
  unfold placesOf
  split at hp
  · rename_i t l hc
    exact ⟨t, hc, hp⟩
  · simp at hp

set_option maxRecDepth 20000 in
theorem sets_unplaced : sets.unplace 0 (BitVec.allOnes 32) = sets := by rfl

/-- The rest of what completing a set asks, where the set's members stand nowhere else. -/
def completesAlone (s : State) (i : Instr) (f : Fields) (g : Group) : Bool :=
  let c := s.conv g.team ((convNamed f.c).getD 0)
  s.maySign i g && i.fields == some f && (Map.find s.weaves (weaveUid g.team c.hweave.toNat false)).isSome &&
    weaveUid g.team c.hweave.toNat false == 0 && c.members == BitVec.allOnes 32 &&
    match s.sign g ((convNamed f.c).getD 0) with
    | .issue t whole => t.clears i whole
    | .hold _ => false

theorem completesSet_of {s : State} {i : Instr} {f : Fields} {g : Group} (hu : s.unplace 0 (BitVec.allOnes 32) = s)
    (h : completesAlone s i f g = true) : s.completesSet i f g = true := by
  simp only [completesAlone, Bool.and_eq_true, beq_iff_eq] at h
  obtain ⟨⟨⟨⟨⟨h1, h2⟩, h3⟩, h4⟩, h5⟩, h6⟩ := h
  simp only [State.completesSet, Bool.and_eq_true, h4, h5, hu, decide_true, and_true, beq_iff_eq]
  exact ⟨⟨⟨h1, h2⟩, h4 ▸ h3⟩, h6⟩

theorem witness_issues_group0 : allIssue base [
    .iadd (wordFields 0x12C0E90407A01024000),
    .isub (wordFields 0xE914120A060DC01),
    .iadds (wordFields 0xC220180C0805C02),
    .isubs (wordFields 0xFFFFFFFE0C7340C0FA006C03),
    .imul (wordFields 0xE94016FC01FDC04),
    .imulh (wordFields 0xE950181C1815C05),
    .imad (wordFields 0x7F008640FA01815806),
    .idiv (wordFields 0xE970161A1611C07),
    .irem (wordFields 0xE9800C181411C08),
    .imin (wordFields 0xE9901BA41412809),
    .imax (wordFields 0xE9A0001817A5C0A),
    .iabs (wordFields 0xE9B407A42421C0B),
    .ineg (wordFields 0xE9C00FA6262140C),
    .iaddc (wordFields 0xC1D010080011C0D),
    .lea (wordFields 0x400E8E0F0080011C0E),
    .idot (wordFields 0x6F43C08001240F)] = true := by decide +kernel

theorem witness_issues_group1 : allIssue base [
    .andOp (wordFields 0xFF0E90003A00805C40),
    .orOp (wordFields 0xE910060E0A05C41),
    .xorOp (wordFields 0xE920080C0805042),
    .andn (wordFields 0xE9300C0C0805C43),
    .notOp (wordFields 0xE94003A40805C44),
    .shl (wordFields 0x1F0E95007A00806045),
    .shr (wordFields 0xE960080C0805C46),
    .sar (wordFields 0xE9700C0C0805C47),
    .rot (wordFields 0x210E98003A20A04C48),
    .fshr (wordFields 0x490040C0805C49),
    .popc (wordFields 0xE9A00BA40805C4A),
    .clz (wordFields 0xE9B00FA4080784B),
    .ctz (wordFields 0xE9C007A60A05C4C),
    .brev (wordFields 0xE9D003A40805C4D),
    .bfx (wordFields 0x8040E9E017A4080484E),
    .bfi (wordFields 0xC080E9F0080C0805C4F),
    .prmb (wordFields 0x3000008041DC50)] = true := by decide +kernel

theorem witness_issues_group2 : allIssue base [
    .icmp (wordFields 0xC21220100F07480),
    .sel (wordFields 0x70C32003A00805C81),
    .mov (wordFields 0xE93007A60805C82),
    .movSubelement (wordFields 0x20E9483BA41814482),
    .movi (wordFields 0xDEADBEEF0E95803A7A405C83),
    .movs (wordFields 0x50E96003A00A05C84),
    .movv (wordFields 0xE978020C0807085),
    .pset (wordFields 0x10E98033A30B05C86),
    .pmov (wordFields 0x7F0E99803A00BA5C87),
    .cvti (wordFields 0x10E9AC67A40804088)] = true := by decide +kernel

theorem witness_issues_group3 : allIssue base [
    .fadd (wordFields 0xE9B7040C0805CC0),
    .fsub (wordFields 0x3F8000000E9C103A00805CC1),
    .fmul (wordFields 0xE9D6180C0806CC2),
    .ffma (wordFields 0x4E0080C0805CC3),
    .fmin (wordFields 0xE9F0040C0805CC4),
    .fmax (wordFields 0xE900020E0A058C5),
    .fcmp (wordFields 0xE919040C0B05CC6),
    .fclass (wordFields 0xE9201BA40805CC7),
    .fdot2 (wordFields 0x437180C08068C8)] = true := by decide +kernel

theorem witness_issues_group4 : allIssue base [
    .fcvt (wordFields 0x10E94463A4080DD00),
    .frnd (wordFields 0xE95307A40805D01),
    .ftoi (wordFields 0xE96903A40805502),
    .itof (wordFields 0xE97E1BA40805D03),
    .frcp (wordFields 0xE98407A40805D04),
    .frsq (wordFields 0xE99003A40806505),
    .fsqrt (wordFields 0xE9A507A40805D06),
    .fexp2 (wordFields 0xE9B407A40805D07),
    .flog2 (wordFields 0xE9C00BA40805108),
    .fsin (wordFields 0xE9D007A40805D09),
    .fcos (wordFields 0xE9E01BA40805D0A),
    .ftanh (wordFields 0xE9F007A4080610B),
    .xmax (wordFields 0xE900040C0805D0C),
    .xscale (wordFields 0x40E9170BA00805D0D),
    .xsplit (wordFields 0x32003A40804D0E)] = true := by decide +kernel

theorem witness_issues_group5 : allIssue base [
    .qpack (wordFields 0x60E935940C0805D40),
    .qunpk (wordFields 0x100E948F3A40805D41),
    .qdeq (wordFields 0x20E950E4181017942),
    .spsel (wordFields 0x4680C08040DD43),
    .spexp (wordFields 0x6702C100C15D44)] = true := by decide +kernel

theorem witness_issues_group6 : allIssue base [
    .perm (wordFields 0xC98030141018980),
    .bcast (wordFields 0x2A0CF9007A01019D81),
    .shfl (wordFields 0xFFFFFFFF0C8AB7A041019D82),
    .vote (wordFields 0xCBB023A70B07583),
    .reduce (wordFields 0xC8C797A40A05D84),
    .scan (wordFields 0xC8D803A40825D85),
    .matchOp (wordFields 0xC8E00FA40804586)] = true := by decide +kernel

theorem witness_issues_group7 : allIssue base [
    .bra (wordFields 0x30E9F003A7A7A5DC0),
    .brx (wordFields 0xE90003A607A5DC1),
    .call (wordFields 0xFFFFFFFF0E91003A7A4071C2),
    .callx (wordFields 0xE92003A40805DC3),
    .ret (wordFields 0xE93003A407A5DC4),
    .exit (wordFields 0xE94003A7A7A41C5),
    .reform (wordFields 0x80E95803A7A7A5DC6),
    .trap (wordFields 0x123456780E96003A7A7A5DC7),
    .bpt (wordFields 0x90E97003A7A7A6DC8),
    .nop (wordFields 0xE98003A7A7A5DC9)] = true := by decide +kernel

theorem witness_issues_group8 : allIssue base [
    .conv (wordFields 0xFFFF0E99003A7A329E00),
    .sign (wordFields 0xC8A003A7A7A5A01),
    .pdis (wordFields 0xE9B803A7A7A5E02),
    .pen (wordFields 0xE9C003A7A7A5E03),
    .syield (wordFields 0xE9D003A7A7A6A04),
    .getsys (wordFields 0x80E9E003A7A405E05),
    .setsys (wordFields 0x120E9F003A607A5E06),
    .trapret (wordFields 0xE90013A7A7A5607),
    .icpref (wordFields 0x100E91013A207A5E08),
    .icpin (wordFields 0xE920020A0705E09),
    .icunpin (wordFields 0xE930120A07A660A),
    .ckreq (wordFields 0xE94003A7A705E0B)] = true := by decide +kernel

theorem witness_issues_group9 : allIssue base [
    .ld (wordFields 0x40000080E95127A40815E40),
    .st (wordFields 0x2FFFFFF0E9614E200FA5241),
    .ldm (wordFields 0x100020000E97023A7A421E42),
    .stm (wordFields 0x80000100E980002207A5E43),
    .pref (wordFields 0x800E99013A407A6244),
    .cctl (wordFields 0x1000E9A013A207A5E45)] = true := by decide +kernel

theorem witness_issues_groupA : allIssue base [
    .atom (wordFields 0x120000040E9B3040C0805E80),
    .acas (wordFields 0x1000000084C1020E0A04E81),
    .red (wordFields 0x10000400E9D2040C0BA5E82),
    .fence (wordFields 0xE9E363A7A7A5E83),
    .waitv (wordFields 0x4007F007A41B0FA84)] = true := by decide +kernel

theorem witness_issues_groupB : allIssue base [
    .cpy (wordFields 0x4000D30022220A11EC0),
    .cpym (wordFields 0x8000DF1822220A11EC1),
    .cpyr (wordFields 0x7FFFFF80D02042220BA4AC2),
    .wmrd (wordFields 0xE93003A74805EC3),
    .wmwait (wordFields 0x2000E94003A34B05EC4),
    .cpyq (wordFields 0xE95003A74A076C5),
    .cpyc (wordFields 0xE96003A74B05EC6),
    .jobsub (wordFields 0xE97003A60A05EC7)] = true := by decide +kernel

theorem witness_issues_groupC : allIssue base [
    .binit (wordFields 0x100E980220603A4700),
    .barr (wordFields 0xE99833A60015F01),
    .barrx (wordFields 0x86A123A60215F02),
    .bwait (wordFields 0xE9B02216021F303),
    .btest (wordFields 0xFFFFF00E9C03216001DF04),
    .cjoin (wordFields 0xE9D003A7A405F05),
    .cleave (wordFields 0xE9E003A7A604306),
    .cgen (wordFields 0x70E9F803A7A005F07),
    .qsend (wordFields 0xE90003A40791F08),
    .qrecv (wordFields 0xE91003A78006F09),
    .qpeek (wordFields 0xE92013A79F05F0A),
    .spawn (wordFields 0xFFFFFFFE0E930000807A5F0B),
    .steal (wordFields 0xC34003A40805B0C),
    .synct (wordFields 0xE95003A40B05F0D)] = true := by decide +kernel

theorem witness_issues_groupD : allIssue base [
    .mma (wordFields 0x660C868004023C1F40),
    .mmas (wordFields 0x120660C870004023C6B41),
    .mmaq (wordFields 0x600C0C880004023C1F42),
    .mmam (wordFields 0x660C895024023C9F43)] = true := by decide +kernel

theorem witness_issues_groupE : allIssue base [
    .accz (wordFields 0xE9A003A7A7CD780),
    .accsc (wordFields 0xE9B703A463C1F81),
    .accx (wordFields 0xE9C003A467C1F82),
    .accrd (wordFields 0x1010E9D003A7C07A783),
    .accwr (wordFields 0x3380E9E003A47BC1F84),
    .accst (wordFields 0xF300E9F00207C3A5F85),
    .accld (wordFields 0x3F000E90003A607C1386),
    .obres (wordFields 0x10000E910020BA205F87),
    .obrel (wordFields 0xE92003A607A5F88),
    .obwr (wordFields 0x1000E930000A07A6389),
    .obrd (wordFields 0xE94803A6040DF8A)] = true := by decide +kernel

theorem witness_IndexedAndConvertingMoves :
    (let s := setS base 3 125; s.issues (.movv (wordFields 0xE900020C0809C85)) grp = true ∧ ∀ u ∈ grp.weaves, ∀ l < 32, (s.active grp (wordFields 0xE900020C0809C85) u).getLsbD l = true →
        2 + ((s.weave u).opnd (wordFields 0xE900020C0809C85) (wordFields 0xE900020C0809C85).b l).toNat < (s.env grp).regs ∧ (s.weave u).poisonV.contains (2 + ((s.weave u).opnd (wordFields 0xE900020C0809C85) (wordFields 0xE900020C0809C85).b l).toNat) = false) ∧
      (let s := setS base 3 0; s.issues (.movv (wordFields 0xE908020C0809C85)) grp = true ∧ (wordFields 0xE908020C0809C85).x = true ∧ ∀ u ∈ grp.weaves, ∀ l < 32, (s.active grp (wordFields 0xE908020C0809C85) u).getLsbD l = true →
        2 + ((s.weave u).opnd (wordFields 0xE908020C0809C85) (wordFields 0xE908020C0809C85).b l).toNat < (s.env grp).regs ∧ (s.weave u).poisonV.contains (2 + ((s.weave u).opnd (wordFields 0xE908020C0809C85) (wordFields 0xE908020C0809C85).b l).toNat) = false) ∧
      base.issues (.cvti (wordFields 0x40E9003BA41419C88)) grp = true ∧ cvtiStartOk (wordFields 0x40E9003BA41419C88) = true ∧
      base.issues (.pmov ⟨false, 7, .zero, .v 2, .imm, .zero, .d, 0, 0, false, true, true, false, false, true, 0x7F⟩) grp = true ∧ (wordFields 0x7F0E99803A00BA5C87).x = true := by decide +kernel

theorem witness_ConversionResults :
    base.issues (.fcvt (wordFields 0x610E90063A4080DD00)) grp = true ∧ cvtOk (wordFields 0x610E90063A4080DD00) = true := by decide +kernel

/-- The start position of a quantisation leaves room for its codes (R143). -/
def hasCodes (f : Fields) : Prop :=
  f.imm.toNat % 32 + (if f.x then 16 else f.width.count) ≤ 64 / (if f.t = 15 then 2 else if f.t = 9 ∨ 12 ≤ f.t.toNat ∧ f.t.toNat ≤ 14 then 4 else 8)

theorem witness_QuantisationResults :
    hasCodes (wordFields 0x60E935940C0805D40) ∧ hasCodes (wordFields 0x100E948F3A40805D41) ∧ hasCodes (wordFields 0x20E950E4181017942) := by
  unfold hasCodes
  decide +kernel

theorem witness_QuantisationResults_last :
    base.issues (.qdeq (wordFields 0xE0E900D4181015D42)) grp = true ∧ hasCodes (wordFields 0xE0E900D4181015D42) ∧ ¬hasCodes (wordFields 0xF0E900D4181015D42) := by
  unfold hasCodes
  decide +kernel

theorem witness_QuantisationResults_sparse :
    base.issues (.spsel (wordFields 0x4680C08040DD43)) grp = true ∧
      (let s := setV base 4 0xBA98; s.issues (.spexp (wordFields 0x6000C100C15D44)) grp = true ∧ (wordFields 0x6000C100C15D44).t = 0 ∧ ∀ l < 32, ∀ j < 4,
        elem ((s.weave 0).opnd (wordFields 0x6000C100C15D44) (wordFields 0x6000C100C15D44).b l) 4 j < 12 ∧ (j = 0 ∨ elem ((s.weave 0).opnd (wordFields 0x6000C100C15D44) (wordFields 0x6000C100C15D44).b l) 4 (j - 1) < elem ((s.weave 0).opnd (wordFields 0x6000C100C15D44) (wordFields 0x6000C100C15D44).b l) 4 j)) := by decide +kernel

theorem witness_CrossLaneResults :
    sets.completesSet (.perm (wordFields 0xC80010141019D80)) (wordFields 0xC80010141019D80) grp = true ∧
      sets.completesSet (.bcast (wordFields 0x80C80003A01019D81)) (wordFields 0x80C80003A01019D81) grp = true ∧
      sets.completesSet (.shfl (wordFields 0xC80300141019D82)) (wordFields 0xC80300141019D82) grp = true ∧
      sets.completesSet (.vote (wordFields 0xC80003A70405D83)) (wordFields 0xC80003A70405D83) grp = true ∧
      sets.completesSet (.matchOp (wordFields 0xC80003A40805D86)) (wordFields 0xC80003A40805D86) grp = true ∧
      sets.completesSet (.reduce (wordFields 0xC80003A40805D84)) (wordFields 0xC80003A40805D84) grp = true ∧
      sets.completesSet (.scan (wordFields 0xC80003A40805D85)) (wordFields 0xC80003A40805D85) grp = true := by
  refine ⟨?_, ?_, ?_, ?_, ?_, ?_, ?_⟩ <;> exact completesSet_of sets_unplaced (by decide +kernel)

theorem witness_SignaturesWait :
    (let g : Group := { members := [(0, 0xFFFF)], pc := 0 }; let s := { sets with issuing := some g }; s.maySign (.perm (wordFields 0xC80010141019D80)) g = true ∧
        (match s.sign g 0 with | .hold _ => true | _ => false) = true) := by decide +kernel

theorem witness_ExitVacatesLanes :
    base.issues (.exit (wordFields 0xE90003A7A7A5DC5)) grp = true ∧ (∀ u ∈ grp.weaves, teamOfWeave u = grp.team) ∧ (base.team 0).ended = false ∧ (Map.find base.teams 0).isSome ∧
      (∃ e ∈ base.weaves, teamOfWeave e.1 = 0 ∧ e.2.live &&& ~~~(if e.1 ∈ grp.weaves then base.active grp (wordFields 0xE90003A7A7A5DC5) e.1 else 0) ≠ 0) = False ∧
      (let g : Group := { members := [(0, 0xFFFF)], pc := 0 }; let s := { base with issuing := some g }; s.issues (.exit (wordFields 0xE90003A7A7A5DC5)) g = true ∧
        ∃ e ∈ s.weaves, teamOfWeave e.1 = 0 ∧ e.2.live &&& ~~~(if e.1 ∈ g.weaves then s.active g (wordFields 0xE90003A7A7A5DC5) e.1 else 0) ≠ 0) := by decide +kernel

theorem witness_TrapInstructionsTrap :
    (handled base).issues (.trap (wordFields 0x50E90003A7A7A5DC7)) grp = true ∧ (handled base).represented grp (wordFields 0x50E90003A7A7A5DC7) = [0] ∧ (handled base).mayTrap 0 = true ∧
      (handled base).issues (.bpt (wordFields 0x50E90003A7A7A5DC8)) grp = true := by decide +kernel

theorem witness_TrapEntry :
    (handled base).mayTrap 0 = true ∧ (handled base).reportsFit = true ∧ (0xF : Mask) &&& ((handled base).weave 0).live ≠ 0 ∧
      (Map.find base.weaves 0).isSome ∧ (base.sub 0).handler = none ∧ base.hasRoom 0 = true ∧ (base.gang 0).state ≠ .parked ∧ (Map.find base.gangs 0).isSome := by decide +kernel

/-- The handler of a trap that was taken. -/
def inHandler : State := { run 0x50E90003A7A7A5DC7 (handled base) with issuing := some grp, groups := [] }

theorem witness_TrapReturn :
    inHandler.issues (.trapret (wordFields 0xE90013A7A7A5E07)) grp = true ∧ inHandler.represented grp (wordFields 0xE90013A7A7A5E07) = [0] ∧ (inHandler.weave 0).handler = true ∧
      (match inHandler.readFrame 0 0 (BitVec.allOnes 32) 0 with | .ok (bs, _) => !frameBad bs | .error _ => false) = true := by decide +kernel

theorem witness_SystemRegisterReads :
    ∀ sel ∈ [0x00, 0x01, 0x02, 0x03, 0x04, 0x05, 0x06, 0x08, 0x09, 0x10, 0x11, 0x12, 0x13, 0x18, 0x19, 0x1A, 0x1B, 0x1C, 0x1D, 0x1E],
        base.issues (.getsys { wordFields 0xE90003A7A405E05 with imm := BitVec.ofNat 32 sel }) grp = true ∧
      ∀ u ∈ grp.weaves, teamOfWeave u = grp.team := by decide +kernel

theorem witness_SystemRegisterWrites :
    ∀ sel ∈ [0x11, 0x12, 0x18, 0x19, 0x1A, 0x1B], (setS inHandler 1 7).issues (.setsys { wordFields 0xE90003A607A5E06 with imm := BitVec.ofNat 32 sel }) grp = true ∧
      (Map.find inHandler.slices (inHandler.site 0).slice).isSome ∧
      ((setS inHandler 1 7).weave 0).opnd (wordFields 0xE90003A607A5E06) (.s 1) 0 = 7 := by decide +kernel

theorem witness_PrivilegeTraps :
    (let s := setS (handled base) 1 8; (s.weave 0).handler = false ∧ s.mayTrap 0 = true ∧
        ∀ sel ∈ [0, 0x12, 7, 0x20], s.issues (.setsys { wordFields 0xE90003A607A5E06 with imm := BitVec.ofNat 32 sel }) grp = true) ∧
      (handled base).issues (.getsys { wordFields 0xE90003A7A605E05 with imm := 2 }) grp = true ∧
      (let s := setS inHandler 1 8; (s.weave 0).handler = true ∧ s.mayTrap 0 = true ∧
        ∀ sel ∈ [0x11, 0x10], s.issues (.setsys { wordFields 0xE90003A607A5E06 with imm := BitVec.ofNat 32 sel }) grp = true) := by decide +kernel

theorem witness_ConvergenceInstructions :
    base.issues (.conv (wordFields 0xFFFF0E90003A7A329E00)) grp = true ∧ base.represented grp (wordFields 0xFFFF0E90003A7A329E00) = [0] ∧ (base.conv 0 2).signed = 0 ∧ (Map.find base.teams 0).isSome := by
  decide +kernel

theorem witness_ConvergenceInstructions_sign : sets.completesSet (.sign (wordFields 0xC80003A7A7A5E01)) (wordFields 0xC80003A7A7A5E01) grp = true :=
  completesSet_of sets_unplaced (by decide +kernel)

theorem witness_WindowInstructions :
    base.issues (.pdis (wordFields 0xE90803A7A7A5E02)) grp = true ∧ base.anyActive grp (wordFields 0xE90803A7A7A5E02) = true ∧
      base.issues (.pen (wordFields 0xE90003A7A7A5E03)) grp = true ∧ base.anyActive grp (wordFields 0xE90003A7A7A5E03) = true ∧
      base.issues (.syield (wordFields 0xE90003A7A7A5E04)) grp = true ∧ base.anyActive grp (wordFields 0xE90003A7A7A5E04) = true ∧
      (Map.find base.gangs 0).isSome ∧ base.hasRoom 0 = true ∧ 2 ≤ (base.slice 0).budget ∧
      (let s := base.changeSlice 0 fun l => { l with budget := 1 }; s.issues (.syield (wordFields 0xE90003A7A7A5E04)) grp = true ∧ s.hasRoom 0 = true ∧ (s.slice 0).budget < 2 ∧
        (Map.find s.gangs 0).isSome ∧ (s.slice 0).subs.contains (s.gang 0).sub = true ∧ (s.gang 0).state ≠ .retired) ∧
      ∀ i ∈ [Instr.pdis { (wordFields 0xE90803A7A7A5E02) with guard := 0 }, .pen { (wordFields 0xE90003A7A7A5E03) with guard := 0 }, .syield { (wordFields 0xE90003A7A7A5E04) with guard := 0 }], base.issues i grp = true ∧
      base.anyActive grp { (wordFields 0xE90803A7A7A5E02) with guard := 0 } = false := by decide +kernel

/-- The words of a range of code stand on a page that can be fetched. -/
def fetchable (s : State) (f : Fields) : Bool :=
  (s.core 0).sideLog.isEmpty && (s.linesOfWord f grp).all fun va =>
    va % 65536 + 192 ≤ 65536 &&
      match (s.core 0).tlb.find? (fun t => t.covers (s.site 0).asid (va % 2 ^ 56)) with
      | some tr => tr.stored (tr.pa va) && s.mayFetch tr (tr.pa va) 192 && !s.poisoned (tr.pa va) 192
      | none => false

theorem witness_CacheAndCheckpointRequests :
    (let s := setS base 1 0; s.issues (.icpref (wordFields 0xC00E90003A207A5E08)) grp = true ∧ s.linesOfWord (wordFields 0xC00E90003A207A5E08) grp ≠ [] ∧ fetchable s (wordFields 0xC00E90003A207A5E08) = true) ∧
      (let s := setS base 1 0; s.issues (.icpin (wordFields 0xC00E90003A20705E09)) grp = true ∧ fetchable s (wordFields 0xC00E90003A20705E09) = true ∧ (s.pinned 0).length + (s.linesOfWord (wordFields 0xC00E90003A20705E09) grp).length ≤ 85 ∧
        s.pinnedL2.length + 3 * (s.linesOfWord (wordFields 0xC00E90003A20705E09) grp).length ≤ 2 ^ 17 / 4 ∧ s.issues (.icpin { wordFields 0xC00E90003A20705E09 with t := 1 }) grp = true) ∧
      (let s := base.changeCtx 0 fun x => { x with ckptEn := true }; s.issues (.ckreq ⟨false, 7, .p 1, .zero, .zero, .zero, .d, 0, 0, false, false, false, true, false, false, 0x0⟩) grp = true ∧ s.anyActive grp (wordFields 0xE94003A7A705E0B) = true ∧ (s.ctx 0).ckptEn = true ∧ (s.slice 0).ckptAsked = none ∧ (Map.find s.slices 0).isSome) := by decide +kernel

theorem witness_LoadResults_scratch :
    (setLanes base 2 fun l => BitVec.ofNat 64 (65532 - 4 * l)).issues (.ld (wordFields 0xE90027A40815E40)) grp = true ∧ (setLanes base 2 fun l => BitVec.ofNat 64 (65532 - 4 * l)).passes grp 2 4 .read false ((setLanes base 2 fun l => BitVec.ofNat 64 (65532 - 4 * l)).elements grp (wordFields 0xE90027A40815E40) 2) (placesOf (setLanes base 2 fun l => BitVec.ofNat 64 (65532 - 4 * l)) grp 2 4 .read false ((setLanes base 2 fun l => BitVec.ofNat 64 (65532 - 4 * l)).elements grp (wordFields 0xE90027A40815E40) 2)) ∧
      placesOf (setLanes base 2 fun l => BitVec.ofNat 64 (65532 - 4 * l)) grp 2 4 .read false ((setLanes base 2 fun l => BitVec.ofNat 64 (65532 - 4 * l)).elements grp (wordFields 0xE90027A40815E40) 2) ≠ [] ∧ (∀ x ∈ placesOf (setLanes base 2 fun l => BitVec.ofNat 64 (65532 - 4 * l)) grp 2 4 .read false ((setLanes base 2 fun l => BitVec.ofNat 64 (65532 - 4 * l)).elements grp (wordFields 0xE90027A40815E40) 2), x.2.watched % 4 = 0) :=
  ⟨by decide +kernel, passes_placesOf (by decide +kernel), by decide +kernel⟩

theorem witness_LoadResults_global :
    (setS base 2 0x10000).issues (.ld (wordFields 0xFFFF80E90003A60815E40)) grp = true ∧ (setS base 2 0x10000).passes grp 0 8 .read false ((setS base 2 0x10000).elements grp (wordFields 0xFFFF80E90003A60815E40) 0) (placesOf (setS base 2 0x10000) grp 0 8 .read false ((setS base 2 0x10000).elements grp (wordFields 0xFFFF80E90003A60815E40) 0)) ∧
      placesOf (setS base 2 0x10000) grp 0 8 .read false ((setS base 2 0x10000).elements grp (wordFields 0xFFFF80E90003A60815E40) 0) ≠ [] ∧ (∀ x ∈ placesOf (setS base 2 0x10000) grp 0 8 .read false ((setS base 2 0x10000).elements grp (wordFields 0xFFFF80E90003A60815E40) 0), x.2.watched % 8 = 0) :=
  ⟨by decide +kernel, passes_placesOf (by decide +kernel), by decide +kernel⟩

theorem witness_BlockLoadResults :
    base.issues (.ldm (wordFields 0x1800F0000E90023A7A5C1E42)) grp = true ∧ base.passes grp 2 8 .read false (base.blockElements grp (wordFields 0x1800F0000E90023A7A5C1E42) 2 (Fields.blockCount (wordFields 0x1800F0000E90023A7A5C1E42))) (placesOf base grp 2 8 .read false (base.blockElements grp (wordFields 0x1800F0000E90023A7A5C1E42) 2 (Fields.blockCount (wordFields 0x1800F0000E90023A7A5C1E42)))) ∧
      placesOf base grp 2 8 .read false (base.blockElements grp (wordFields 0x1800F0000E90023A7A5C1E42) 2 (Fields.blockCount (wordFields 0x1800F0000E90023A7A5C1E42))) ≠ [] ∧ (∀ x ∈ placesOf base grp 2 8 .read false (base.blockElements grp (wordFields 0x1800F0000E90023A7A5C1E42) 2 (Fields.blockCount (wordFields 0x1800F0000E90023A7A5C1E42))), x.2.watched % 8 = 0) :=
  ⟨by decide +kernel, passes_placesOf (by decide +kernel), by decide +kernel⟩

theorem witness_BlockLoadResults_zero :
    base.issues (.ldm { wordFields 0x1800F0000E90023A7A5C1E42 with d := .zero }) grp = true ∧
      doPass base grp 2 8 .read false (base.blockElements grp { wordFields 0x1800F0000E90023A7A5C1E42 with d := .zero } 2 (Fields.blockCount (wordFields 0x1800F0000E90023A7A5C1E42))) = true := by decide +kernel

theorem witness_StoreResults :
    (setS base 2 0x101000).issues (.st (wordFields 0x70E9010C0E0BA5E41)) grp = true ∧ (setS base 2 0x101000).passes grp 0 1 .write true ((setS base 2 0x101000).elements grp (wordFields 0x70E9010C0E0BA5E41) 0) (placesOf (setS base 2 0x101000) grp 0 1 .write true ((setS base 2 0x101000).elements grp (wordFields 0x70E9010C0E0BA5E41) 0)) ∧
      placesOf (setS base 2 0x101000) grp 0 1 .write true ((setS base 2 0x101000).elements grp (wordFields 0x70E9010C0E0BA5E41) 0) ≠ [] ∧ (∀ x ∈ placesOf (setS base 2 0x101000) grp 0 1 .write true ((setS base 2 0x101000).elements grp (wordFields 0x70E9010C0E0BA5E41) 0), x.2.watched % 1 = 0) ∧
      (∀ x ∈ placesOf (setS base 2 0x101000) grp 0 1 .write true ((setS base 2 0x101000).elements grp (wordFields 0x70E9010C0E0BA5E41) 0), x.2.isLocal = true) ∧
      gatePasses (setS base 2 0x101000) (wordFields 0x70E9010C0E0BA5E41) = true :=
  ⟨by decide +kernel, passes_placesOf (by decide +kernel), by decide +kernel⟩

theorem witness_StoreResults_block :
    base.issues (.stm (wordFields 0x80000000E9002023A7A5E43)) grp = true ∧ base.passes grp 2 8 .write true (base.blockElements grp (wordFields 0x80000000E9002023A7A5E43) 2 (Fields.blockCount (wordFields 0x80000000E9002023A7A5E43))) (placesOf base grp 2 8 .write true (base.blockElements grp (wordFields 0x80000000E9002023A7A5E43) 2 (Fields.blockCount (wordFields 0x80000000E9002023A7A5E43)))) ∧
      placesOf base grp 2 8 .write true (base.blockElements grp (wordFields 0x80000000E9002023A7A5E43) 2 (Fields.blockCount (wordFields 0x80000000E9002023A7A5E43))) ≠ [] ∧ (∀ x ∈ placesOf base grp 2 8 .write true (base.blockElements grp (wordFields 0x80000000E9002023A7A5E43) 2 (Fields.blockCount (wordFields 0x80000000E9002023A7A5E43))), x.2.watched % 8 = 0) :=
  ⟨by decide +kernel, passes_placesOf (by decide +kernel), by decide +kernel⟩

theorem witness_AtomicResults :
    (setS base 2 0x101000).issues (.atom (wordFields 0x10000000E903940E0805E80)) grp = true ∧ (setS base 2 0x101000).passes grp 0 4 .update false ((setS base 2 0x101000).elements grp (wordFields 0x10000000E903940E0805E80) 0) (placesOf (setS base 2 0x101000) grp 0 4 .update false ((setS base 2 0x101000).elements grp (wordFields 0x10000000E903940E0805E80) 0)) ∧
      placesOf (setS base 2 0x101000) grp 0 4 .update false ((setS base 2 0x101000).elements grp (wordFields 0x10000000E903940E0805E80) 0) ≠ [] ∧ (∀ x ∈ placesOf (setS base 2 0x101000) grp 0 4 .update false ((setS base 2 0x101000).elements grp (wordFields 0x10000000E903940E0805E80) 0), x.2.watched % 4 = 0) ∧
      gatePasses (setS base 2 0x101000) (wordFields 0x10000000E903940E0805E80) = true :=
  ⟨by decide +kernel, passes_placesOf (by decide +kernel), by decide +kernel⟩

theorem witness_AtomicResults_acas :
    (setS base 2 0x1000).issues (.acas (wordFields 0x1100000000400000E0805E81)) grp = true ∧ (setS base 2 0x1000).passes grp 2 8 .update false ((setS base 2 0x1000).elements grp (wordFields 0x1100000000400000E0805E81) 2) (placesOf (setS base 2 0x1000) grp 2 8 .update false ((setS base 2 0x1000).elements grp (wordFields 0x1100000000400000E0805E81) 2)) ∧
      placesOf (setS base 2 0x1000) grp 2 8 .update false ((setS base 2 0x1000).elements grp (wordFields 0x1100000000400000E0805E81) 2) ≠ [] ∧ (∀ x ∈ placesOf (setS base 2 0x1000) grp 2 8 .update false ((setS base 2 0x1000).elements grp (wordFields 0x1100000000400000E0805E81) 2), x.2.watched % 8 = 0) :=
  ⟨by decide +kernel, passes_placesOf (by decide +kernel), by decide +kernel⟩

theorem witness_AtomicResults_red :
    (setS base 2 0x101000).issues (.red (wordFields 0x10000000E900B80E0BA5E82)) grp = true ∧ (setS base 2 0x101000).passes grp 0 2 .update true ((setS base 2 0x101000).elements grp (wordFields 0x10000000E900B80E0BA5E82) 0) (placesOf (setS base 2 0x101000) grp 0 2 .update true ((setS base 2 0x101000).elements grp (wordFields 0x10000000E900B80E0BA5E82) 0)) ∧
      placesOf (setS base 2 0x101000) grp 0 2 .update true ((setS base 2 0x101000).elements grp (wordFields 0x10000000E900B80E0BA5E82) 0) ≠ [] ∧ (∀ x ∈ placesOf (setS base 2 0x101000) grp 0 2 .update true ((setS base 2 0x101000).elements grp (wordFields 0x10000000E900B80E0BA5E82) 0), x.2.watched % 2 = 0) :=
  ⟨by decide +kernel, passes_placesOf (by decide +kernel), by decide +kernel⟩

theorem witness_WaitParksLanes :
    base.issues (.waitv (wordFields 0x70027A41B0DE84)) grp = true ∧ base.passes grp 2 4 .watch false (base.elements grp (wordFields 0x70027A41B0DE84) 2) (placesOf base grp 2 4 .watch false (base.elements grp (wordFields 0x70027A41B0DE84) 2)) ∧
      placesOf base grp 2 4 .watch false (base.elements grp (wordFields 0x70027A41B0DE84) 2) ≠ [] ∧ (∀ x ∈ placesOf base grp 2 4 .watch false (base.elements grp (wordFields 0x70027A41B0DE84) 2), x.2.watched % 4 = 0) :=
  ⟨by decide +kernel, passes_placesOf (by decide +kernel), by decide +kernel⟩

/-- The same WAITV in its scalar form. -/
def scalarWait : Fields := { wordFields 0x70027A41B0DE84 with d := .zero, a := .s 2, c := .zero }

theorem witness_WaitParksLanes_scalar :
    base.issues (.waitv scalarWait) grp = true ∧ scalarForm scalarWait = true ∧ doPass base grp 2 4 .watch false (base.elements grp scalarWait 2) = true ∧
      (base.elements grp scalarWait 2).map (fun x => x.lanes) = [BitVec.allOnes 32] ∧ (∀ x ∈ placesOf base grp 2 4 .watch false (base.elements grp scalarWait 2), x.2.watched % 4 = 0) := by decide +kernel

/-- A store to 0x400000 finds no page there: the leaf that the tables hold for it is absent and RC. -/
def missing : State :=
  let s := base.changeFn 0 fun f => { f with troot := 0x200001 }
  let s := setMem s 0x200000 8 0x210001
  let s := setMem s 0x210000 8 0x220001
  let s := setMem s 0x220000 8 0x230001
  let s := setMem s 0x230010 8 0x240001
  setS (setMem s 0x240000 8 0x400) 2 0x400000

/-- The one access and the one page of the store. -/
def loggedOne : List (Access × Place) → Bool
  | [(_, .logged _)] => true
  | _ => false

theorem witness_SideLogTakesStores :
    missing.issues (.st (wordFields 0xE900060E0BA5E41)) grp = true ∧ loggedOne (placesOf missing grp 0 4 .write true (missing.elements grp (wordFields 0xE900060E0BA5E41) 0)) = true ∧
      doPass missing grp 0 4 .write true (missing.elements grp (wordFields 0xE900060E0BA5E41) 0) = true ∧
      (missing.core 0).sideLog.length < 64 ∧ missing.hasRoom 0 = true := by decide +kernel

/-- An STM of two registers to the same page. -/
def blockStore : Fields := { wordFields 0x80000000E9002023A7A5E43 with t := 0, a := .s 2 }

theorem witness_SideLogTakesStores_block :
    missing.issues (.stm blockStore) grp = true ∧ doPass missing grp 0 8 .write true (missing.blockElements grp blockStore 0 blockStore.blockCount) = true ∧
      (placesOf missing grp 0 8 .write true (missing.blockElements grp blockStore 0 blockStore.blockCount)).all (fun x => x.2.logged?.isSome && x.2.watched % 8 == 0) = true ∧
      ((placesOf missing grp 0 8 .write true (missing.blockElements grp blockStore 0 blockStore.blockCount)).filterMap (fun x => x.2.logged?.map (· / 256))).eraseDups.length ≤ 64 := by decide +kernel

theorem witness_AtomicResults_logged :
    missing.issues (.red (wordFields 0x10000000E900B80E0BA5E82)) grp = true ∧ doPass missing grp 0 2 .update true (missing.elements grp (wordFields 0x10000000E900B80E0BA5E82) 0) = true ∧
      (placesOf missing grp 0 2 .update true (missing.elements grp (wordFields 0x10000000E900B80E0BA5E82) 0)).all (fun x => x.2.logged?.isSome && x.2.watched % 2 == 0) = true ∧
      (placesOf missing grp 0 2 .update true (missing.elements grp (wordFields 0x10000000E900B80E0BA5E82) 0)).length ≤ 64 := by decide +kernel

theorem witness_PrefetchAndCacheControl :
    (let s := setS base 2 0x101000; s.issues (.pref (wordFields 0xE90003A60BA5E44)) grp = true ∧ (s.core 0).sideLog = [] ∧ ∀ x ∈ s.elements grp (wordFields 0xE90003A60BA5E44) 0, x.addr % 8 = 0 ∧ ((s.core 0).tlb.find? fun t => t.covers (s.site 0).asid (x.addr % 2 ^ 56)).isSome) := by decide +kernel

/-- The machine of a CCTL on s2. -/
def cached : State := setS base 2 0x101000

theorem witness_PrefetchAndCacheControl_cctl :
    cached.issues (.cctl (wordFields 0x1000E90013A20BA5E45)) grp = true ∧ cached.represented grp (wordFields 0x1000E90013A20BA5E45) = [0] ∧ Memory.wf cached.mem = true := by decide +kernel

theorem witness_PrefetchAndCacheControl_ranges :
    ((cached.weave 0).opnd (wordFields 0x1000E90013A20BA5E45) (wordFields 0x1000E90013A20BA5E45).a 0).toNat = 0x101000 ∧
      ((cached.weave 0).opnd (wordFields 0x1000E90013A20BA5E45) (wordFields 0x1000E90013A20BA5E45).b 0).toNat = 256 ∧
      ∀ k < 256, ((cached.core 0).tlb.find? fun t => t.covers (cached.site 0).asid ((0x101000 + k) % 2 ^ 56)).isSome := by decide +kernel

/-- A layout record of sixteen words of four bytes at 0x102000 (R207). -/
def record : List Byte :=
  bytesOfNat 8 0x102000 ++ bytesOfNat 8 0 ++ [2, 1, 0, 0] ++ bytesOfNat 2 16 ++ List.replicate 10 0 ++ bytesOfNat 4 1 ++ List.replicate 28 0

/-- A record whose rows are ragged, in two dimensions. -/
def raggedRecord : List Byte :=
  bytesOfNat 8 0x102000 ++ bytesOfNat 8 0 ++ [2, 2, 1, 0] ++ bytesOfNat 2 4 ++ bytesOfNat 2 2 ++ List.replicate 8 0 ++ bytesOfNat 4 1 ++
    bytesOfNat 4 4 ++ List.replicate 16 0 ++ bytesOfNat 8 0x103000

/-- A machine with a record at 0x101000 that s2 names. -/
def recorded (r : List Byte) : State := setS { base with mem := Memory.writeBytes base.mem 0x101000 r } 2 0x101000

/-- A copy of the team in flight on w3. -/
def copyOf (landed : Nat) : Copy := { wm := 3, nbytes := 64, record := record, coords := [0], targets := [0], token := some 4, landed := landed }

def copyingOn (s : State) (c : Copy) : State :=
  { s with copies := [(0, c)] }.changeTeam 0 fun m => { m with wm := [(3, { active := c.active, landed := BitVec.ofNat 32 c.landed })] }

def copying (c : Copy) : State := copyingOn base c

theorem witness_FenceOrders :
    base.issues (.fence (wordFields 0xE90023A7A7A5E83)) grp = true ∧ base.anyActive grp (wordFields 0xE90023A7A7A5E83) = true ∧ gatePasses base (wordFields 0xE90023A7A7A5E83) = true ∧ ∀ u ∈ base.represented grp (wordFields 0xE90023A7A7A5E83), base.copiesOpen u = false ∧
      (copying (copyOf 0)).issues (.fence (wordFields 0xE90023A7A7A5E83)) grp = true ∧ gatePasses (copying (copyOf 0)) (wordFields 0xE90023A7A7A5E83) = true ∧ ∃ u ∈ (copying (copyOf 0)).represented grp (wordFields 0xE90023A7A7A5E83), (copying (copyOf 0)).copiesOpen u = true ∧
      base.anyActive grp { (wordFields 0xE90023A7A7A5E83) with guard := 0 } = false := by decide +kernel

/-- What the statement about copies asks of a copy that starts; the word of its targets decides `found`. -/
def mayStart (s : State) (i : Instr) (f : Fields) (multicast ragged found : Bool) : Bool :=
  let e := s.site 0
  let w := s.weave 0
  match s.readRecord 0 (s.active grp f 0) 0 (w.opnd f f.a 0).toNat with
  | .error _ => false
  | .ok (bs, _) =>
    let first := (scalarNamed f.b).getD 0
    let wm := (wmNamed f.c).getD 0
    let count := (Layout.ofBytes bs).ndim + 1 + multicast.toNat + f.x.toNat
    let q := askOf multicast f.x f.t.toNat f.imm.toNat bs (w.coordinates first count)
    let targets := (s.copyTargets e q).1
    let run := Machine.span first ((count + 1) / 2)
    s.issues i grp && s.represented grp f == [0] && layoutOk bs && decide (first + run.length ≤ 64) && q.layout.ragged == ragged &&
      decide (q.mask < 2 ^ 24) && !s.isSaved 0 && (s.core e.core).sideLog.isEmpty && run.all (fun n => !s.pendingToken 0 n && !w.poisonS.contains n) &&
      (s.copyTrap 0 (s.active grp f 0) e q).isNone && !targets.isEmpty == found && targets.all (fun x => !(s.watermark x wm).active) &&
      !((s.releaseFailed targets wm).freeSlots e.core).isEmpty

theorem witness_CopiesStart :
    mayStart (recorded record) (.cpy (wordFields 0xFFC00D30022FA0A11EC0)) (wordFields 0xFFC00D30022FA0A11EC0) false false true = true ∧
      mayStart ((recorded record).changeTeam 0 fun m => { m with joined := true }) (.cpym (wordFields 0xDF0022220A11EC1)) (wordFields 0xDF0022220A11EC1) true false false = true ∧
      mayStart (recorded raggedRecord) (.cpyr (wordFields 0x400D00022220BA5EC2)) (wordFields 0x400D00022220BA5EC2) false true true = true := by decide +kernel

theorem witness_WatermarkInstructions :
    allIssue (copying (copyOf 4)) [(.wmrd (wordFields 0xE90003A74C05EC3)), (.wmwait (wordFields 0x400E90003A34F05EC4)), (.cpyq (wordFields 0xE90003A74C05EC5)), (.cpyc (wordFields 0xE90003A74F05EC6))] = true ∧
      (let s := copying (copyOf 4); grp.weaves = s.represented grp (wordFields 0x400E90003A34F05EC4) ∧ (s.watermark 0 3).active = true ∧ (s.watermark 0 3).landed.toNat < ((s.weave 0).opnd (wordFields 0x400E90003A34F05EC4) (wordFields 0x400E90003A34F05EC4).b 0).toNat % 2 ^ 32) ∧
      allIssue base [(.wmwait (wordFields 0x400E90003A34F05EC4)), (.cpyc (wordFields 0xE90003A74F05EC6))] = true ∧ (base.watermark 0 3).active = false ∧ base.boundCopy 0 3 = none ∧
      (let s := copying (copyOf 60); s.represented grp (wordFields 0xE90003A74F05EC6) = [0] ∧ s.boundCopy 0 3 = some 0 ∧ Map.find s.copies 0 = some (copyOf 60)) ∧
      (let s := copying (copyOf 64); s.issues (.wmwait (wordFields 0x400E90003A34F05EC4)) grp = true ∧ ((s.weave 0).opnd (wordFields 0x400E90003A34F05EC4) (wordFields 0x400E90003A34F05EC4).b 0).toNat % 2 ^ 32 ≤ (s.watermark 0 3).landed.toNat) := by decide +kernel

/-- A card of the engines (R222): kind and operation, destination, source, length, fill. -/
def card (kind op dst src length fill : Nat) : List Byte :=
  [BitVec.ofNat 8 kind, BitVec.ofNat 8 op] ++ List.replicate 6 0 ++ bytesOfNat 8 dst ++ bytesOfNat 8 src ++ bytesOfNat 8 length ++ bytesOfNat 8 fill ++
    List.replicate 24 0

/-- A job of function 0. -/
def working (c : List Byte) (done : Nat) : State := { base with jobs := [(0, { card := c, done := done, team := some 0, token := some 4 })] }

def submitted (s : State) (f : Fields) (ok : Bool) : Bool :=
  match s.readRecord 0 (s.active grp f 0) 0 ((s.weave 0).opnd f f.a 0).toNat with
  | .ok (bs, _) => cardOk bs false == ok
  | .error _ => false

theorem witness_JobsSubmitted :
    (let s := recorded (card 1 0 0x104000 0x105000 64 0); s.issues (.jobsub (wordFields 0xE90003A60A05EC7)) grp = true ∧ s.represented grp (wordFields 0xE90003A60A05EC7) = [0] ∧ submitted s (wordFields 0xE90003A60A05EC7) true = true) ∧
      (let s := handled (recorded (card 4 0 0 0 0 0)); s.issues (.jobsub (wordFields 0xE90003A60A05EC7)) grp = true ∧ submitted s (wordFields 0xE90003A60A05EC7) false = true ∧ s.mayTrap 0 = true) := by decide +kernel

/-- The source of a copy's next element. -/
def sourceIs (s : State) (c : Copy) (p : Sourced → State → Bool) : Bool :=
  match s.copySource c with
  | (r, t) => p r t

/-- A record of sixteen words at an address. -/
def recordAt (a : Nat) : List Byte := bytesOfNat 8 a ++ record.drop 8

/-- No core has bytes that are not yet at home. -/
theorem nothing_pending {s : State} (h : (s.cores.all fun c => c.2.l1.isEmpty) = true) (p : Nat → Prop) (a : Nat) (b : Byte) :
    ¬s.wroteByte p a b := by
  rintro ⟨c, l, -, hm, -⟩
  have empty : ∀ (m : Map Core), (m.all fun c => c.2.l1.isEmpty) = true → (Map.at m {} c).l1 = [] := by
    intro m
    induction m with
    | nil => intro _; rfl
    | cons x m ih =>
      intro hx
      rw [List.all_cons, Bool.and_eq_true] at hx
      show (Option.getD (if x.1 = c then some x.2 else Map.find m c) {}).l1 = []
      split
      · exact List.isEmpty_iff.mp hx.1
      · exact ih hx.2
  have hc : (s.core c).l1 = [] := empty s.cores h
  rw [hc] at hm
  exact List.not_mem_nil hm

theorem witness_no_core_holds_bytes : (base.cores.all fun c => c.2.l1.isEmpty) = true := by decide +kernel

theorem witness_CopyEvents_lands :
    (let s := copying (copyOf 8); Map.find s.copies 0 = some (copyOf 8) ∧ s.landable 0 (copyOf 8) = true ∧ sourceIs s (copyOf 8) (fun r t => t.reportsFit && (match r with | .bytes bs => bs.length == 4 | _ => false) && !t.landsOnPoison (copyOf 8) (copyOf 8).nextUnit.1 (copyOf 8).nextUnit.2) = true ∧ (s.core (copyOf 8).core).sideLog = []) ∧
      (copyOf 8).barrier = none ∧ (copyOf 8).nextUnit = (8, 4) := by decide +kernel

theorem witness_CopyEvents_counts :
    (let s := copying { copyOf 60 with barrier := some 0x8000 }; Map.find s.copies 0 = some { copyOf 60 with barrier := some 0x8000 } ∧ s.landable 0 { copyOf 60 with barrier := some 0x8000 } = true ∧ sourceIs s { copyOf 60 with barrier := some 0x8000 } (fun r t => t.reportsFit && (match r with | .bytes bs => bs.length == 4 | _ => false) && !t.landsOnPoison ({ copyOf 60 with barrier := some 0x8000 }) 60 4) = true) ∧
      ({ copyOf 60 with barrier := some 0x8000 } : Copy).targets = [0] ∧ Memory.wf (copying { copyOf 60 with barrier := some 0x8000 }).mem = true ∧ ∀ a ∈ (copying { copyOf 60 with barrier := some 0x8000 }).landingCells { copyOf 60 with barrier := some 0x8000 } 60, a + 4 ≤ onChip .scratch 0 + 0x8000 := by decide +kernel

theorem witness_CopyEvents_stops :
    (let s := copyingOn missing { copyOf 8 with record := recordAt 0x400000 }; Map.find s.copies 0 = some { copyOf 8 with record := recordAt 0x400000 } ∧ s.landable 0 { copyOf 8 with record := recordAt 0x400000 } = true ∧ sourceIs s { copyOf 8 with record := recordAt 0x400000 } (fun r t => t.reportsFit && (match r with | .missing vas => vas == [0x400008] | _ => false)) = true ∧ (s.core (copyOf 8).core).sideLog = []) ∧
      (let s := copying { copyOf 8 with record := recordAt 0x400000 }; Map.find s.copies 0 = some { copyOf 8 with record := recordAt 0x400000 } ∧ s.landable 0 { copyOf 8 with record := recordAt 0x400000 } = true ∧ sourceIs s { copyOf 8 with record := recordAt 0x400000 } (fun r t => t.reportsFit && (match r with | .refused _ => true | _ => false)) = true) ∧
      (let s := { copying (copyOf 8) with poison := [0x102008 / 128] }; Map.find s.copies 0 = some (copyOf 8) ∧ s.landable 0 (copyOf 8) = true ∧ sourceIs s (copyOf 8) (fun r t => t.reportsFit && (match r with | .poison _ => true | _ => false)) = true) := by decide +kernel

theorem witness_CopyEvents_retry :
    (let s := copying { copyOf 8 with frozen := true, pages := [0x100000] }; Map.find s.copies 0 = some { copyOf 8 with frozen := true, pages := [0x100000] } ∧ sourceIs s { copyOf 8 with frozen := true, pages := [0x100000] } (fun r t => t.reportsFit && (match r with | .missing _ => false | _ => true)) = true) ∧
      (Map.find (copying (copyOf 64)).copies 0 = some (copyOf 64) ∧ (copyOf 64).active = true ∧ (copyOf 64).landed = (copyOf 64).nbytes) := by decide +kernel

/-- The job of a card with some bytes done. -/
def jobOf (c : List Byte) (done : Nat) : Job := { card := c, done := done, team := some 0, token := some 4 }

/-- The next element of a job can be read, and its destinations, at home here, can be written. -/
def movesNext (s : State) (j : Job) : Bool :=
  match s.jobSource j with
  | (.bytes bs, s₁) =>
    match s₁.destinations (s₁.jobWalker j) (if j.kind = 3 then .update else .write) j.dst (j.dst + j.length) (j.dst + j.done) j.unit with
    | (.places ps, _) =>
      bs.length == j.unit && ps.all (fun x => x.1.stored (x.1.pa x.2)) && decide (ps.map fun x => x.1.pa x.2).Nodup && !ps.isEmpty
    | _ => false
  | _ => false

theorem witness_JobEvents_copies :
    (let c := card 1 0 0x104000 0x105000 64 0; let s := working c 63; let j := jobOf c 63; Map.find s.jobs 0 = some j ∧ j.writes = true ∧ s.counterBad j = false ∧ j.kind ≠ 4 ∧
        movesNext s j = true ∧ Memory.wf s.mem = true ∧ j.barrier.testBit 63 = false) := by decide +kernel

theorem witness_JobEvents_fills :
    (let c := card 2 0 0x104000 0 64 0x55; let s := working c 0; let j := jobOf c 0; Map.find s.jobs 0 = some j ∧ j.writes = true ∧ s.counterBad j = false ∧ j.kind ≠ 4 ∧
        movesNext s j = true ∧ Memory.wf s.mem = true ∧ j.barrier.testBit 63 = false) := by decide +kernel

theorem witness_JobEvents_reduces :
    (let c := card 3 2 0x104000 0x105000 64 0; let s := working c 60; let j := jobOf c 60; Map.find s.jobs 0 = some j ∧ j.writes = true ∧ s.counterBad j = false ∧ j.kind ≠ 4 ∧
        movesNext s j = true ∧ Memory.wf s.mem = true ∧ j.barrier.testBit 63 = false) := by decide +kernel

theorem witness_JobEvents_ends :
    (let c := card 1 0 0x104000 0x400000 64 0; let j := jobOf c 0; let s := { missing with jobs := [(0, j)] }; s.hasRoom (s.jobWalker j).core = true ∧ j.writes = true ∧ s.counterBad j = false ∧
        (match (s.jobSource j).1 with | .missing _ => true | _ => false) = true) ∧
      (let c := card 1 0 0x104000 0x105000 64 0; let j := jobOf c 64; j.writes = false ∧ j.ended = false ∧ (working c 64).counterBad j = false) ∧
      (let j := jobOf (card 1 0 0x104000 0x105000 64 0) 64; let s := { base with jobs := [(0, j)] }.changeGang 0 fun k => { k with state := .preempted, saved := some {} }
      Map.find s.jobs 0 = some j ∧ (s.core (s.jobWalker j).core).sideLog = [] ∧ s.reportsFit = true ∧ s.isSaved (teamOfWeave j.weave) = true ∧ (Map.find s.weaves j.weave).isSome) := by decide +kernel

/-- A machine with a barrier object at .s offset 0. -/
def atBarrier (b : Barrier) : State := setS (base.updateBarrier (onChip .scratch 0) fun _ => b) 1 4

/-- What the statement about barriers asks of a weave whose object is in place. -/
def atObject (s : State) (i : Instr) (f : Fields) : Bool :=
  s.issues i grp && s.represented grp f == [0] && (s.cores.all fun c => c.2.l1.isEmpty) && Memory.wf s.mem &&
    match barrierCell f s grp 0 (s.active grp f 0) with
    | .ok (cell, _) => cell == onChip .scratch 0
    | .error _ => false

theorem witness_BarrierInstructions :
    atObject (atBarrier { gen := 3, pending := 2, expected := 9 }) (.binit (wordFields 0xE900220623A5F00)) (wordFields 0xE900220623A5F00) = true ∧
      atObject (atBarrier { gen := 3, pending := 2, expected := 9 }) (.barr (wordFields 0xE90023A62015F01)) (wordFields 0xE90023A62015F01) = true ∧
      atObject (atBarrier { gen := 3, pending := 2, expected := 9 }) (.barr (wordFields 0xE90823A62015F01)) (wordFields 0xE90823A62015F01) = true ∧
      atObject (atBarrier { gen := 3, pending := 2, expected := 9 }) (.barrx (wordFields 0x860122062215F02)) (wordFields 0x860122062215F02) = true ∧
      atObject (atBarrier { gen := 3, pending := 2, expected := 9 }) (.bwait (wordFields 0xE9002206221DF03)) (wordFields 0xE9002206221DF03) = true ∧
      atObject (atBarrier { gen := 3, pending := 2, expected := 9 }) (.btest (wordFields 0xE9002206201DF04)) (wordFields 0xE9002206201DF04) = true ∧
      atObject (atBarrier { gen := 15, pending := 0, expected := 9 }) (.barr (wordFields 0xE90023A62015F01)) (wordFields 0xE90023A62015F01) = true ∧
      (atBarrier { gen := 3, pending := 2, expected := 9 }).gateOne 0 ((atBarrier { gen := 3, pending := 2, expected := 9 }).active grp (wordFields 0xE90023A62015F01) 0) = none ∧
      (let s := atBarrier { gen := 3, pending := 2, expected := 9 }; (s.barrier (onChip .scratch 0)).gen ≠ ((s.weave 0).opnd (wordFields 0xE9002206221DF03) (wordFields 0xE9002206221DF03).b 0).toNat % 16 ∧ 0 < ((s.weave 0).opnd (wordFields 0xE900220623A5F00) (wordFields 0xE900220623A5F00).b 0).toNat) ∧
      (let s := atBarrier { gen := 4, pending := 2, expected := 9 }; atObject s (.bwait (wordFields 0xE9002206221DF03)) (wordFields 0xE9002206221DF03) = true ∧ grp.weaves = [0] ∧ Map.find (s.weave 0).bwaits (waitKey grp.pc (s.active grp (wordFields 0xE9002206221DF03) 0)) = none ∧
        (s.barrier (onChip .scratch 0)).gen = ((s.weave 0).opnd (wordFields 0xE9002206221DF03) (wordFields 0xE9002206221DF03).b 0).toNat % 16) ∧
      (let s := setS (atBarrier { gen := 15, pending := 2, expected := 9 }) 1 15; atObject s (.bwait (wordFields 0xE9002206221DF03)) (wordFields 0xE9002206221DF03) = true ∧ (s.barrier (onChip .scratch 0)).gen = 15 ∧
        ((s.weave 0).opnd (wordFields 0xE9002206221DF03) (wordFields 0xE9002206221DF03).b 0).toNat % 16 = 15) := by decide +kernel

/-- The count that BINIT refuses, and a BWAIT that has parked, whose object moved on or has ended. -/
def parkedWait (gone : Bool) : State :=
  (atBarrier { gen := 3, pending := 2, expected := 9 }).changeWeave 0 fun w =>
    { w with bwaits := [(waitKey grp.pc (BitVec.allOnes 32), (onChip .scratch 0, gone))] }

theorem witness_BarrierInstructions_traps :
    (let s := setS (handled (atBarrier { gen := 3, pending := 2, expected := 9 })) 1 0; atObject s (.binit (wordFields 0xE900220623A5F00)) (wordFields 0xE900220623A5F00) = true ∧ s.mayTrap 0 = true ∧
        ((s.weave 0).opnd (wordFields 0xE900220623A5F00) (wordFields 0xE900220623A5F00).b 0).toNat = 0) := by decide +kernel

theorem witness_BarrierInstructions_parked :
    ∀ gone ∈ [true, false], (parkedWait gone).issues (.bwait (wordFields 0xE9002206221DF03)) grp = true ∧ (parkedWait gone).represented grp (wordFields 0xE9002206221DF03) = [0] ∧
      Map.find ((parkedWait gone).weave 0).bwaits (waitKey grp.pc ((parkedWait gone).active grp (wordFields 0xE9002206221DF03) 0)) = some (onChip .scratch 0, gone) ∧
      (parkedWait gone).poisoned (onChip .scratch 0) 16 = false ∧
      ((parkedWait gone).barrier (onChip .scratch 0)).gen ≠ (((parkedWait gone).weave 0).opnd (wordFields 0xE9002206221DF03) (wordFields 0xE9002206221DF03).b 0).toNat % 16 := by decide +kernel

set_option maxRecDepth 20000 in
/-- Checking the access of a barrier leaves the state as it is. -/
theorem witness_BarrierInstructions_state :
    (match barrierCell (wordFields 0xE90023A62015F01) (atBarrier { gen := 3, pending := 2, expected := 9 }) grp 0 (BitVec.allOnes 32) with
     | .ok (_, t) => some t
     | .error _ => none) = some (atBarrier { gen := 3, pending := 2, expected := 9 }) := by rfl

theorem witness_SharingGroupInstructions :
    (let s := base; s.issues (.cjoin (wordFields 0xE90003A7A405F05)) grp = true ∧ s.represented grp (wordFields 0xE90003A7A405F05) = [0] ∧ (Map.find s.teams 0).isSome ∧ (Map.find s.gangs (s.team 0).gang).isSome) ∧
      (let s := base.changeTeam 0 fun m => { m with joined := true }; s.mappedWait 0 = false ∧ s.issues (.cleave (wordFields 0xE90003A7A605F06)) grp = true ∧ s.represented grp (wordFields 0xE90003A7A605F06) = [0] ∧ (Map.find s.teams 0).isSome ∧ (Map.find s.gangs (s.team 0).gang).isSome) ∧
      (let s := base; s.issues (.cgen (wordFields 0xE90803A7A005F07)) grp = true ∧ s.represented grp (wordFields 0xE90803A7A005F07) = [0] ∧ (Map.find s.teams 0).isSome ∧ grp.weaves = s.represented grp (wordFields 0xE90803A7A005F07) ∧ (∀ x ∈ s.represented grp (wordFields 0xE90803A7A005F07), ((wordFields 0xE90803A7A005F07).x = true ∧ (Map.at (s.gang (s.team 0).gang).windows {} ((s.team 0).index / 32)).gen.toNat = ((s.weave x).opnd (wordFields 0xE90803A7A005F07) (wordFields 0xE90803A7A005F07).a 0).toNat % 2 ^ 16))) ∧
      (let s := base; s.issues (.cgen (wordFields 0x10E90803A7A005F07)) grp = true ∧ s.represented grp (wordFields 0x10E90803A7A005F07) = [0] ∧ (Map.find s.teams 0).isSome ∧ ¬(∀ x ∈ s.represented grp (wordFields 0x10E90803A7A005F07), ((wordFields 0x10E90803A7A005F07).x = true ∧ (Map.at (s.gang (s.team 0).gang).windows {} ((s.team 0).index / 32)).gen.toNat = ((s.weave x).opnd (wordFields 0x10E90803A7A005F07) (wordFields 0x10E90803A7A005F07).a 0).toNat % 2 ^ 16))) := by decide +kernel

/-- A machine whose home weave has a partner with a live thread, and whose queue q0 holds n entries. -/
def queued (n k : Nat) (partner : Mask) : State :=
  (base.changeWeave 64 fun w => { w with live := partner }).changeTeam 0 fun m => { m with fifos := Map.put m.fifos k (List.replicate n [5]) }

theorem witness_QueueInstructions :
    (let s := queued 3 4 1; s.issues (.qsend (wordFields 0xE90003A40791F08)) grp = true ∧ s.claimHolds 0 (.fifo 4) = false ∧ s.represented grp (wordFields 0xE90003A40791F08) = [0] ∧ (Map.find s.teams 0).isSome ∧ (s.fifo 0 ((s.weave 0).weaveId * 8 + 4)).length = 3 ∧ (s.weave 0).shadow = false ∧ s.gateOne 0 (s.active grp (wordFields 0xE90003A40791F08) 0) = none) ∧
      (let s := queued 4 4 1; s.issues (.qsend (wordFields 0xE90003A40791F08)) grp = true ∧ s.represented grp (wordFields 0xE90003A40791F08) = [0] ∧ (Map.find s.teams 0).isSome ∧ (s.fifo 0 ((s.weave 0).weaveId * 8 + 4)).length = 4 ∧ (s.weave (partnerOf 0)).live ≠ 0 ∧ grp.weaves = [0]) ∧
      (let s := handled (queued 4 4 0); s.issues (.qsend (wordFields 0xE90003A40791F08)) grp = true ∧ s.represented grp (wordFields 0xE90003A40791F08) = [0] ∧ (Map.find s.teams 0).isSome ∧ (s.fifo 0 ((s.weave 0).weaveId * 8 + 4)).length = 4 ∧ (s.weave (partnerOf 0)).live = 0 ∧ s.mayTrap 0 = true) ∧
      (let s := handled (queued 0 0 1); s.issues (.qsend (wordFields 0xE90003A40781F08)) grp = true ∧ s.represented grp (wordFields 0xE90003A40781F08) = [0] ∧ (Map.find s.teams 0).isSome ∧ s.mayTrap 0 = true) ∧
      (let s := queued 1 0 1; s.issues (.qrecv (wordFields 0xE90003A78005F09)) grp = true ∧ s.represented grp (wordFields 0xE90003A78005F09) = [0] ∧ (Map.find s.teams 0).isSome ∧ (s.fifo 0 ((s.weave 0).weaveId * 8 + 0)).length = 1) ∧
      (let s := queued 0 0 1; s.issues (.qrecv (wordFields 0xE90003A78005F09)) grp = true ∧ s.represented grp (wordFields 0xE90003A78005F09) = [0] ∧ (Map.find s.teams 0).isSome ∧ (s.fifo 0 ((s.weave 0).weaveId * 8 + 0)).length = 0 ∧ (s.weave (partnerOf 0)).live ≠ 0) ∧
      (let s := handled (queued 0 0 0); s.issues (.qrecv (wordFields 0xE90003A78005F09)) grp = true ∧ s.represented grp (wordFields 0xE90003A78005F09) = [0] ∧ (Map.find s.teams 0).isSome ∧ s.mayTrap 0 = true) ∧
      (let s := handled (queued 1 4 1); s.issues (.qrecv (wordFields 0xE90003A79005F09)) grp = true ∧ s.represented grp (wordFields 0xE90003A79005F09) = [0] ∧ (Map.find s.teams 0).isSome ∧ s.mayTrap 0 = true) ∧
      (let s := queued 4 7 1; s.issues (.qpeek (wordFields 0xE90013A79F05F0A)) grp = true ∧ s.represented grp (wordFields 0xE90013A79F05F0A) = [0] ∧ (Map.find s.teams 0).isSome ∧ (s.fifo 0 ((s.weave 0).weaveId * 8 + 7)).length = 4) := by decide +kernel

/-- One thread of the weave at slot 0. -/
def lone : Group := { members := [(0, 1)], pc := 0 }

/-- Its machine: the team has joined its sharing group, and s of the markers as given. -/
def stealing (own victim : Nat) : State :=
  let s := base.changeTeam 0 fun m => { m with joined := true }
  let s := s.changeGang (s.team 0).gang fun g => { g with windows := Map.put g.windows 0 { members := 1 } }
  let s := setMem (setMem s (markerCell (s.site 0).kernel.sliceBytes 0 0 0) 8 own) (markerCell (s.site 0).kernel.sliceBytes 0 5 3) 8 victim
  { s with issuing := some lone }

/-- The own marker of the thread and the word of its thief's count. -/
def markerFits (s : State) : Bool :=
  let size := (s.site 0).kernel.sliceBytes
  decide (16 ≤ size) && !s.poisoned (markerCell size 0 0 0) 16 && !s.cellsClaimed (markerCell size 0 0 0) 16 && !s.cellsClaimed (onChip .cluster 0) 64 && s.activeLanes lone (wordFields 0xE90003A40B05F0D) == [(0, 0)]

theorem witness_TaskInstructions :
    (let s := setLanes base 1 fun l => BitVec.ofNat 64 (63 - l); s.issues (.spawn (wordFields 0xFFFFFFFE0E900000807A5F0B)) grp = true ∧ Memory.wf s.mem = true ∧ ∀ x ∈ s.activeLanes grp (wordFields 0xFFFFFFFE0E900000807A5F0B),
        let k := ((s.weave x.1).opnd (wordFields 0xFFFFFFFE0E900000807A5F0B) (wordFields 0xFFFFFFFE0E900000807A5F0B).a x.2).toNat; let size := (s.site 0).kernel.sliceBytes
        k < 64 ∧ 16 * (k + 1) ≤ size ∧ s.poisoned (markerCell size x.1 x.2 k) 16 = false ∧ s.cellsClaimed (markerCell size x.1 x.2 k) 16 = false) ∧
      (let s := stealing (2 ^ 63 + 9) 0; s.issues (.synct (wordFields 0xE90003A40B05F0D)) lone = true ∧ markerFits s = true ∧ Memory.wf s.mem = true) ∧
      (let s := stealing (2 ^ 62) 0; s.issues (.synct (wordFields 0xE90003A40B05F0D)) lone = true ∧ markerFits s = true ∧ ((s.contribution (s.site 0) 0x18).map fun t => Memory.readNat s.mem (onChip .cluster t + 0x18) 8) = some 0 ∧ s.synctWait lone 0 0 = none ∧ 0x18 + 8 ≤ 32 * (s.site 0).kernel.cluster ∧ s.poisoned (onChip .cluster 0 + 0x18) 8 = false) ∧
      (let s := setMem (stealing (2 ^ 62) 0) (onChip .cluster 0 + 0x18) 8 1; s.issues (.synct (wordFields 0xE90003A40B05F0D)) lone = true ∧ markerFits s = true ∧ ((s.contribution (s.site 0) 0x18).map fun t => Memory.readNat s.mem (onChip .cluster t + 0x18) 8) = some 1 ∧ s.synctWait lone 0 0 = none ∧ 0x18 + 8 ≤ 32 * (s.site 0).kernel.cluster ∧ s.poisoned (onChip .cluster 0 + 0x18) 8 = false) ∧
      (let s := (setMem (stealing (2 ^ 62) 0) (onChip .cluster 0 + 0x18) 8 1).changeWeave 0 fun w => w.waitOn (waitKey 0 (laneBit 0)) (onChip .cluster 0 + 0x18)
      s.issues (.synct (wordFields 0xE90003A40B05F0D)) lone = true ∧ markerFits s = true ∧ s.synctWait lone 0 0 = some (onChip .cluster 0 + 0x18)) ∧
      (let s := stealing 0 (2 ^ 63 + 9); s.issues (.steal (wordFields 0xC30003A40805F0C)) lone = true ∧ s.activeLanes lone (wordFields 0xC30003A40805F0C) = [(0, 0)] ∧ s.cellsClaimed (onChip .cluster 0) 64 = false ∧ Memory.wf s.mem = true ∧
        (s.contribution (s.site 0) 0).isSome ∧ s.poisoned (onChip .cluster 0) 64 = false ∧
        (s.victims (s.site 0) 0 0).findSome? (fun x => (s.validMarker (s.site 0).kernel.sliceBytes x).map fun k => (x, k)) = some ((0, 5), 3)) ∧
      (let s := stealing 0 0; s.issues (.steal (wordFields 0xC30003A40805F0C)) lone = true ∧
        (s.victims (s.site 0) 0 0).findSome? (fun x => (s.validMarker (s.site 0).kernel.sliceBytes x).map fun k => (x, k)) = none) := by decide +kernel

/-- The sets, two reservations named in s12, and every v register of a sound metadata pattern. -/
def quantised : State :=
  setS (sets.changeTeam 0 fun m =>
    { m with reservations := [(0, { base := 0, bytes := 8192, record := 6 }), (1, { base := 8192, bytes := 8192, record := 6 })] }) 12 0x100

/-- The sets, and metadata that selects positions 0, 1 and 2 of each group of twelve: the bytes 0x10, 0x02, 0x21 again and again. -/
def selecting : State :=
  let bytes := fun (o : Nat) => BitVec.ofNat 64 (natOfBytes ((List.range 8).map fun k => ([0x10, 0x02, 0x21] : List Byte).getD ((o + k) % 3) 0))
  setLanes (setLanes (setLanes sets 32 fun l => bytes (8 * l)) 33 fun l => bytes (256 + 8 * l)) 34 fun l => bytes (512 + 8 * l)

set_option maxRecDepth 20000 in
theorem quantised_unplaced : quantised.unplace 0 (BitVec.allOnes 32) = quantised := by rfl

set_option maxRecDepth 20000 in
theorem selecting_unplaced : selecting.unplace 0 (BitVec.allOnes 32) = selecting := by rfl

/-- What the statement about matrix operations asks of one that starts, but for the checks of R244. -/
def unitFree (s : State) (f : Fields) (q : MatAsk) : Bool :=
  let whole := s.wholeSet f grp
  let u := whole.weaves.headD 0
  let w := s.weave u
  s.anyActive whole f && !(q.kind == .fromMemory && s.holds 0 2 (w.opnd f f.b 0).toNat q.memoryBytes) && !s.matrixBusy (s.site 0).core &&
    !s.matrixClaimed whole f w u q && s.matrixPoison whole f w q == none

/-- The checks of R244 but for those of sparse metadata. -/
def readyBut (s : State) (g : Group) (f : Fields) (w : Weave) (q : MatAsk) : Bool :=
  let e := s.site g.team
  let caps := (s.core e.core).capmask
  let off := (w.opnd f f.b 0).toNat
  decide (caps.getLsbD q.a.fmt = true ∧ caps.getLsbD q.b.fmt = true ∧
    (q.cls = .double → tileOf f.d % 2 = 0 ∧ tileOf f.d + 1 < e.kernel.acc) ∧ (∀ n ∈ q.runs f, n < e.kernel.regs) ∧
    (q.kind = .reserved →
      pairOk q.a.fmt q.b.fmt = true ∧ ¬(f.t = 1 ∧ isIntFormat q.a.fmt = true ∧ isIntFormat q.b.fmt = true) ∧
        q.kpos % q.depth = 0 ∧ recordBad q q.a = false ∧ recordBad q q.b = false) ∧
    (q.kind = .fromMemory →
      off % 256 = 0 ∧ off + q.memoryBytes ≤ s.spaceBytes e spaceS ∧ s.failedByte e.team spaceS off q.memoryBytes = none))

theorem ready_of_but {s : State} {g : Group} {f : Fields} {w : Weave} {q : MatAsk} (h : readyBut s g f w q = true)
    (hn : ∀ n, q.kind = .sparse n → ∀ r < 64, ∀ k < 8, ∀ j < n,
      let position := fun i => (positionCodes (((fragment w (g.lanes (g.weaves.headD 0)) (q.runMeta f)).drop (4 * n * r)).take (4 * n))).getD i 0
      position (n * k + j) < 12 ∧ (j = 0 ∨ position (n * k + j - 1) < position (n * k + j))) : s.matrixReady g f w q := by
  obtain ⟨h1, h2, h3, h4, h5, h6⟩ := of_decide_eq_true h
  exact ⟨h1, h2, h3, h4, h5, hn, h6⟩

/-- The four words of the statement, as asked of the unit. -/
def mmaWord : Fields := wordFields 0x660C868004023C1F40
def mmasWord : Fields := wordFields 0x120660C870004023C6B41
def mmamWord : Fields := wordFields 0x660C895024023C9F43
def mmaqWord : Fields := wordFields 0x600C0C880004023C1F42

theorem witness_MatrixResults_mma :
    sets.completesSet (.mma mmaWord) mmaWord grp = true ∧
      sets.matrixReady (sets.wholeSet mmaWord grp) mmaWord (sets.weave 0) { kind := .plain, a := ⟨mmaWord.fa, 0, {}⟩, b := ⟨mmaWord.fb, 0, {}⟩ } ∧
      (sets.wholeSet mmaWord grp).weaves = [0] ∧ unitFree sets mmaWord { kind := .plain, a := ⟨mmaWord.fa, 0, {}⟩, b := ⟨mmaWord.fb, 0, {}⟩ } = true :=
  ⟨completesSet_of sets_unplaced (by decide +kernel), ready_of_but (by decide +kernel) (fun _ h => by simp at h), by decide +kernel, by decide +kernel⟩

/-- The rows of the metadata of `selecting`. -/
theorem selecting_rows : ∀ r < 64, ((fragment (selecting.weave 0) (BitVec.allOnes 32) [32, 33, 34]).drop (12 * r)).take 12 =
    [0x10, 0x02, 0x21, 0x10, 0x02, 0x21, 0x10, 0x02, 0x21, 0x10, 0x02, 0x21] := by
  have h : fragment (selecting.weave 0) (BitVec.allOnes 32) [32, 33, 34] = (List.replicate 256 ([0x10, 0x02, 0x21] : List Byte)).flatten := by decide +kernel
  rw [h]
  decide +kernel

theorem witness_MatrixResults_mmas :
    selecting.completesSet (.mmas mmasWord) mmasWord grp = true ∧
      selecting.matrixReady (selecting.wholeSet mmasWord grp) mmasWord (selecting.weave 0)
        { kind := .sparse (sparseCount mmasWord), a := ⟨mmasWord.fa, 0, {}⟩, b := ⟨mmasWord.fb, 0, {}⟩ } ∧
      (selecting.wholeSet mmasWord grp).weaves = [0] ∧
      unitFree selecting mmasWord { kind := .sparse (sparseCount mmasWord), a := ⟨mmasWord.fa, 0, {}⟩, b := ⟨mmasWord.fb, 0, {}⟩ } = true := by
  refine ⟨completesSet_of selecting_unplaced (by decide +kernel), ?_, by decide +kernel, by decide +kernel⟩
  refine ready_of_but (by decide +kernel) fun n hn r hr k hk j hj => ?_
  have three : sparseCount mmasWord = 3 := by decide +kernel
  have e3 : n = 3 := by rw [three] at hn; simpa using hn.symm
  subst e3
  have run : (({ kind := .sparse (sparseCount mmasWord), a := ⟨mmasWord.fa, 0, {}⟩, b := ⟨mmasWord.fb, 0, {}⟩ } : MatAsk).runMeta mmasWord) = [32, 33, 34] := by decide +kernel
  have set : (selecting.wholeSet mmasWord grp).lanes ((selecting.wholeSet mmasWord grp).weaves.headD 0) = BitVec.allOnes 32 := by decide +kernel
  simp only [run, set]
  rw [show 4 * 3 * r = 12 * r by omega, selecting_rows r hr]
  revert k j
  decide +kernel

theorem witness_MatrixResults_mmam :
    sets.completesSet (.mmam mmamWord) mmamWord grp = true ∧
      sets.matrixReady (sets.wholeSet mmamWord grp) mmamWord (sets.weave 0) { kind := .fromMemory, a := ⟨mmamWord.fa, 0, {}⟩, b := ⟨mmamWord.fb, 0, {}⟩ } ∧
      (sets.wholeSet mmamWord grp).weaves = [0] ∧ unitFree sets mmamWord { kind := .fromMemory, a := ⟨mmamWord.fa, 0, {}⟩, b := ⟨mmamWord.fb, 0, {}⟩ } = true :=
  ⟨completesSet_of sets_unplaced (by decide +kernel), ready_of_but (by decide +kernel) (fun _ h => by simp at h), by decide +kernel, by decide +kernel⟩

/-- The two reservations of `quantised`. -/
def firstHalf : Reservation := { base := 0, bytes := 8192, record := 6 }
def secondHalf : Reservation := { base := 8192, bytes := 8192, record := 6 }

theorem witness_MatrixResults_mmaq :
    quantised.completesSet (.mmaq mmaqWord) mmaqWord grp = true ∧
      quantised.matrixReady (quantised.wholeSet mmaqWord grp) mmaqWord (quantised.weave 0)
        { kind := .reserved, a := ⟨firstHalf.fmt, 0, firstHalf⟩, b := ⟨secondHalf.fmt, 1, secondHalf⟩, kpos := kposOf mmaqWord } ∧
      (quantised.wholeSet mmaqWord grp).weaves = [0] ∧
      unitFree quantised mmaqWord { kind := .reserved, a := ⟨firstHalf.fmt, 0, firstHalf⟩, b := ⟨secondHalf.fmt, 1, secondHalf⟩, kpos := kposOf mmaqWord } = true ∧
      ((quantised.weave 0).sread (handleReg mmaqWord)).toNat = 0 + 1 * 256 ∧ Map.find (quantised.team 0).reservations 0 = some firstHalf ∧
      Map.find (quantised.team 0).reservations 1 = some secondHalf ∧ firstHalf.fmt ≤ 27 ∧ secondHalf.fmt ≤ 27 :=
  ⟨completesSet_of quantised_unplaced (by decide +kernel), ready_of_but (by decide +kernel) (fun _ h => by simp at h), by decide +kernel⟩

theorem witness_MatrixResults_none_active :
    (∀ f ∈ [mmaWord, mmamWord], sets.anyActive (sets.wholeSet f grp) { f with guard := 0 } = false) ∧
      sets.completesSet (.mma { mmaWord with guard := 0 }) { mmaWord with guard := 0 } grp = true :=
  ⟨by decide +kernel, completesSet_of sets_unplaced (by decide +kernel)⟩

theorem witness_MatrixCompletes :
    (let m : MatrixOp := { members := BitVec.allOnes 32, ends := 5 }; let s := { base with clock := 5, mats := [(3, m)] }; Map.find s.mats 3 = some m ∧ m.ends ≤ s.clock) := by decide +kernel

theorem witness_AccumulatorInstructions :
    (let s := base; s.issues (.accz (wordFields 0xE90003A7A7CDF80)) grp = true ∧ s.represented grp (wordFields 0xE90003A7A7CDF80) = [0] ∧ (Map.find s.teams 0).isSome) ∧
      (let s := base; s.issues (.accsc (wordFields 0xE90303A463C1F81)) grp = true ∧ s.represented grp (wordFields 0xE90303A463C1F81) = [0] ∧ (Map.find s.teams 0).isSome) ∧
      (let s := base; s.issues (.accx (wordFields 0xE90003A467C1F82)) grp = true ∧ s.represented grp (wordFields 0xE90003A467C1F82) = [0] ∧ (Map.find s.teams 0).isSome) ∧
      (let s := base; s.issues (.accrd (wordFields 0x1010E90003A7C079F83)) grp = true ∧ s.represented grp (wordFields 0x1010E90003A7C079F83) = [0] ∧ (Map.find s.teams 0).isSome) ∧
      (let s := base; s.issues (.accwr (wordFields 0x3380E90003A47BC1F84)) grp = true ∧ s.represented grp (wordFields 0x3380E90003A47BC1F84) = [0] ∧ (Map.find s.teams 0).isSome) ∧
      (let s := base; s.issues (.accrd { wordFields 0x1010E90003A7C079F83 with d := .zero }) grp = true ∧ s.represented grp { wordFields 0x1010E90003A7C079F83 with d := .zero } = [0]) ∧
      ∀ x < 16, (base.team 0).toxic x (span 0 64) = false := by decide +kernel

/-- Checking the accesses of a tile's rows leaves the state as it is. -/
def rowsPass (s : State) (f : Fields) (need : Need) (off : Nat) : Prop :=
  ∃ places, s.checkAccesses (s.site grp.team) 2 8 need (need == .write) grp.pc (rowAccesses 0 f.rowsLong off (s.active grp f 0)) = .pass s places

/-- One lane of a row is stored and loaded at s1. -/
def oneLane : State := setS (setP base 1 0x80000000) 1 0x400

set_option maxRecDepth 20000 in
theorem witness_AccumulatorInstructions_pass : rowsPass oneLane (wordFields 0x3F0E9000207C3A4785) .write 0x400 ∧ rowsPass oneLane (wordFields 0x3F0E90003A607C0786) .read 0x400 :=
  ⟨⟨_, by rfl⟩, ⟨_, by rfl⟩⟩

theorem witness_AccumulatorInstructions_memory :
    (let s := oneLane; s.issues (.accst (wordFields 0x3F0E9000207C3A4785)) grp = true ∧ s.represented grp (wordFields 0x3F0E9000207C3A4785) = [0] ∧ (Map.find s.teams 0).isSome ∧ rowsTrap (s.site 0).kernel.scratch 0 (wordFields 0x3F0E9000207C3A4785).rowsLong ((s.weave 0).opnd (wordFields 0x3F0E9000207C3A4785) (wordFields 0x3F0E9000207C3A4785).b 0).toNat = none ∧ (s.team 0).toxic 0 (span 63 1) = false ∧ Memory.wf s.mem = true) ∧
      (let s := oneLane; s.issues (.accld (wordFields 0x3F0E90003A607C0786)) grp = true ∧ s.represented grp (wordFields 0x3F0E90003A607C0786) = [0] ∧ (Map.find s.teams 0).isSome ∧ rowsTrap (s.site 0).kernel.scratch 0 (wordFields 0x3F0E90003A607C0786).rowsLong ((s.weave 0).opnd (wordFields 0x3F0E90003A607C0786) (wordFields 0x3F0E90003A607C0786).a 0).toNat = none ∧ (s.team 0).toxic 0 (span 63 1) = false ∧ Memory.wf s.mem = true) := by decide +kernel

/-- A machine with n reservations of 4 KiB, each handle as s1 names it. -/
def reserved (n handle : Nat) : State :=
  setS (base.changeTeam 0 fun m =>
    { m with reservations := (List.range n).map fun k => (k, { base := 4096 * k, bytes := 4096, record := 6, place := [(4096 * k, 4096)] }) }) 1
    (BitVec.ofNat 64 handle)

/-- A machine whose reservations leave two gaps of 2 KiB among their offsets, and one place of 4 KiB in the buffer. -/
def scattered : State :=
  setS (base.changeTeam 0 fun m =>
    { m with reservations := [(0, { base := 2048, bytes := 30720, record := 6, place := [(0, 30720)] }),
                              (1, { base := 34816, bytes := 30720, record := 6, place := [(30720, 30720)] })] }) 1 0

/-- What the statement asks of an OBRES of 4 KiB. -/
def asksFor (s : State) (size : Nat) (f : Fields) : Bool :=
  s.issues (.obres f) grp && s.represented grp f == [0] && (Map.find s.teams 0).isSome && Memory.wf s.mem && ((s.weave 0).opnd f f.a 0).toNat == size

theorem witness_OperandBufferInstructions :
    (let s := reserved 15 0; asksFor s 4096 (wordFields 0x10000E900020BA205F87) = true ∧ (s.team 0).freeHandle = some 15 ∧
        s.opbufPlace (s.team 0).core 0 4096 = some 61440 ∧ (s.team 0).offsetFor 61440 4096 = some 61440) ∧
      (let s := scattered; asksFor s 4096 (wordFields 0x10000E900020BA205F87) = true ∧ (s.team 0).freeHandle = some 2 ∧
        s.opbufPlace (s.team 0).core 0 4096 = some 61440 ∧ (s.team 0).offsetFor 61440 4096 = none ∧ ((s.team 0).reservations.map Prod.fst).Nodup ∧
        ((s.team 0).reservations.map fun x => x.2.bytes).sum + 4096 ≤ 65536 ∧ ∀ x ∈ (s.team 0).reservations, x.2.base + x.2.bytes ≤ 65536) ∧
      (let s := reserved 16 0; asksFor s 4096 (wordFields 0x10000E900020BA205F87) = true ∧ (s.team 0).freeHandle = none) ∧
      (let s := handled (reserved 3 0); asksFor s 4095 { wordFields 0x10000E900020BA205F87 with imm := 4095 } = true ∧ s.mayTrap 0 = true) ∧
      (let s := reserved 3 2; s.issues (.obrel (wordFields 0xE90003A607A5F88)) grp = true ∧ s.represented grp (wordFields 0xE90003A607A5F88) = [0] ∧ (Map.find s.teams 0).isSome ∧ Memory.wf s.mem = true ∧
        (Map.find (s.team 0).reservations 2).map (fun r => (r.base, r.bytes)) = some (8192, 4096) ∧ (s.mats.any fun m => m.2.team = 0 && m.2.reservations.contains 2) = false ∧
        s.cellsClaimed (opbufCell 0 8192) 4096 = false) := by decide +kernel

/-- The record of a reservation of the machine. -/
def isThird (r : Reservation) : Bool := r == { base := 8192, bytes := 4096, record := 6, place := [(8192, 4096)] }

theorem witness_OperandBufferInstructions_records :
    (let s := reserved 3 2; s.issues (.obwr (wordFields 0x1000E900000A07A5F89)) grp = true ∧ s.represented grp (wordFields 0x1000E900000A07A5F89) = [0] ∧ (Map.find s.teams 0).isSome ∧ Memory.wf s.mem = true ∧ (Map.find (s.team 0).reservations 2).map isThird = some true ∧ ((s.weave 0).opnd (wordFields 0x1000E900000A07A5F89) (wordFields 0x1000E900000A07A5F89).a 0).toNat = 2) ∧
      (let s := reserved 3 2; s.issues (.obwr (wordFields 0xE908020A07A5F89)) grp = true ∧ s.represented grp (wordFields 0xE908020A07A5F89) = [0] ∧ (Map.find s.teams 0).isSome ∧ Memory.wf s.mem = true ∧ (Map.find (s.team 0).reservations 2).map isThird = some true ∧ ((s.weave 0).opnd (wordFields 0xE908020A07A5F89) (wordFields 0xE908020A07A5F89).a 0).toNat = 2) ∧
      (let s := reserved 3 2; s.issues (.obrd (wordFields 0xF000E90003A6040DF8A)) grp = true ∧ s.represented grp (wordFields 0xF000E90003A6040DF8A) = [0] ∧ (Map.find s.teams 0).isSome ∧ Memory.wf s.mem = true ∧ (Map.find (s.team 0).reservations 2).map isThird = some true ∧ ((s.weave 0).opnd (wordFields 0xF000E90003A6040DF8A) (wordFields 0xF000E90003A6040DF8A).a 0).toNat = 2) ∧
      (let s := reserved 3 2; s.issues (.obrd (wordFields 0xE90803A6040DF8A)) grp = true ∧ s.represented grp (wordFields 0xE90803A6040DF8A) = [0] ∧ (Map.find s.teams 0).isSome ∧ Memory.wf s.mem = true ∧ (Map.find (s.team 0).reservations 2).map isThird = some true ∧ ((s.weave 0).opnd (wordFields 0xE90803A6040DF8A) (wordFields 0xE90803A6040DF8A).a 0).toNat = 2) ∧
      (wordFields 0xF000E90003A6040DF8A).imm.toNat % 65536 + 256 ≤ 4096 ∧ (∀ l < 32, (reserved 3 2).poisoned (opbufCell 0 2 + 0xF00 + 8 * l) 8 = false) ∧
      (let s := handled (reserved 3 16); s.issues (.obrel (wordFields 0xE90003A607A5F88)) grp = true ∧ s.represented grp (wordFields 0xE90003A607A5F88) = [0] ∧ (Map.find s.teams 0).isSome ∧ s.mayTrap 0 = true ∧ Map.find (s.team 0).reservations 16 = none) ∧
      (let s := handled (reserved 3 3); s.issues (.obwr (wordFields 0x1000E900000A07A5F89)) grp = true ∧ s.represented grp (wordFields 0x1000E900000A07A5F89) = [0] ∧ (Map.find s.teams 0).isSome ∧ s.mayTrap 0 = true ∧ Map.find (s.team 0).reservations 3 = none) ∧
      (let s := handled (reserved 3 3); s.issues (.obrd (wordFields 0xF000E90003A6040DF8A)) grp = true ∧ s.represented grp (wordFields 0xF000E90003A6040DF8A) = [0] ∧ (Map.find s.teams 0).isSome ∧ s.mayTrap 0 = true ∧ Map.find (s.team 0).reservations 3 = none) ∧
      (let s := handled (reserved 3 2); let f := { wordFields 0x1000E900000A07A5F89 with imm := 0xF08 }; s.issues (.obwr f) grp = true ∧ s.represented grp f = [0] ∧ s.mayTrap 0 = true ∧
        (Map.find (s.team 0).reservations 2).map isThird = some true ∧ s.cellsClaimed (opbufCell 0 8192) 4096 = false ∧ f.x = false ∧ 4096 < f.imm.toNat % 65536 + 256) ∧
      (let s := handled (reserved 3 2); let f := { wordFields 0xF000E90003A6040DF8A with imm := 4 }; s.issues (.obrd f) grp = true ∧ s.represented grp f = [0] ∧ f.imm.toNat % 65536 % 8 ≠ 0) := by decide +kernel

/-! ### Events -/

/-- A thread parked on a line, one within its yield period, and a bin of one place. -/
def waiter : Wait := { line := 4096, pc := 2, dest := .p 3, until? := some 5, parked := 1, first := (0, 0) }

def parkedOn (clock : Nat) (picked : Option Nat := none) : State :=
  ({ base with clock := clock, issuing := none }.changeWeave 0 fun w => { w with waits := [(4, waiter)], yielding := [(7, 9)] }).changeCore 0 fun k =>
    { k with bins := [(2, { team := 0, shadow := false, pc := 6, places := [(9, 0)], wait := 2000, picked := picked })] }

/-- Every bin of core 0 stands, and two threads of a slot wait for one; bin 2 is taken. -/
def overflowing : State :=
  (parkedOn 6).changeCore 0 fun k =>
    { k with
      bins := (List.range 64).map fun n => (n, { team := 0, shadow := false, pc := BitVec.ofNat _ (n + 6), places := [(9, 0)], picked := if n = 2 then some 0 else none })
      overflow := [{ weave := 0, lane := 9, team := 0, shadow := false, pc := 70, wait := 5 }, { weave := 0, lane := 9, team := 0, shadow := false, pc := 70, wait := 3 }] }

/-- Gang 0 with a window, a report or a weave on its way back from another module. -/
def watched : State :=
  ({ base with clock := 70000 }.changeGang 0 fun k => { k with pdis := some { opened := 4464, crit := true }, requested := true }).changeWeave 0 fun w =>
    { w with recovering := [(4, 0, 2)] }

theorem witness_ThreadEvents :
    (let s := parkedOn 6; (Map.find s.weaves 0).isSome ∧ Map.find (s.weave 0).waits 4 = some waiter ∧ (s.weave 0).live.getLsbD 4 = true ∧ (∃ y ∈ waiter.until?, y < s.clock)) ∧
      (let s := parkedOn 5; Map.find (s.weave 0).waits 4 = some waiter ∧ ∀ y ∈ waiter.until?, s.clock ≤ y) ∧
      (let s := parkedOn 6; Map.find (s.weave 0).yielding 7 = some 9) ∧
      (let s := parkedOn 6; (match Map.find (s.core 0).bins 2 with | some b => decide ((s.contextOf b.team).fairTimer < b.wait) && !(s.contextOf b.team).noProg | none => false) = true ∧
        (Map.find (s.core 0).bins 2).map (fun b => b.picked) = some none) ∧
      (let s := parkedOn 6 (some 0); (Map.find (s.core 0).bins 2).map (fun b => b.picked.isSome) = some true ∧ (s.core 0).overflow = []) ∧
      (let s := overflowing; (Map.find (s.core 0).bins 2).map (fun b => b.picked.isSome) = some true ∧ (s.core 0).overflow.length = 2 ∧
        ∀ m < 64, m ≠ 2 → (Map.find (s.core 0).bins m).isSome) := by decide +kernel

theorem witness_GangWatchEvents :
    (let s := watched; (Map.find s.gangs 0).isSome ∧ s.hasRoom 0 = true ∧ ((s.gang 0).pdis.map fun p => decide (p.opened + 65536 ≤ s.clock)) = some true ∧ (s.gang 0).cores = [0]) ∧
      (let s := (base.changeGang 0 fun k => { k with lived := 2 ^ 60 }); (Map.find s.weaves 0).isSome ∧ (s.team 0).gang = 0 ∧ (s.gang 0).counts = true ∧ Map.find (s.weave 0).recovering 31 = none ∧ (s.weave 0).live.getLsbD 31 = true ∧ s.hasRoom 0 = true ∧
        s.watchdogPeriod (s.sub (s.gang 0).sub).slice ≤ (s.gang 0).lived - (s.weave 0).lastIssued 31) ∧
      (let s := { watched with ptimeBase := 2 ^ 60 }; (Map.find s.weaves 0).isSome ∧ (s.gang 0).counts = true ∧ s.hasRoom 0 = true ∧
        (s.team 0).gang = 0 ∧ (4, 0, 2) ∈ (s.weave 0).recovering ∧ 0 + (s.part (s.partOfGang 0)).ceiling ≤ s.ptime) := by decide +kernel

/-- A side-log entry of two bytes, and the page that has come. -/
def side : SideEntry :=
  { slice := 0, asid := 0, page := 0x100000, team := 0, members := [(0, 1)], pc := 3, addr := 0x101000, op := .store [(0x101000, 1), (0x101001, 2)] }

def logged : State := base.changeCore 0 fun k => { k with sideLog := [side] }

/-- The same, with a page that may not be written. -/
def loggedReadOnly : State := logged.changeCore 0 fun k => { k with tlb := k.tlb.map fun t => { t with canWrite := false } }

/-- A dirty line behind a release, and a clean line that is old. -/
def releasing : State :=
  { base with clock := 65536 }.changeCore 0 fun k =>
    { k with releases := [{ line := 0x2020, lines := [0x2021] }], requests := [⟨0, 0, 0x300000, 0⟩]
             l1 := [(0x2020, { bytes := List.replicate 128 (some 7), dirty := [5], uo := false, writers := [0], filled := 0 }),
                    (0x2022, { bytes := List.replicate 128 (some 7), dirty := [], uo := false, writers := [], filled := 0 })] }

/-- The entry releases; its line's neighbour is dirty. -/
def loggedRelease : State :=
  base.changeCore 0 fun k =>
    { k with sideLog := [{ side with release := true }]
             l1 := [(0x2020, { bytes := List.replicate 128 (some 7), dirty := [5], uo := false, writers := [0], filled := 0 })] }

theorem witness_MemoryUnitEvents_release :
    (let s := loggedRelease; (s.core 0).sideLog = [{ side with release := true }] ∧ (s.core 0).dirtyRc = [0x2020] ∧ s.reportsFit = true) := by decide +kernel

theorem witness_MemoryUnitEvents :
    (let s := logged; s.reportsFit = true ∧ (s.core 0).sideLog = [side] ∧ side.page = 0x100000 ∧ ((s.core 0).tlb.find? fun t => t.covers side.asid 0x100000).isSome ∧ (((s.core 0).tlb.find? fun t => t.covers side.asid 0x100000).map fun tr => s.permits tr .write (tr.pa side.addr) 1 && !s.movesFor side.asid tr && tr.stored (tr.pa 0x101000) && tr.stored (tr.pa 0x101001) && !s.poisoned (tr.pa 0x101000) 2 && tr.stored (tr.pa side.addr) && tr.pa 0x101000 != tr.pa 0x101001) = some true ∧ Memory.wf s.mem = true) ∧
      (let s := loggedReadOnly; (s.core 0).sideLog = [side] ∧ (((s.core 0).tlb.find? fun t => t.covers side.asid 0x100000).map fun tr => s.permits tr .write (tr.pa side.addr) 1) = some false ∧ s.hasRoom 0 = true ∧ (side.members.map Prod.fst).Nodup ∧ (Map.find s.weaves 0).isSome) ∧
      (let s := releasing; (s.core 0).sideLog = [] ∧ s.copies = [] ∧ s.reportsFit = true ∧ (∃ q ∈ (s.core 0).requests, q.page = 0x300000 ∧ q.posted + 1000000 ≤ { s with ptimeBase := 1000000 }.ptime) ∧ Memory.wf s.mem = true ∧
        ((s.core 0).releases.find? fun x => x.line = 0x2020) = some { line := 0x2020, lines := [0x2021] } ∧
        ((Map.find (s.core 0).l1 0x2022).map fun l => l.dirty == [] && decide (l.filled + 65536 ≤ s.clock)) = some true) := by decide +kernel

/-- The page at 0x400000 is mapped to physical 0x300000. -/
def mapped : State := setMem missing 0x240000 8 0x300087

/-- A part of one die whose fault ring, at 0x401000, has room where HEAD is not 1; a record waits. -/
def reporting (head : Nat) : State :=
  let s := setMem (setMem (setMem mapped 0x300070 8 0x401000) 0x300078 4 64) 0x30007C 4 head
  { s with parts := [(0, { dies := [0], regs := [(regRootRcb, 0x400000)] })], dies := [(0, { pending := [(0, List.replicate 64 3)] })] }

theorem witness_ErrorEvents :
    (∃ t ∈ (reporting 0).ringRecord 0 (List.replicate 64 3), (t.die 0).pending = ((reporting 0).die 0).pending) ∧ ((reporting 1).ringRecord 0 (List.replicate 64 3)).isNone ∧
      (let s := { base with parts := [(0, { dies := [0] })], ptimeBase := 2 ^ 60, gangs := [] }; (s.partOfCore 3).testing = true ∧ (s.core 3).testRuns = false ∧ (s.core 3).testDue = none ∧ s.testExpired 3 = true ∧ s.gangsOn 3 = []) ∧
      (let s := { base with parts := [(0, { dies := [0] })] }.changeCore 3 fun k => { k with testDue := some 0 }; s.gangsOn 3 = [] ∧ s.reportsFit = true ∧ (s.core 3).testDue.isSome ∧ ∀ x ∈ s.teams, x.2.core ≠ 3) ∧
      (let s := base.changeCore 0 fun k => { k with testRuns := true }; (s.core 0).testRuns = true) := by decide +kernel

/-- A root node: a budget of 2^40 clocks in periods of 1000 ns, a watchdog of 4096, a save area at 0x402000 and a
checkpoint target at 0x403000. -/
def rootNode : Node :=
  let limits := bytesOfNat 4 2047 ++ bytesOfNat 8 (2 ^ 40) ++ bytesOfNat 8 1000
  let area := bytesOfNat 4 4096 ++ bytesOfNat 8 0x402000 ++ bytesOfNat 8 0x403000
  { readable := true, fields := List.replicate 12 0 ++ limits ++ List.replicate 8 0 ++ bytesOfNat 4 8 ++ List.replicate 24 0 ++ area ++ List.replicate 168 0 }

/-- Gang 0 on a part of one die, its slice under the node of its RCB, with a second gang of its sub-launch to place. -/
def parted : State :=
  { mapped with parts := [(0, { dies := [0] })], nodes := [(0, rootNode)], gangs := mapped.gangs ++ [(1, { sub := 0, gangId := 1 })] }

/-- Core 0, on which gang 0 stands, is due for its test since 0; the others of the die run theirs or not; a wait has been over since 0. -/
def testing (busy : Bool) (wait : Map Nat) (enabled : Bool) : State :=
  let s := { parted with cores := (List.range 160).map fun c => (c, ({ testRuns := c != 0 && busy } : Core)) }
  let s := s.changeCore 0 fun k => { k with testDue := some 0, testWait := wait }
  s.changeCtx 0 fun x => { x with ckptEn := enabled }

theorem witness_ErrorEvents_due :
    (let s := testing false [] false; (s.partOfCore 0).testing = true ∧ (s.core 0).testRuns = false ∧ (s.core 0).testDue.isSome ∧ s.notAsked 0 = [0] ∧ (s.gang 0).stands = true ∧
        (((s.changeCore 0 fun k => { k with testDue := some (k.testDue.getD s.ptime), testWait := [] }).withoutGangs [0]).runForSaved 0).isSome) ∧
      (let s := testing true [] false; s.notAsked 0 = [0] ∧ (((s.changeCore 0 fun k => { k with testDue := some (k.testDue.getD s.ptime), testWait := [] }).withoutGangs [0]).runForSaved 0).isNone) := by decide +kernel

theorem witness_ErrorEvents_wait_over :
    (let s := testing true [(0, 0)] true; s.waitedOut 0 = [0] ∧ (s.gang 0).stands = true ∧ (Map.find s.slices (s.sub (s.gang 0).sub).slice).isSome ∧ (s.ctx 0).ckptEn = true ∧
        (s.core 0).testCuts.contains 0 = false) ∧
      (let s := (testing true [(0, 0)] true).changeCore 0 fun k => { k with testCuts := [0] }; s.waitedOut 0 = [0] ∧ s.cutPending 0 = false ∧
        ((s.changeSlice 0 fun l => { l with ckptAsked := some 0 }).cutPending 0) = true) ∧
      (let s := testing true [(0, 0)] false; s.waitedOut 0 = [0] ∧ (s.ctx 0).ckptEn = false) := by decide +kernel

theorem witness_ErrorEvents_test :
    (let s := { (testing false [] false) with gangs := [], teams := [] }; (s.core 0).testDue.isSome ∧ (s.core 0).testRuns = false ∧ (s.partOfCore 0).testing = true ∧ s.gangsOn 0 = [] ∧ s.reportsFit = true ∧
        (s.core 0).capmask &&& 1 ≠ 0) := by decide +kernel

/-- Gang 0 saved, and its team with it. -/
def savedGang : State :=
  ({ parted with groups := [], issuing := none }.changeGang 0 fun k =>
    { k with state := .preempted, cores := [], saved := some { groups := [grp], cores := [0] } })

/-- A bank of its old core is claimed by a newcomer. -/
def claimedBank (begun : Bool) : State :=
  savedGang.changeCore 0 fun k => { k with claims := [{ array := .registers, bank := 0, gangs := [1], begun := begun }], holdings := [{ team := 0, array := .registers, runs := [(0, 64)] }] }

def movable (s : State) : Bool :=
  match s.runForSaved 0, (s.gang 0).saved with
  | some cores, some x =>
    match s.restoreTeams 0 (cores != x.cores) (fun v => cores.getD ((s.team v).index / max 1 (1 / max 1 cores.length)) 0) x.controls (s.gangTeams 0) with
    | .ok a => a.reportsFit
    | _ => false
  | _, _ => false

/-- The control records of gang 0 and the header of its save area can be written. -/
def savable (s : State) : Bool :=
  let a0 := (s.withdrawAll 0).withdrawWaits 0
  match a0.saveControls (a0.gangTeams 0) [] with
  | (.ok _, a) =>
    match a.saveHeader (s.sub (s.gang 0).sub).slice ((s.gang 0).cores.headD 0) with
    | (.ok (), b) => b.reportsFit
    | _ => false
  | _ => false

theorem witness_PlacementEvents_places :
    (let s := parted; let k := s.gang 1; k.state = .unplaced ∧ k.saved = none ∧ k.killed = false ∧ (s.slice (s.sub k.sub).slice).places = true ∧ s.partRuns 0 = true ∧
        (s.fn (s.slice (s.sub k.sub).slice).fn).stopping = false ∧ s.lowerWaits 1 = false ∧ s.critFirst 0 = false ∧ (s.runForNew 1).isSome) ∧
      (let s := { parted with parts := [] }; (s.runForNew 1).isNone ∧ s.lowerWaits 1 = false ∧ s.critFirst 0 = false) := by decide +kernel

theorem witness_PlacementEvents_others :
    (let s := { base with clock := 9 }.changeSlice 0 fun l => { l with stagedUntil := some 9 }; (s.slice 0).stagedUntil = some 9 ∧ 9 ≤ s.clock) ∧
      (let s := parted.changeSub 0 fun u => { u with sets := [{ base := 0x400000, toScratch := false, prio := 0, bytes := 4096, soff := 0 }] }
      s.stages 0 0 = true ∧ (s.sub 0).nextSet = some 0 ∧ (s.sub 0).sets.length = 1) ∧
      (let s := parted.changeSub 0 fun u => { u with sets := [{ base := 0x400000, toScratch := false, prio := 0, bytes := 4096, soff := 0 }], staging := [(0, 1)] }
      s.stages 0 0 = true ∧ (s.sub 0).nextSet = none ∧ (s.sub 0).nextFill = some 0 ∧ (s.sub 0).sets.length = 1) ∧
      (let s := { savedGang with parts := [(0, { dies := [] })] }; s.mayResume 0 = true ∧ s.runForSaved 0 = none) ∧
      (parted.gang 0).stands = true ∧ (parted.gang 0).draining = none ∧ savedGang.mayResume 0 = true ∧ movable { savedGang with teams := [] } = true ∧ ({ savedGang with teams := [] } : State).mayResume 0 = true ∧ (Map.find savedGang.slices 0).isSome ∧ (savedGang.gang 0).stands = false ∧
      (let s := { parted with teams := [] }.changeGang 0 fun k => { k with draining := some (0, false) }; (s.gang 0).stands = true ∧ (s.gang 0).draining.isSome ∧ savable s = true) ∧
      (let s := claimedBank false; (s.core 0).nextClaim.map (fun y => y.begun) = some false ∧ s.reportsFit = true) ∧
      (let s := claimedBank true; (s.core 0).nextClaim.map (fun y => y.begun) = some true ∧ s.reportsFit = true ∧ s.residents 0 .registers 0 = [0] ∧ s.dirtyPieces 0 = [] ∧ (s.team 0).ended = false) ∧
      (savedGang.core 0).claims = [] := by decide +kernel

/-- A bound queue of function 0 whose next slice is of a kind; its ring is at 0x408000. -/
def queueing (kind : SliceKind) : State :=
  let l : Slice := { kind := kind, rcb := 0, sigCtr := some 3, ctrValue := 0xFFFFFFFE, subs := [1] }
  let s := { parted with slices := parted.slices ++ [(1, l)], gangs := [(0, { sub := 0, state := .running, cores := [0] })] }
  let u : Sub := { slice := 1, kernel := some { fetchKernel with shadowEntry := none }, gangs := 1 }
  let s := { s with subs := s.subs ++ [(1, u)] }
  { s with parts := [(0, { dies := [0], regs := [(regRootRcb, 0x400000)] })], queues := [(0, { bound := true, ringBase := 0x408000, slices := [1] })] }

theorem witness_SliceEvents_picks :
    (let s := queueing .ctrset; s.picked 0 .ctrset = some 1 ∧ (s.slice 1).cplAddr = none ∧ s.reportsFit = true ∧ s.ranked 0 = [1] ∧ s.canStart 1 = true ∧ s.standsBack [1] 1 = false) ∧
      (let s := queueing .nop; s.picked 0 .nop = some 1 ∧ (s.slice 1).cplAddr = none ∧ s.reportsFit = true ∧ s.ranked 0 = [1] ∧ s.canStart 1 = true) ∧
      (let s := queueing .launch; s.picked 0 .launch = some 1 ∧ (s.readChain 0 chainFuel (nodeKey 0 0)).reportsFit = true ∧ (s.sub 1).state = .waiting ∧ s.edgesMet 1 (s.sub 1) = true) := by decide +kernel

/-- Slice 0 fills the one core that is not under test, and slice 1, whose deadline is earlier, needs all of it. -/
def crowded : State :=
  let s := (queueing .launch).changeSub 0 fun u => { u with kernel := some { fetchKernel with scratch := 491520 } }
  let s := (s.changeSub 1 fun u => { u with kernel := some { fetchKernel with scratch := 491520 } }).changeSlice 1 fun l => { l with deadline := 5 }
  { s with cores := s.cores ++ (List.range 159).map fun c => (c + 1, ({ testRuns := true } : Core)) }.changeSlice 0 fun l => { l with deadline := 9 }

theorem witness_SliceEvents_displaces :
    crowded.ranked 0 = [1] ∧ crowded.canStart 1 = false ∧ crowded.displaced 1 = [.preemptRequest 0] := by decide +kernel

theorem witness_SliceEvents_others :
    (let s := parted.changeSlice 0 fun l => { l with budget := 0 }; (s.slice 0).told = false ∧ (s.slice 0).state = .running ∧ (s.slice 0).budget = 0 ∧ s.standingGangs 0 ≠ [] ∧ s.hasRoom 0 = true) ∧
      (let s := parted.changeNode 0 fun n => { n with used := 2 ^ 41 }; (s.node 0).fields ≠ [] ∧ (s.node 0).spent = false ∧ s.nodeBudget (s.tailOf 0) ≤ (s.node 0).used ∧ s.reportsFit = true ∧ s.dies = []) ∧
      (let s := parted.changeNode 0 fun n => { n with fields := [] }; (s.node 0).fields = [] ∧ s.reportsFit = true) ∧
      (let s := { parted with clock := 940 }; (s.node 0).fields ≠ [] ∧ s.ptimeBefore / s.nodePeriod (s.tailOf 0) ≠ s.ptime / s.nodePeriod (s.tailOf 0) ∧ (s.node 0).renewedAt ≠ s.clock ∧
        s.reportsFit = true ∧ (s.die 0).pending.length + 4 ≤ 256) ∧
      (let s := { parted with clock := 941 }; s.ptimeBefore / s.nodePeriod (s.tailOf 0) = s.ptime / s.nodePeriod (s.tailOf 0)) ∧
      (let s := (queueing .launch).changeSub 1 fun u => { u with state := .started, gangsDone := 1 }
      (s.slice 1).subs.contains 1 = true ∧ s.subDone 1 1 = true ∧ s.reportsFit = true) ∧
      (parted.ptime < ({ parted with nodes := [(0, { rootNode with reRead := 5 })] }.node 0).reRead + 1000000) := by decide +kernel

/-- A node at an address, that was read or not, and what a re-read after 1 ms meets. -/
def nodeAt (a : Nat) (read : Bool) : State :=
  { parted with nodes := [(a, { rootNode with readable := read, fields := if read then rootNode.fields else [] })], ptimeBase := 10 ^ 9 }

def rereadMeets (s : State) (a : Nat) (p : List Byte → Bool) (q : Byte → Bool) : Bool :=
  decide ((s.node a).reRead + 1000000 ≤ s.ptime) &&
    match s.deviceGet (s.deviceWalker (s.node a).fn) a 256 with
    | (.ok bs, b) => p bs && b.reportsFit
    | (.error m, b) => q m.1 && b.reportsFit

theorem witness_SliceEvents_rereads :
    (∀ read ∈ [true, false], rereadMeets (nodeAt 0x404000 read) 0x404000 (fun bs => natOfBytes (bs.take 8) == 0) (fun _ => false) = true) ∧
      (nodeAt 0x404000 true).node 0x404000 = rootNode ∧ rootNode.readable = true ∧ rootNode.fields.length = 256 ∧ natOfBytes (rootNode.fields.take 8) = 0 ∧
      rereadMeets (nodeAt 0x500000 true) 0x500000 (fun _ => false) (fun c => c != causePoison) = true := by decide +kernel

/-- The entry of a job slice of kind NOP (R344), at 0x409000, which is physical 0x309000. -/
def ringed : State :=
  let s := (queueing .nop).changeSlice 1 fun l => { l with state := .retired }
  { s with
    mem := Memory.writeBytes s.mem 0x308000 [2], queues := [(0, { bound := true, ringBase := 0x408000, tail := 1 })] }

def readsSlice (s : State) : Bool :=
  let q := s.queue 0
  match s.deviceGet (s.deviceWalker 0) ((q.ringBase + 64 * (q.next % max 1 q.ringSize)) % 2 ^ 56) 64 with
  | (.ok bs, a) =>
    match (readingSlice (s.deviceWalker 0) (a.part (a.fn 0).part).dies.length (a.fn 0).counters (sliceOfEntry 0 0 0 q bs) q bs).run.run a with
    | (.ok _, _) => true
    | _ => false
  | _ => false

theorem witness_SliceEvents_read :
    ringed.mayRead 0 = true ∧ readsSlice ringed = true := by decide +kernel

/-- The scheduler's machine: slice 0 named by 0, in a state. -/
def sliced (x : SliceState) : State := parted.changeSlice 0 fun l => { l with state := x }

/-- Its gang parked, with a handler and a thread that waits. -/
def parkedGang : State :=
  ((handled (sliced .running)).changeGang 0 fun k => { k with state := .parked, report := some { cause := 0x0A } }).changeWeave 0 fun w =>
    { w with waits := [(4, waiter)] }

theorem witness_SchedulerCommands :
    (let s := sliced .held; nameOk 0 = true ∧ s.sliceNamed 0 0 = some 0 ∧ (s.slice 0).state = .held) ∧
      (let s := sliced .running; nameOk 0 = true ∧ s.sliceNamed 0 0 = some 0 ∧ s.gangsNamed 0 0 ≠ [] ∧ (s.slice 0).live = true ∧ (s.slice 0).state ≠ .dispatched) ∧
      (let s := sliced .dispatched; nameOk 0 = true ∧ s.sliceNamed 0 0 = some 0 ∧ s.gangsNamed 0 (BitVec.allOnes 64) ≠ []) ∧
      (let s := sliced .running; (s.killSlice 0 killedStatus 0xFF 7).reportsFit = true ∧ (s.slice 0).state ≠ .killed ∧ s.justOver 0 = false) ∧
      (let s := { sliced .running with clock := 7 }.changeSub 0 fun u => { u with state := .started, gangsDone := u.gangs, retiredAt := 7 }; s.justOver 0 = true ∧ s.reportsFit = true) ∧
      (let s := { sliced .dispatched with gangs := savedGang.gangs }; s.gangsNamed 0 (BitVec.allOnes 64) ≠ [] ∧ (s.gangs.any fun x => (s.slice 0).subs.contains x.2.sub && x.2.saved.isSome) = true) ∧
      (let s := sliced .queued; (s.killSlice 0 cancelledStatus 0xFF 0).reportsFit = true ∧ nameOk 0 = true ∧ s.sliceNamed 0 0 = some 0) := by decide +kernel

theorem witness_SchedulerCommands_gangs :
    (let s := parkedGang; nameOk 0 = true ∧ s.sliceNamed 0 0 = some 0 ∧ (s.gangsWith 0 0).find? (fun x => (s.gang x).state == .parked) = some 0 ∧ s.resumeWaits 0 0 = false ∧ (s.gangWeaves 0).all (fun w => w.2.entry.isNone) = true ∧ s.reportsFit = true) ∧
      (let s := parkedGang; s.weaveNamed 0 0 0 = some 0 ∧ (s.sub (s.gang 0).sub).handler = some 4 ∧ s.frameReady 0 = true ∧ bits 0x0A 15 8 = 0) ∧
      (let s := sliced .running; s.slicesUnder 0 0 = [0] ∧ (s.failPage 0 0x400000).reportsFit = true ∧ (s.slice 0).live = true ∧ s.standingGangs 0 ≠ []) ∧
      (let s := { sliced .preempted with gangs := savedGang.gangs }; s.slicesUnder 0 0 = [0] ∧ s.standingGangs 0 = []) := by decide +kernel

/-- A machine awake, whose function 0 has a command at the head of its ring, at physical 0x350000; its completion word is at 0x360000. -/
def commanded (op level asid base length : Nat) : State :=
  let word := [BitVec.ofNat 8 op, BitVec.ofNat 8 level] ++ bytesOfNat 2 asid ++ bytesOfNat 4 0 ++ bytesOfNat 8 base ++ bytesOfNat 8 length ++ bytesOfNat 8 0x360000
  { parted with mem := Memory.writeBytes parted.mem 0x350000 word, root := { up := true, booted := true } }.changeFn 0 fun f =>
    ((f.setReg regTqBase 0x350000).setReg regTqSize 64).setReg regTqTail 1

/-- The command is in order but for its own fields. -/
def commandIs (s : State) (p : Command → State → Bool) : Bool :=
  match s.command 0 with
  | some (c, a) => stored c.cpl && p c a
  | none => false

/-- A cut still holds a frame that the SCRUB would free. -/
def held (k : Nat) : State :=
  { commanded 2 0 0 0x900000 65536 with
    ckpts := [(0, { stream := some { target := { base := 0xF4 * 2 ^ 44, size := 2 ^ 24 }, start := 0x10000, left := [{ bytes := [], unit := .page 0 k }] } })] }

theorem witness_TranslationCommands :
    commandIs (commanded 1 0 0 0x400000 0) (fun c _ => c.op == 1 && c.ok && c.level == 0 && (commanded 1 0 0 0x400000 0).mayName 0 c.asid) = true ∧
      commandIs (commanded 1 0 0 0x400001 0) (fun c _ => c.op == 1 && !c.ok) = true ∧
      commandIs (commanded 2 0 0 0x900000 65536) (fun c a => c.op == 2 && c.ok && c.level == 0 && c.asid == 0 && c.frames == [0x90] &&
        (commanded 2 0 0 0x900000 65536).mayFree 0 0x90 && !a.heldFrame 0x90) = true ∧ ((commanded 2 0 0 0x900000 65536).fn 0).scrubbing = false ∧
      commandIs (commanded 2 1 0 0x900000 65536) (fun c _ => c.op == 2 && c.level != 0) = true ∧
      commandIs (held 0x90) (fun c a => c.op == 2 && c.frames == [0x90] && (held 0x90).mayFree 0 0x90 && a.heldFrame 0x90) = true ∧
      (∀ level < 5, commandIs (commanded 1 level 0 0x400000 65536) (fun c _ => c.op == 1 && c.ok && c.level == level && (commanded 1 level 0 0x400000 65536).mayName 0 c.asid) = true) ∧
      commandIs (commanded 3 0 0 0x900000 131072) (fun c _ => c.op == 3 && c.ok && c.level == 0 && c.asid == 0) = true ∧
      commandIs (commanded 9 0 0 0 0) (fun c _ => 3 < c.op) = true ∧
      (parted.command 0).isNone := by decide +kernel

/-- A page of 0x400000 that moves, here or at its old home, in a partition of two dies of a module that runs. -/
def moving (inward : Bool) : State :=
  let leaf := 0x300087 + 2 ^ 56 + (if inward then 2 ^ 57 else 0)
  let s := setMem mapped 0x240000 8 leaf
  let s := { s with root := { up := true, booted := true }, parts := [(0, { dies := [0, 1] })], cores := [] }
  { s with frames := [(0x30, { migv := true, ownFn := 0, pteAddr := 0x240000, va := 0x400000 })] }.changeFn 0 fun f => { f with pool := [0x90] }

def leafIs (s : State) (p : Translation → State → Bool) : Bool :=
  match s.walk 0 0x400000 with
  | (.leaf t, a) => bit (Memory.readNat a.mem t.leaf 8) 56 && !bit (Memory.readNat a.mem t.leaf 8) 58 && t.size == 65536 && t.page == 0x400000 && p t a
  | _ => false

def move (inward : Bool) : PageMove :=
  { fn := 0, va := 0x400000, inward := inward, data := if inward then List.replicate 65536 3 else [], peer := 2, peerFrame := 5, winStart := 0, settleEnd := 0, moves := 2 }

/-- The same page with a frame that may leave, which a partition without its die would not own. -/
def mayLeave (a : State) (home : Nat) : Bool :=
  (a.frame home).migv && a.ownsFrame 0 home && (a.frame home).tenant == (a.fn 0).tenant && !(a.frame home).refuses (a.frame home).tenant

theorem witness_TranslationCommands_moves :
    (moving true).inRecovery 0 = false ∧
      leafIs (moving true) (fun t a => t.remote && a.poolFrames 0 == [0x90] && (a.countMove (move true)).1 != 4) = true ∧ Memory.wf (moving true).mem = true ∧
      ((moving true).cores.all fun c => c.2.l1.isEmpty) = true ∧
      leafIs (moving false) (fun t a => !t.remote && mayLeave a (t.frame / 65536) &&
        (a.countMove { move false with moves := BitVec.ofNat 4 (bits (Memory.readNat a.mem t.leaf 8) 62 59), winStart := (a.frame (t.frame / 65536)).winStart }).1 != 4) = true ∧ ((moving false).cores.all fun c => c.2.l1.isEmpty) = true ∧
      leafIs { moving false with parts := [(0, { dies := [1] })] } (fun t a => !mayLeave a (t.frame / 65536)) = true ∧
      ({ moving true with root := {} } : State).inRecovery 0 = true ∧ Memory.wf (moving false).mem = true ∧
      (let s := setMem (moving false) 0x240000 8 (0x300087 + 2 ^ 58); (s.frame 0x30).migv = true ∧ bit (Memory.readNat s.mem (s.frame 0x30).pteAddr 8) 58 = true ∧
        (s.frame 0x30).settleAt ≤ s.ptime / 1000 ∧ (s.fn (s.frame 0x30).ownFn).reg regEvSize = 0 ∧ Memory.wf s.mem = true ∧ (s.cores.all fun c => c.2.l1.isEmpty) = true) := by decide +kernel

/-- A machine awake, with a bound queue, an open inbound window onto a frame of function 0, and a job. -/
def hosted : State :=
  let s := { parted with
    root := { up := true, booted := true }, parts := [(0, { dies := List.range 16 })], queues := [(0, { bound := true, qcb := 0x350000, tenant := 7 })]
    frames := [(0x36, { tenant := 7 })], inWin := [(0, 0x10000, BitVec.ofNat 64 (1 + 2 + 0x360000))], jobs := [(3, jobOf [] 0)] }
  s.changeFn 0 fun f => { f with tenant := 7, owed := [0] }

/-- A queue can be bound whose control block is at 0x380000 and whose RCB, a root, is at 0x404000. -/
def bindable : Bool :=
  let s := { hosted with mem := Memory.writeBytes (Memory.writeBytes hosted.mem 0x380040 (bytesOfNat 8 0x404000 ++ [7])) 0x304000 rootNode.fields }
  (s.tryBind 0 1 0x380000).isSome

theorem witness_HostAndPeers :
    (let s := hosted; s.awake = true ∧ s.binding = false ∧ s.mayNotify 0 0 = true ∧ s.poisoned 0x350000 24 = false ∧ s.mayNotify 0 1 = false ∧ (s.queue 0).bound = true ∧ (s.fn 0).inReset = false ∧ s.hasRoom 0 = true ∧
        (s.fn 0).reg regQbind ≠ bindWord 1 0 0 + 2 ^ 63 ∧ s.idleQueue 0 = true) ∧
      (let s := parted; s.awake = false) ∧
      (hosted.tryBind 0 1 0x370000).isNone ∧
      (let s := hosted.changeFn 0 fun f => f.setReg regQbind (bindWord 1 0 0 + 2 ^ 63); (s.fn 0).reg regQbind = bindWord 1 0 0 + 2 ^ 63) ∧
      bindable = true ∧ hosted.mayConfigure 9 (5 + 16 * 2 ^ 16 + 2 ^ 32) = true ∧ hosted.mayConfigure 9 (5 + 129 * 2 ^ 16 + 2 ^ 32) = false ∧ (Map.find hosted.parts 0).isSome ∧
      (let s := hosted; ((List.range 128).foldl (fun (t : State) k => t.resetFn k) s).reportsFit = true) ∧
      (let s := hosted.changeFn 0 fun f => { f with inReset := true }; let s := s.changeSlice 0 fun l => { l with state := .retired }
      (s.fn 0).inReset = true ∧ (s.fn 0).scrubbing = false ∧ s.slices.all (fun l => l.2.fn != 0 || l.2.past) = true) ∧
      (let s := { hosted with ptimeBase := 10000 }; (s.fn 0).owed.contains 0 = true ∧ (s.fn 0).masked = false ∧ Map.at (s.fn 0).sentAt 0 0 + 10000 ≤ s.ptime) ∧
      (let s := hosted; s.inWindow 0x10100 64 = some (0x360100, 0) ∧ s.inboundOk 0x360100 64 0 = true ∧ s.inWindow 0x1FFFF 2 = none) ∧
      (let s := { hosted with inWin := [(0, 0x10000, BitVec.ofNat 64 (1 + 2 + frameTableBase))] }; s.inWindow 0x10100 64 = some (frameTableBase + 0x100, 0) ∧ s.inboundOk (frameTableBase + 0x100) 64 0 = false) ∧
      (let s := hosted.changeFn 0 fun f => { f with masked := true }; (s.fn 0).masked = true ∧ (s.fn 0).owed ≠ []) ∧
      hosted.inRecovery (hosted.partOfDie (0x360000 / (96 * 2 ^ 30))) = false ∧ stored 0x360000 = true ∧ stored 0xC000000000000 = false ∧
      parted.inRecovery (parted.askedPart (.read 0x360000 8)) = true ∧ (Map.find hosted.jobs 3).isSome ∧ hosted.inRecovery 0 = false ∧
      (match ({ moving true with fns := (moving true).fns } : State).walk 0 0x400000 with | (.leaf t, a) => t.remote && (a.fn 0).reg regEvSize == 0 | _ => false) = true := by decide +kernel

/-- A function-level reset that waits for room; and a partition whose firmware runs. -/
def scheduling : State :=
  { hosted with dies := [(0, { firmware := some ([], 0) })] }

theorem witness_HostAndPeers_registers :
    hosted.awake = true ∧ hosted.resetWaits = false ∧ ({ hosted with waiting := [.functionLevelReset 3] } : State).resetWaits = true ∧
      scheduling.scheduled 0 = true ∧ (Map.find scheduling.parts 0).isSome ∧ hosted.scheduled 0 = false ∧
      ({ scheduling with slices := [] } : State).pastQueued 0 = false ∧ bit ((scheduling.part 0).reg regScmdStat).toNat 63 = false ∧ (scmdEvent 1 0 0 0 0).isSome := by decide +kernel

/-- A context whose checkpoints are on, with what its target descriptor says at 0x403000. -/
def checkpointing (k : Ckpt) (asked : Option Nat) : State :=
  let s := (parted.changeSlice 0 fun l => { l with ckptAsked := asked }).changeCtx 0 fun x => { x with ckptEn := true }
  { s with ckpts := [(0, k)], root := { up := true, booted := true, power := 9, switch := 8 } }

/-- An image with one record left. -/
def streaming (left : List ImageRecord) (failed : Bool) : Stream :=
  { target := { base := 0xF4 * 2 ^ 44, size := 2 ^ 24 }, start := 0x10000, left := left, failed := failed }

/-- A machine with gang 0 parked by poison. -/
def poisonedLaunch (writes : Bool) : State :=
  (parted.changeGang 0 fun k => { k with state := .parked, report := some { cause := causePoison } }).changeSub 0 fun u =>
    { u with footprint := [{ base := 0x400000, bytes := 4096, write := writes }] }

/-- A machine awake that tracks function 1. -/
def tracked (m : Option Migration) : State :=
  { parted with root := { up := true, booted := true } }.changeFn 1 fun f => { f with mig := m }

/-- A context may be checkpointed. -/
def mayCut (s : State) : Bool := (s.slice 0).live && (s.ctx 0).ckptEn && !(s.slice 0).discarded

/-- The target in HBM of the images below. -/
def target : Target := { base := 0xF4 * 2 ^ 44, size := 2 ^ 24 }

theorem witness_CheckpointAndMigration_timer :
    (let s := checkpointing {} none; mayCut s = true ∧ (s.ckpt 0).timed = none) ∧
      (let s := { checkpointing { timed := some 0 } none with ptimeBase := 1000000 }; mayCut s = true ∧ (s.ckpt 0).timed = some 0 ∧ (s.ckpt 0).interval = none ∧ 0 + 1000000 ≤ s.ptime) ∧
      (let s := checkpointing { timed := some 0, interval := some 0 } none; mayCut s = true ∧ (s.ckpt 0).timed = some 0 ∧ (s.ckpt 0).interval = some 0 ∧ 0 + 0 ≤ s.ptime) ∧
      mayCut parted = false ∧
      (let s := checkpointing { timed := some 0, interval := some 5 } none; (s.ckpt 0).timed = some 0 ∧ s.ptime < 0 + (s.ckpt 0).interval.getD 1000000) := by decide +kernel

theorem witness_CheckpointAndMigration_stream :
    (let s := checkpointing { stream := some (streaming [{ bytes := List.replicate 64 1 }] false) } (some 0); let x := streaming [{ bytes := List.replicate 64 1 }] false
    (s.ckpt 0).stream = some x ∧ x.failed = false ∧ (s.fn (s.ckpt 0).fn).inReset = false ∧ s.leftOf 0 x = [{ bytes := List.replicate 64 1 }] ∧
        s.hasRoom 0 = true ∧ Memory.wf s.mem = true) ∧
      (let s := checkpointing { stream := some (streaming [] true) } none; ((s.ckpt 0).stream.map fun x => x.failed) = some true ∧ s.hasRoom 0 = true) ∧
      (let s := checkpointing { stream := some (streaming [] false) } none; (s.ckpt 0).stream = some (streaming [] false) ∧ s.leftOf 0 (streaming [] false) = []) := by decide +kernel

/-- How the descriptor takes SEQ and STATUS at the end of an image. -/
def endsAt (addr : Nat) (p : Bool → Bool) : Bool :=
  let x : Stream := { streaming [] false with target := { base := 0xF4 * 2 ^ 44, size := 2 ^ 24, addr := addr } }
  let s := checkpointing { stream := some x } none
  let b := s.writeEntry (s.ckpt 0) x 1
  match b.devicePut (b.deviceWalker 0) ((addr + 0x20) % 2 ^ 56) (bytesOfNat 8 x.seq ++ [1]) with
  | (.ok (), b) => p true && b.reportsFit
  | (.error _, b) => p false && b.hasRoom 0

theorem witness_CheckpointAndMigration_ends :
    endsAt 0x403000 (fun ok => ok) = true ∧ endsAt 0x500000 (fun ok => !ok) = true := by decide +kernel

/-- A slice with a snapshot of one page of HBM. -/
def snapped (writes : Bool) : State :=
  (poisonedLaunch writes).changeSlice 0 fun l => { l with snapPages := [0x300000], snapshot := [(0x300005, 9)] }

theorem witness_CheckpointAndMigration_rollback :
    (let s := snapped true; s.poisonedSub 0 = some 0 ∧ s.declaresWrites 0 = true ∧ (s.slice 0).irrevocable = false ∧ (s.slice 0).rollbacks < 2 ∧ Memory.wf s.mem = true ∧
        (∀ f ∈ (s.slice 0).snapPages, f % 65536 = 0 ∧ f + 65536 ≤ hbmBytes) ∧ ((s.slice 0).snapshot.map Prod.fst).Nodup ∧
        (∀ z ∈ (s.slice 0).snapshot, ∃ f ∈ (s.slice 0).snapPages, f ≤ z.1 ∧ z.1 < f + 65536) ∧ s.jobs = []) ∧
      (let s := poisonedLaunch false; s.poisonedSub 0 = some 0 ∧ s.declaresWrites 0 = false ∧ (s.killSlice 0 poisonKilled (s.sub 0).index causePoison).reportsFit = true) ∧
      parted.poisonedSub 0 = none := by decide +kernel

/-- A descriptor of a target that is on a power domain. -/
def described (power : Nat) : State :=
  let bytes := bytesOfNat 8 (0xF4 * 2 ^ 44) ++ bytesOfNat 8 (2 ^ 24) ++ bytesOfNat 2 power ++ bytesOfNat 2 3 ++ [0, 16] ++ List.replicate 2 0 ++ bytesOfNat 8 0 ++ bytesOfNat 8 5
  let s := checkpointing {} (some 0)
  { s with mem := Memory.writeBytes s.mem 0x303000 bytes }

/-- What a request finds at its descriptor. -/
def decidesOn (s : State) (p : Descriptor → State → Bool) : Bool :=
  (s.ckpt 0).decided.isNone && (s.slice 0).ckptAsked == some 0 &&
    match (s.askCheckpoint 0).readDescriptor (s.ckpt 0).fn (s.descriptorAt 0) with
    | (r, a) => p r a

/-- The descriptor's target is on one of the module's own domains, with or without the override. -/
def targetShared (s : State) (shared override : Bool) : Bool :=
  decidesOn s fun r a => match r with
    | .ok _ power switch o => (power == s.root.power.toNat || switch == s.root.switch.toNat) == shared && o == override && a.hasRoom 0 && a.reportsFit
    | _ => false

theorem witness_CheckpointAndMigration_request :
    targetShared (described 9) true false = true ∧ targetShared (described 2) false false = true ∧
      targetShared (let s := described 9; { s with mem := Memory.writeBytes s.mem 0x303014 [1] }) true true = true ∧
      decidesOn (let s := described 9; { s with mem := Memory.writeBytes s.mem 0x303000 (bytesOfNat 8 5) }) (fun r a => (match r with | .bad => true | _ => false) && a.hasRoom 0) = true ∧
      decidesOn (let s := described 9; { s with poison := [0x303000 / 128] }) (fun r a => (match r with | .met _ => true | _ => false) && a.hasRoom 0) = true ∧
      (let s := checkpointing {} none; (s.ckpt 0).decided = none ∧ (s.slice 0).ckptAsked = none ∧ mayCut s = true) ∧
      (let s := parted; (s.slice 0).ckptAsked = none ∧ mayCut s = false) := by decide +kernel

theorem witness_CheckpointAndMigration_cut :
    (let s := { checkpointing { decided := some (target, 0) } none with teams := [], weaves := [] }; (s.ckpt 0).decided = some (target, 0) ∧ (s.ckpt 0).stream = none ∧ (s.slice 0).live = true ∧ (s.slice 0).discarded = false ∧ s.collecting 0 = false ∧
        (s.takeCut 0 target 0).reportsFit = true) ∧
      (let s := { checkpointing { decided := some (target, 0) } none with jobs := [(0, jobOf (card 4 0 0 0 64 0) 0)] }; s.collecting 0 = true) ∧
      (let s := (checkpointing { decided := some (target, 0) } none).changeSlice 0 fun l => { l with discarded := true }; (s.ckpt 0).decided = some (target, 0) ∧ (s.slice 0).discarded = true) := by
  decide +kernel

/-- A context saved in an image of one slice record, and pre-empted. -/
def imaged : State :=
  let s := described 9
  let entry := bytesOfNat 8 5 ++ [1, 1] ++ List.replicate 6 0 ++ bytesOfNat 8 0 ++ bytesOfNat 8 3000 ++ bytesOfNat 8 0x10000 ++ bytesOfNat 8 160
  let head := bytesOfNat 4 0x4B434E4B ++ List.replicate 36 0 ++ bytesOfNat 8 0x404000 ++ bytesOfNat 8 1 ++ List.replicate 8 0
  let record := [4] ++ List.replicate 15 0 ++ List.replicate 72 0 ++ bytesOfNat 8 77
  let mem := Memory.writeBytes (Memory.writeBytes s.mem (0xF4 * 2 ^ 44 + 0x140) entry) (0xF4 * 2 ^ 44 + 0x10000) (head ++ record)
  { s with mem := Memory.writeBytes mem 0x304000 rootNode.fields, queues := [(0, { bound := true })], gangs := [] }.changeSlice 0 fun l =>
    { l with rcb := 0x404000, state := .preempted }

/-- What the statement asks of a RESTORE of the context at 0x404000. -/
def restores (s : State) : Bool :=
  let key := nodeKey 0 0x404000
  let t0 := s.readChain 0 chainFuel key
  let chain := t0.chain chainFuel key
  let known := match s.restorable 0 0x404000 with
    | .known n => n == 0
    | _ => false
  match t0.latestImage 0 (t0.effective chain 9 0x50 8) with
  | (some (tg, images), b1) =>
    match images.getLast? with
    | some last =>
      let (_, budget, b2) := b1.sliceOfImage tg.base last
      let subs := (b2.slice 0).subs.map b2.sub
      match b2.readImages subs tg.base 0x404000 images with
      | (some rs, b3) =>
        let area := b3.effective chain 8 0x48 8
        let in_ := fun (x : State) (owner : Nat) => x.changeSlice 0 fun y => { y with fn := owner }
        let b := (in_ b3 0).contextWalker 0 ((b3.part 0).root * 160)
        match (in_ b3 0).assemble b subs area (lastRecords rs) (lastRecords rs) with
        | (.ok (), c1) => match c1.advanceGen b area with
          | (.ok (), c2) => match c2.placePages b (lastRecords rs) with
            | (.ok (), c3) =>
              let final := ((in_ c3 (b3.slice 0).fn).revive (.known 0) 0 0 (b2.slice 0) subs (lastRecords rs)
                (c3.revivedOf subs (lastRecords rs)) budget last.cutAt last.coLocated).scmdStatus 0 0 0
              known && t0.chainOk chain && budget == 77 && rs.length == 1 && final.reportsFit && (s.queue 0).bound && !(s.fn 0).inReset && (s.fn 0).part == 0
            | _ => false
          | _ => false
        | _ => false
      | _ => false
    | none => false
  | _ => false

theorem witness_SchedulerCommands_restore :
    restores imaged = true := by decide +kernel

theorem witness_CheckpointAndMigration_migration :
    (let s := (tracked none).changeFn 0 fun f => (f.setReg regMigVa 0x400000).setReg regMigNp 4; s.awake = true ∧ s.migBusy = false ∧ s.mayStart 1 0x360000 = true ∧ s.mayStart 1 1 = false) ∧
      (let s := tracked (some { base := 0x400000, pages := 4, bitmap := 0x360000 }); s.awake = true ∧ s.migBusy = false ∧ (s.fn 1).mig.map (fun m => m.due.isNone && !m.stopping && !m.stopped) = some true ∧ (s.fn 0).reg regMigState % 64 = 0 ∧ s.readStateRecord.1.isNone) ∧
      (let s := tracked (some { base := 0x400000, pages := 4, bitmap := 0x360000, due := some 0 }); (s.fn 1).mig.map (fun m => m.due == some 0 && !m.stopping && stored m.bitmap) = some true ∧ 0 ≤ s.ptime) ∧
      (let s := tracked (some { base := 0x400000, pages := 4, bitmap := 0x360000, due := some 0, stopping := true }); (s.fn 1).mig.map (fun m => m.stopping && !m.stopped) = some true ∧ s.reportsFit = true) := by decide +kernel

/-- A function of 16 counters and no queue can be resumed from a state record at 0x380000. -/
def resumes (s : State) : Bool :=
  match s.readStateRecord with
  | (some st, b) =>
    match b.resumeFunction 1 st with
    | some z => b.readyFor 1 st && z.reportsFit && st.counters.length == 16
    | none => false
  | _ => false

def exported : State :=
  let record := bytesOfNat 4 0x474D4E4B ++ bytesOfNat 4 0 ++ bytesOfNat 4 16 ++ bytesOfNat 4 0 ++ List.replicate 48 0 ++ bytesOfNat 4 7
  let s := { tracked none with mem := Memory.writeBytes (tracked none).mem 0x380000 record }
  (s.changeFn 0 fun f => f.setReg regMigState 0x380000).changeFn 1 fun f => { f with counters := 16 }

theorem witness_CheckpointAndMigration_resume :
    resumes exported = true := by decide +kernel

/-- A module whose root of trust is in a state, with a policy that lets its operator load images. -/
def rooted (up booting : Bool) : State :=
  { parted with
    root := { up := up, booted := !booting, booting := booting, slots := [(0, 5, 0)] }
    parts := [(0, { dies := [0], policy := 1 })] }

/-- A manifest of no bytes (R459). -/
def manifest : List Byte := bytesOfNat 4 0x57464E4B ++ bytesOfNat 4 0 ++ bytesOfNat 8 64 ++ List.replicate 240 0

theorem witness_FirmwareEvents :
    (rooted false false).root.up = false ∧ (rooted true true).root.booting = true ∧ ((rooted true false).die 3).throttled = false ∧
      (let s := rooted true false; s.awake = true ∧ bit ((s.fn 0).reg regFwload) 63 = false ∧ (Map.find s.parts 0).isSome ∧ (s.part 0).policy.getLsbD 0 = true ∧ s.partRuns 0 = true ∧ manifestOf (s.physRead 0x380000 256).1 = none ∧ (s.part 1).policy.getLsbD 0 = false) ∧
      (let s := { rooted true false with mem := Memory.writeBytes parted.mem 0x380000 manifest }; (manifestOf (s.physRead 0x380000 256).1).isSome) ∧
      (let s := rooted true false; let auth : MgmtAuth := { nonce := 1, signer := some 5 }; s.accepted auth = true ∧ s.accepted { auth with nonce := 0 } = false ∧ s.gangsOn 5 = [] ∧
        s.resetting = false ∧ (s.leaseOf 0).map s.leaseRuns = some false ∧ s.mayReshape [1] = false ∧ ({ s with dies := [(0, { fresh := true })] } : State).mayReshape [1] = true) ∧
      (let s := { rooted true false with gangs := [], teams := [], slices := [] }; (s.leaseOf 0).isSome ∧ (s.leaseOf 0).map (fun l => s.leaseRuns l) = some false) ∧
      (let s := { rooted true false with parts := [(0, { dies := [0], halted := true, resetFrom := some 4 })] }; ((s.leaseOf 0).bind fun l => s.leaseSince l) = some 4 ∧
        (s.leaseOf 0).map s.leaseRuns = some true ∧ s.accepted { nonce := 1, signer := some 5 } = true) ∧
      (let s := { rooted true false with agenda := [.scrubRecord 0] }; s.resetting = true ∧ (s.leaseOf 0).map s.leaseRuns = some false ∧ (s.leaseOf 9).map s.leaseRuns ≠ some true) := by decide +kernel

/-- A module that is up, with a NOP at the slot of its one group. -/
def running : State :=
  { State.reset.withFetchWord 96 0xE90003A7A7A5DC9 with drawn := none, root := { up := true, booted := true }, groups := [grp], nodes := [(0, rootNode)] }

theorem witness_StepRunsDecoded :
    (let s := { base with agenda := [.nop (wordFields 0)] }; s.drawn = none ∧ s.agenda ≠ []) ∧
      (let s := State.reset.withFetchWord 96 0xE90003A7A7A5DC9; let t := { s with drawn := none }; s.drawn.isSome ∧
        (match t.fetch grp with | .word w t => (match decodeFor (t.env grp) w with | .ok _ => true | _ => false) | _ => false) = true) ∧
      (let g := { grp with picked := some 0 }; let s := { running with chosen := true, groups := [g] }; let part := { s.takenPart g with stalled := false, picked := none }
      s.drawn = none ∧ s.agenda = [] ∧ s.root.up = true ∧ s.root.halted = false ∧ s.groups[0]? = some g ∧ leastBy Prod.fst s.pending = some (0, .standing 0) ∧ part.members ≠ [] ∧
        (match (s.takeGroup 0 part).fetch part with | .word w t => (match decodeFor (t.env part) w with | .ok _ => true | _ => false) | _ => false) = true) ∧
      (let s := { running with chosen := true, turn := 0 }; s.drawn = none ∧ s.agenda = [] ∧ s.pending = [] ∧ s.nextLate = none) ∧
      (let s := { running with turn := 2 }; s.chosen = false ∧ s.pending = [] ∧ s.nextUrgent = none ∧ s.turn % 3 = 2) := by decide +kernel

theorem witness_StepRunsDecoded_urgent :
    (let s := ({ running with clock := 70000 } : State).changeGang 0 fun k => { k with pdis := some { opened := 4464, crit := true } }
    s.pending = [] ∧ ({ s with chosen := true } : State).nextLate = some (.preemptWindowLimit 0)) ∧
      (let s := { running with clock := 940 }; s.pending = [] ∧ s.chosen = false ∧ s.nextUrgent = some (.periodRenew 0)) := by decide +kernel

theorem witness_EncodingRoundTrip :
    (.iadd (wordFields 0xE90000C0805C00) : Instr).fields.isSome ∧ (Instr.iadd (wordFields 0xE900000C0805C00)).wellFormed = true := by decide +kernel

theorem witness_StepKeepsMemoryForm :
    Memory.wf base.mem = true ∧ (match step { base with agenda := [.nop (wordFields 0xE90003A7A7A5DC9)] } with | .next _ => true | _ => false) = true := by decide +kernel


end Sys2Proof.Tests
end

section
/-! Instructions whose body is `computedPair`: a result in D and a flag in the predicate C (R106, R109). -/

namespace Sys2Proof.Machine

/-- The word of an instruction that issues passes the checks of R80. -/
theorem State.issues_check {s : State} {i : Instr} {g : Group} {fm : Format} {f : Fields} (hi : i.format = some fm)
    (hf : i.fields = some f) (h : s.issues i g = true) : fm.check (s.env g) f = none := by
  have hc := State.issues_clears h
  simp only [State.clears, hi, hf, Bool.and_eq_true, beq_iff_eq] at hc
  obtain ⟨⟨⟨hcheck, -⟩, -⟩, -⟩ := hc
  exact hcheck

theorem some_ite_eq_none {α : Type} (p : Prop) [Decidable p] (x : α) (r : Option α) :
    (if p then some x else r) = none ↔ ¬p ∧ r = none := by
  by_cases h : p <;> simp [h]

/-- Operands that pass check 4 of R80 are of the classes that the format lists. -/
theorem Format.check_classes {fm : Format} {env : Env} {f : Fields} (h : fm.check env f = none) :
    f.d.cls ∈ fm.d ∧ f.c.cls ∈ fm.c := by
  simp only [Format.check, some_ite_eq_none] at h
  obtain ⟨-, -, -, hoperands, -⟩ := h
  simp only [Bool.not_eq_true', Bool.not_eq_false, Bool.and_eq_true, List.contains_iff_mem] at hoperands
  obtain ⟨⟨⟨⟨⟨⟨⟨⟨⟨hd, -⟩, -⟩, hc⟩, -⟩, -⟩, -⟩, -⟩, -⟩, -⟩ := hoperands
  exact ⟨hd, hc⟩

/-- The operands of an instruction that writes a v register or ZERO and a predicate. -/
theorem State.issues_pair {s : State} {i : Instr} {g : Group} {fm : Format} {f : Fields} (hi : i.format = some fm)
    (hf : i.fields = some f) (hd : fm.d = vz) (hp : fm.c = [.p]) (h : s.issues i g = true) :
    ((∃ n, f.d = .v n) ∨ f.d = .zero) ∧ ∃ n, f.c = .p n := by
  obtain ⟨hdCls, hcCls⟩ := Format.check_classes (State.issues_check hi hf h)
  rw [hd] at hdCls
  rw [hp] at hcCls
  constructor
  · cases ho : f.d <;> simp [ho, vz, Operand.cls] at hdCls ⊢
  · cases ho : f.c <;> simp [ho, Operand.cls] at hcCls ⊢

/-- A write to a v register or ZERO, and then to a predicate, gives both what was written. -/
theorem Weave.gives_pair {w x y : Weave} {act : Mask} {o : Operand} {n : BitVec 3} {val flag : Nat → Word64}
    {rule ruleP : Nat → Word64 → Prop} (ho : (∃ n, o = .v n) ∨ o = .zero)
    (hy : y = (w.dest o act val (val 0)).dest (.p n) act flag 0) (h1 : ∀ k l, x.vread k l = y.vread k l)
    (h2 : ∀ k l, x.pread k l = y.pread k l) (hact : ∀ l, (act &&& w.live).getLsbD l = act.getLsbD l)
    (hv : ∀ l, rule l (val l)) (hp : ∀ l, ruleP l (flag l)) : w.gives x act o rule ∧ w.gives x act (.p n) ruleP := by
  have hlive : (w.dest o act val (val 0)).live = w.live := by
    obtain ⟨k, rfl⟩ | rfl := ho
    · exact w.vwrite_live _ _ _
    · rfl
  have hpread : ∀ l, (w.dest o act val (val 0)).pread n.toNat l = w.pread n.toNat l := fun l => by
    obtain ⟨k, rfl⟩ | rfl := ho
    · simp only [Weave.pread, Weave.dest, Weave.vwrite_live, Weave.pred_vwrite]
    · rfl
  subst hy
  constructor
  · obtain ⟨k, rfl⟩ | rfl := ho
    · intro l _
      simp only [h1, Weave.dest, Weave.vread_pwrite, Weave.vread_vwrite, true_and, hact l]
      split
      · exact hv l
      · rfl
    · trivial
  · intro l hl
    have h := Weave.gives_dest (w.dest o act val (val 0)) ((w.dest o act val (val 0)).dest (.p n) act flag 0) _ act (.p n)
      flag (flag 0) ruleP rfl (fun _ _ => rfl) (fun _ => rfl) (fun _ _ => rfl) (by rwa [hlive]) hp (hp 0) l hl
    rwa [hpread, ← h2] at h

theorem getLsbD_zero_bit (b : Bool) : (if b then 1 else 0 : Word64).getLsbD 0 = b := by
  cases b <;> rfl

/-- An instruction whose body is `computedPair`. -/
theorem computedPair_effect {i : Instr} {fm : Format} {f : Fields} {val : Weave → Nat → Word64} {flag : Weave → Nat → Bool}
    {rule ruleP : Weave → Nat → Word64 → Prop} (s : State) (g : Group)
    (hx : exec i s = run i f (computedPair f f.c val flag) s) (hi : i.format = some fm) (hf : i.fields = some f)
    (hc : convergent fm.opcode = false) (hd : fm.d = vz) (hp : fm.c = [.p])
    (hv : ∀ (w : Weave) d l, rule w l (val { w with dead := d } l))
    (hq : ∀ (w : Weave) d l, ruleP w l (if flag { w with dead := d } l then 1 else 0)) :
    RegisterEffect i s g [f.d, f.c] fun t => Gives s t g f f.d rule ∧ Gives s t g f f.c ruleP := by
  refine registerEffect_of_done
    (h := fun _ _ m w =>
      (w.dest f.d (w.active f m) (val w) (val w 0)).dest f.c (w.active f m) (fun l => if flag w l then 1 else 0) 0)
    (c := fun t => t.freeCtr) s g _ _ hx hi hf hc (fun t _ _ _ _ _ => rfl) (fun _ _ _ w => ⟨?_, ?_⟩) ?_
  · exact Weave.keeps_trans (w.keeps_dest _ _ _ _) (Weave.keeps_dest _ _ _ _ _)
  · exact Weave.keepsRegisters_trans (w.keepsRegisters_dest _ _ _ _) (Weave.keepsRegisters_dest _ _ _ _ _) (by simp) (by simp)
  intro hs t _ r hr
  obtain ⟨hod, n, hn⟩ := State.issues_pair hi hf hd hp hs
  refine forall₂_and.mp fun u hu => ?_
  obtain ⟨m, d, y, k, hm, hw⟩ := hr u hu
  have ha : ({ s.weave u with dead := d } : Weave).active f m = s.active g f u := by
    simp only [State.active, Group.lanes, Map.at, hm]; rfl
  rw [ha, hn] at hw
  rw [hn]
  refine Weave.gives_pair (w := { s.weave u with dead := d }) hod rfl (fun _ _ => ?_) (fun _ _ => ?_) (s.active_live g f u)
    (hv _ d) (hq _ d) <;> rw [hw] <;> rfl

end Sys2Proof.Machine
end

section
/-! The integer instructions (R104 to R111). -/

namespace Sys2Proof.Machine

theorem divEdge_eq (w : Nat) (a b : Int) :
    divEdge w a b = if b = 0 then 2 ^ w - 1 else if a = -2 ^ (w - 1) ∧ b = -1 then -2 ^ (w - 1) else Int.tdiv a b := by
  unfold divEdge
  by_cases h : a = -2 ^ (w - 1) ∧ b = -1
  · simp only [h, and_self, if_true]
  · simp only [h, if_false]

theorem remEdge_eq (a b : Int) : remEdge a b = if b = 0 then a else a - b * Int.tdiv a b := by
  rw [remEdge, Int.tmod_def]

theorem natAbs_eq_ite (a : Int) : (a.natAbs : Int) = if a < 0 then -a else a := by
  split <;> omega

theorem carryOut_iff (f : Fields) (t : Int) : carryOut f t = true ↔ if f.t = 0 then 2 ^ 64 ≤ t else t < 0 := by
  unfold carryOut
  split <;> exact decide_eq_true_iff

/-- IADDS and ISUBS: the results, and the flag of R106. -/
theorem flagOp_effect {i : Instr} {fm : Format} {f : Fields} {op : Int → Int → Int} (s : State) (g : Group)
    (hx : exec i s = run i f (flagOp f op) s) (hi : i.format = some fm) (hf : i.fields = some f)
    (hc : convergent fm.opcode = false) (hd : fm.d = vz) (hp : fm.c = [.p]) :
    RegisterEffect i s g [f.d, f.c] fun t =>
      let W := f.width.bits
      let U := unsignedT f
      Gives s t g f f.d (Elements f fun a b _ y => y = fit W U f.sat (op (number U W a) (number U W b))) ∧
        Gives s t g f f.c fun w l y =>
          y.getLsbD 0 = true ↔ ∃ k < f.width.count,
            outOfRange W U (op (readElem U W (w.elemOpnd f f.a W l) k) (readElem U W (w.elemOpnd f f.b W l) k)) = true := by
  refine computedPair_effect s g hx hi hf hc hd hp (fun w d l k hk => ?_) (fun w d l => ?_)
  · show elem (packElems f.width.bits _ f.width.count) f.width.bits k = _
    rw [elem_packElems _ _ _ _ (Nat.le_of_eq (count_mul_bits f.width)) hk, Nat.mod_eq_of_lt (fit_lt _ _ _ _)]
    rfl
  · rw [getLsbD_zero_bit, List.any_eq_true]
    simp only [List.mem_range]
    rfl

/-- Settles O1: each body is `intOp`, `flagOp`, `computedPair`, `computed` or a function of whole values, and the element
operations are those of the manual. -/
theorem integerResults : Obligations.IntegerResults := by
  unfold Obligations.IntegerResults
  intro f s g
  refine ⟨?iadd, ?isub, ?iadds, ?isubs, ?imul, ?imulh, ?imad, ?idiv, ?irem, ?imin, ?imax, ?iabs, ?ineg, ?iaddc, ?lea, ?idot⟩
  case iadd | isub | imul | imulh | imad | imin | imax | ineg => exact intOp_effect s g rfl rfl rfl rfl fun _ _ _ => rfl
  case iadds | isubs => exact flagOp_effect s g rfl rfl rfl rfl rfl rfl
  case idiv =>
    refine intOp_effect s g rfl rfl rfl rfl fun a b c => ?_
    rw [divEdge_eq]
  case irem =>
    refine intOp_effect s g rfl rfl rfl rfl fun a b c => ?_
    rw [remEdge_eq]
  case iabs =>
    refine intOp_effect s g rfl rfl rfl rfl fun a b c => ?_
    rw [natAbs_eq_ite]
  case iaddc =>
    refine computedPair_effect s g rfl rfl rfl rfl rfl rfl (fun w d l => rfl) fun w d l => ?_
    rw [getLsbD_zero_bit]
    exact carryOut_iff f (carryExact f w l)
  case lea => exact computed_effect s g rfl rfl rfl rfl fun w d l => rfl
  case idot =>
    refine computed_effect s g rfl rfl rfl rfl fun w d l j hj => ?_
    rw [dotLane, elem_packElems _ _ _ _ (by decide) hj, Nat.mod_eq_of_lt (fit_lt _ _ _ _)]
    rfl

end Sys2Proof.Machine
end

section
/-! The bits of element results (R113 to R115). -/

namespace Sys2Proof.Machine

theorem testBit_mod_of_lt {w i : Nat} (hi : i < w) (x : Nat) : (x % 2 ^ w).testBit i = x.testBit i := by
  simp [Nat.testBit_mod_two_pow, hi]

theorem testBit_eq_false_of_width_le {w a j : Nat} (ha : a < 2 ^ w) (hj : w ≤ j) : a.testBit j = false :=
  Nat.testBit_lt_two_pow (Nat.lt_of_lt_of_le ha (Nat.pow_le_pow_right (by decide) hj))

theorem testBit_complement {w a i : Nat} (ha : a < 2 ^ w) (hi : i < w) : (2 ^ w - 1 - a).testBit i = !a.testBit i := by
  rw [Nat.sub_sub, Nat.add_comm, Nat.testBit_two_pow_sub_succ ha]
  simp [hi]

theorem shiftLeft_lt (w a n : Nat) : shiftLeft w a n < 2 ^ w := by
  unfold shiftLeft
  split
  · exact Nat.two_pow_pos w
  · exact Nat.mod_lt _ (Nat.two_pow_pos w)

theorem shiftRight_lt {w a : Nat} (n : Nat) (ha : a < 2 ^ w) : shiftRight w a n < 2 ^ w := by
  unfold shiftRight
  split
  · exact Nat.two_pow_pos w
  · exact Nat.lt_of_le_of_lt (Nat.div_le_self _ _) ha

/-- `sext` reads an element as the bit vector of its width does. -/
theorem signed_eq_toInt {w a : Nat} (ha : a < 2 ^ w) : signed w a = (BitVec.ofNat w a).toInt := by
  have hh : a < 2 ^ (w - 1) ↔ 2 * a < 2 ^ w := by
    cases w with
    | zero => simp at ha ⊢
    | succ n => rw [Nat.add_sub_cancel, Nat.pow_succ]; omega
  rw [signed, BitVec.toInt_eq_toNat_cond, BitVec.toNat_ofNat, Nat.mod_eq_of_lt ha]
  simp [hh]

theorem wrapInt_eq_ofInt (w : Nat) (x : Int) : wrapInt w x = (BitVec.ofInt w x).toNat := by
  rw [wrapInt, BitVec.toNat_ofInt]; push_cast; rfl

/-- SAR shifts as the arithmetic shift of bit vectors does. -/
theorem shiftArith_eq_sshiftRight {w a : Nat} (n : Nat) (ha : a < 2 ^ w) :
    shiftArith w a n = ((BitVec.ofNat w a).sshiftRight (min n w)).toNat := by
  rw [shiftArith, signed_eq_toInt ha, wrapInt_eq_ofInt]
  have h := BitVec.toInt_sshiftRight (x := BitVec.ofNat w a) (n := min n w)
  rw [Int.shiftRight_eq_div_pow] at h
  push_cast at h
  rw [← h, BitVec.ofInt_toInt]

/-- Bit i of SAR is bit i + n of the element, or its top bit where there is none (R113). -/
theorem testBit_shiftArith {w a i : Nat} (n : Nat) (ha : a < 2 ^ w) (hi : i < w) :
    (shiftArith w a n).testBit i = a.testBit (min (i + n) (w - 1)) := by
  rw [shiftArith_eq_sshiftRight n ha, BitVec.testBit_toNat, BitVec.getLsbD_sshiftRight]
  by_cases h : i + n < w
  · have h1 : min n w + i < w := by omega
    have h2 : min n w + i = min (i + n) (w - 1) := by omega
    have h3 : min (i + n) (w - 1) < w := by omega
    simp only [hi, h2, h3, BitVec.getLsbD_ofNat, Nat.not_le.mpr, if_true, decide_true, decide_false, Bool.not_false,
      Bool.true_and]
  · have h1 : ¬ min n w + i < w := by omega
    have h2 : min (i + n) (w - 1) = w - 1 := by omega
    have h3 : w - 1 < w := by omega
    simp only [hi, h1, h2, h3, BitVec.msb_eq_getLsbD_last, BitVec.getLsbD_ofNat, Nat.not_le.mpr, if_false, decide_true,
      decide_false, Bool.not_false, Bool.true_and]

/-- Bit i of `sext` from l bits to w bits is bit i of the element, or its top bit where there is none. -/
theorem testBit_wrapInt_signed {l w x i : Nat} (hx : x < 2 ^ l) (hi : i < w) :
    (wrapInt w (signed l x)).testBit i = if i < l then x.testBit i else decide (0 < l) && x.testBit (l - 1) := by
  rw [signed_eq_toInt hx, wrapInt_eq_ofInt, ← BitVec.signExtend, BitVec.testBit_toNat, BitVec.getLsbD_signExtend]
  by_cases h : i < l
  · simp only [hi, h, if_true, BitVec.getLsbD_ofNat, decide_true, Bool.true_and]
  · simp [hi, h, BitVec.msb_eq_getLsbD_last, BitVec.getLsbD_ofNat]

/-- Bit i of the element is bit (i + n) mod w of ROT (R113). -/
theorem testBit_rotateLeft {w a i : Nat} (n : Nat) (ha : a < 2 ^ w) (hi : i < w) :
    (rotateLeft w a n).testBit ((i + n) % w) = a.testBit i := by
  have hn : n % w < w := Nat.mod_lt _ (by omega)
  simp only [rotateLeft, Nat.testBit_or, Nat.testBit_mod_two_pow, Nat.testBit_mul_two_pow, Nat.testBit_div_two_pow]
  rw [Nat.add_mod, Nat.mod_eq_of_lt hi]
  by_cases h : i + n % w < w
  · have h1 : i + n % w + (w - n % w) = w + i := by omega
    simp [Nat.mod_eq_of_lt h, h, h1, testBit_eq_false_of_width_le ha (Nat.le_add_right w i)]
  · have h1 : (i + n % w) % w = i + n % w - w := by
      rw [Nat.mod_eq_sub_mod (by omega), Nat.mod_eq_of_lt (by omega)]
    have h2 : i + n % w - w + (w - n % w) = i := by omega
    have h3 : ¬ n % w ≤ i + n % w - w := by omega
    simp [h1, h2, h3]

/-- Bit i of FSHR is bit i + c mod w of the joined operands (R113). -/
theorem testBit_funnelRight {w a b i : Nat} (c : Nat) (hb : b < 2 ^ w) (hi : i < w) :
    (funnelRight w a b c).testBit i =
      if i + c % w < w then b.testBit (i + c % w) else a.testBit (i + c % w - w) := by
  rw [funnelRight, testBit_mod_of_lt hi, Nat.testBit_div_two_pow, Nat.mul_comm, Nat.testBit_two_pow_mul_add a hb]

theorem onesOf_le (w a : Nat) : onesOf w a ≤ w := by
  simpa [onesOf] using List.length_filter_le a.testBit (List.range w)

/-- A count up to w fits a w-bit element. -/
theorem mod_of_le_width {w n : Nat} (h : n ≤ w) : n % 2 ^ w = n :=
  Nat.mod_eq_of_lt (Nat.lt_of_le_of_lt h Nat.lt_two_pow_self)

theorem exists_testBit_lt_width {w a : Nat} (ha : a < 2 ^ w) (h0 : a ≠ 0) : ∃ i < w, a.testBit i = true := by
  obtain ⟨i, hi⟩ := Nat.exists_testBit_of_ne_zero h0
  refine ⟨i, Nat.lt_of_not_le fun h => ?_, hi⟩
  rw [testBit_eq_false_of_width_le ha h] at hi
  cases hi

/-- What a search of the positions below w finds: w where no position has `p`, or the first that has. -/
theorem find?_range_getD (w : Nat) (p : Nat → Bool) :
    ((∀ i < w, p i = false) ∧ ((List.range w).find? p).getD w = w) ∨
      ∃ y < w, ((List.range w).find? p).getD w = y ∧ p y = true ∧ ∀ j < y, p j = false := by
  cases h : (List.range w).find? p with
  | none => exact .inl ⟨by simpa using List.find?_range_eq_none.mp h, rfl⟩
  | some y =>
    obtain ⟨h1, h2, h3⟩ := List.find?_range_eq_some.mp h
    exact .inr ⟨y, List.mem_range.mp h2, rfl, h1, by simpa using h3⟩

theorem trailingZeros_zero (w : Nat) : trailingZeros w 0 = w := by
  unfold trailingZeros
  obtain ⟨-, he⟩ | ⟨y, -, -, hone, -⟩ := find?_range_getD w (Nat.testBit 0)
  · exact he
  · simp at hone

theorem leadingZeros_zero (w : Nat) : leadingZeros w 0 = w := by
  unfold leadingZeros
  obtain ⟨-, he⟩ | ⟨y, -, -, hone, -⟩ := find?_range_getD w fun i => Nat.testBit 0 (w - 1 - i)
  · exact he
  · simp at hone

/-- CTZ of an element other than zero is the position of its lowest one (R114). -/
theorem trailingZeros_spec {w a : Nat} (ha : a < 2 ^ w) (h0 : a ≠ 0) :
    trailingZeros w a < w ∧ a.testBit (trailingZeros w a) = true ∧ a % 2 ^ trailingZeros w a = 0 := by
  unfold trailingZeros
  obtain ⟨hno, -⟩ | ⟨y, hy, he, hone, hlow⟩ := find?_range_getD w a.testBit
  · obtain ⟨i, hi, hb⟩ := exists_testBit_lt_width ha h0
    simp [hno i hi] at hb
  · rw [he]
    refine ⟨hy, hone, Nat.zero_of_testBit_eq_false fun j => ?_⟩
    rw [Nat.testBit_mod_two_pow]
    by_cases hj : j < y
    · simp [hlow j hj]
    · simp [hj]

/-- CLZ of an element other than zero counts the positions above its highest one (R114). -/
theorem leadingZeros_spec {w a : Nat} (ha : a < 2 ^ w) (h0 : a ≠ 0) :
    leadingZeros w a < w ∧ a.testBit (w - 1 - leadingZeros w a) = true ∧ a < 2 ^ (w - leadingZeros w a) := by
  unfold leadingZeros
  obtain ⟨hno, -⟩ | ⟨y, hy, he, hone, hhigh⟩ := find?_range_getD w fun i => a.testBit (w - 1 - i)
  · obtain ⟨i, hi, hb⟩ := exists_testBit_lt_width ha h0
    have := hno (w - 1 - i) (by omega)
    rw [show w - 1 - (w - 1 - i) = i by omega, hb] at this
    cases this
  · rw [he]
    refine ⟨hy, hone, Nat.lt_pow_two_of_testBit _ fun j hj => ?_⟩
    by_cases hw : j < w
    · have := hhigh (w - 1 - j) (by omega)
      rwa [show w - 1 - (w - 1 - j) = j by omega] at this
    · exact testBit_eq_false_of_width_le ha (Nat.not_lt.mp hw)

/-- After n steps BREV has moved the lowest n bits of the element. -/
theorem testBit_reverse_prefix (w a n j : Nat) (hn : n ≤ w) (hj : j < w) :
    ((List.range n).foldl (fun r i => if a.testBit i then r ||| 2 ^ (w - 1 - i) else r) 0).testBit j =
      (decide (w - 1 - j < n) && a.testBit (w - 1 - j)) := by
  induction n with
  | zero => simp
  | succ n ih =>
    rw [List.range_succ, List.foldl_append, List.foldl_cons, List.foldl_nil]
    by_cases hb : w - 1 - j = n
    · have h1 : w - 1 - n = j := by omega
      cases ha : a.testBit n <;> simp [ih (by omega), hb, ha, h1]
    · have h1 : w - 1 - n ≠ j := by omega
      have h2 : w - 1 - j < n + 1 ↔ w - 1 - j < n := by omega
      split <;> simp [ih (by omega), h1, h2]

/-- Bit i of the element is bit w − 1 − i of BREV (R114). -/
theorem testBit_reverseBits {w i : Nat} (a : Nat) (hi : i < w) : (reverseBits w a).testBit (w - 1 - i) = a.testBit i := by
  rw [reverseBits, testBit_reverse_prefix w a w _ (Nat.le_refl w) (by omega), show w - 1 - (w - 1 - i) = i by omega]
  simp [hi]

theorem fieldPos_eq (f : Fields) : fieldPos f = min (f.imm.toNat % 256) f.width.bits := by
  simp [fieldPos, bits]

theorem fieldLen_eq (f : Fields) :
    fieldLen f = min (f.imm.toNat / 256 % 256) (f.width.bits - min (f.imm.toNat % 256) f.width.bits) := by
  simp [fieldLen, bits, fieldPos_eq]

/-- Bit i of BFX (R115). -/
theorem testBit_fieldExtract (f : Fields) (a i : Nat) (hi : i < f.width.bits) :
    (fieldExtract f a).testBit i =
      if i < fieldLen f then a.testBit (fieldPos f + i)
      else decide (f.t ≠ 1 ∧ fieldLen f ≠ 0) && a.testBit (fieldPos f + fieldLen f - 1) := by
  have hx : ∀ j, j < fieldLen f → (a / 2 ^ fieldPos f % 2 ^ fieldLen f).testBit j = a.testBit (fieldPos f + j) := fun j hj => by
    rw [testBit_mod_of_lt hj, Nat.testBit_div_two_pow, Nat.add_comm]
  unfold fieldExtract
  by_cases h0 : fieldLen f = 0
  · simp [h0]
  by_cases ht : f.t = 1
  · by_cases h : i < fieldLen f
    · simp [h0, ht, h, hx i h]
    · simp [h0, ht, h, Nat.testBit_mod_two_pow]
  · simp only [h0, ht, if_false]
    rw [testBit_wrapInt_signed (Nat.mod_lt _ (Nat.two_pow_pos _)) hi]
    by_cases h : i < fieldLen f
    · simp [h, hx i h]
    · have hpos : 0 < fieldLen f := Nat.pos_of_ne_zero h0
      rw [if_neg h, if_neg h, hx _ (by omega), Nat.add_sub_assoc hpos, decide_eq_true hpos, decide_eq_true ⟨ht, h0⟩]

/-- A number with `len` bits from `pos` on replaced. -/
theorem testBit_replace (a b pos len i : Nat) :
    (a - a / 2 ^ pos % 2 ^ len * 2 ^ pos + b % 2 ^ len * 2 ^ pos).testBit i =
      if pos ≤ i ∧ i < pos + len then b.testBit (i - pos) else a.testBit i := by
  have hlow : a % 2 ^ pos < 2 ^ pos := Nat.mod_lt _ (Nat.two_pow_pos _)
  have hfield : b % 2 ^ len < 2 ^ len := Nat.mod_lt _ (Nat.two_pow_pos _)
  have hsplit : a - a / 2 ^ pos % 2 ^ len * 2 ^ pos + b % 2 ^ len * 2 ^ pos =
      2 ^ pos * (2 ^ len * (a / 2 ^ pos / 2 ^ len) + b % 2 ^ len) + a % 2 ^ pos := by
    have h1 := Nat.div_add_mod a (2 ^ pos)
    have h2 := Nat.div_add_mod (a / 2 ^ pos) (2 ^ len)
    have h3 : a = 2 ^ pos * (2 ^ len * (a / 2 ^ pos / 2 ^ len)) + a / 2 ^ pos % 2 ^ len * 2 ^ pos + a % 2 ^ pos := by
      rw [Nat.mul_comm _ (2 ^ pos), ← Nat.mul_add, h2, h1]
    rw [Nat.mul_add, Nat.mul_comm (2 ^ pos) (b % 2 ^ len)]
    omega
  rw [hsplit, Nat.testBit_two_pow_mul_add _ hlow, Nat.testBit_two_pow_mul_add _ hfield]
  by_cases h1 : i < pos
  · simp [h1, testBit_mod_of_lt h1]
  · by_cases h2 : i - pos < len
    · have h3 : pos ≤ i ∧ i < pos + len := by omega
      simp [h1, h2, h3, testBit_mod_of_lt h2]
    · have h3 : ¬ (pos ≤ i ∧ i < pos + len) := by omega
      have h4 : i - pos - len + len + pos = i := by omega
      simp [h1, h2, h3, Nat.testBit_div_two_pow, h4]

/-- Bit i of BFI (R115). -/
theorem testBit_fieldInsert (f : Fields) (a b i : Nat) :
    (fieldInsert f a b).testBit i =
      if fieldPos f ≤ i ∧ i < fieldPos f + fieldLen f then b.testBit (i - fieldPos f) else a.testBit i :=
  testBit_replace a b (fieldPos f) (fieldLen f) i

/-- A byte of PRMB (R116). -/
theorem elem_permuteBytes (a b c : Word64) {j : Nat} (hj : j < 8) :
    elem (permuteBytes a b c) 8 j =
      if (elem c 8 j).testBit 4 then 0
      else if elem c 8 j % 16 < 8 then elem a 8 (elem c 8 j % 16) else elem b 8 (elem c 8 j % 16 - 8) := by
  rw [permuteBytes, elem_packElems _ _ _ _ (by decide) hj]
  refine Nat.mod_eq_of_lt ?_
  dsimp only
  split
  · decide
  · split <;> exact elem_lt _ _ _

end Sys2Proof.Machine
end

section
/-! The logic, shift and bit instructions (R112 to R116). -/

namespace Sys2Proof.Machine

/-- Settles O2: each body but PRMB's is `elemOp`, and the bits of each element operation are those of the manual. -/
theorem logicResults : Obligations.LogicResults := by
  unfold Obligations.LogicResults
  intro f s g
  refine ⟨?and, ?or, ?xor, ?andn, ?not, ?shl, ?shr, ?sar, ?rot, ?fshr, ?popc, ?clz, ?ctz, ?brev, ?bfx, ?bfi, ?prmb⟩
  case prmb => exact computed_effect s g rfl rfl rfl rfl fun w d l j hj => elem_permuteBytes _ _ _ hj
  all_goals refine elemOp_effect s g rfl rfl rfl rfl fun a b c ha hb hc => ?_
  case and => exact Nat.mod_eq_of_lt (Nat.and_lt_two_pow _ hb)
  case or => exact Nat.mod_eq_of_lt (Nat.or_lt_two_pow ha hb)
  case xor => exact Nat.mod_eq_of_lt (Nat.xor_lt_two_pow ha hb)
  case andn =>
    intro i hi
    rw [testBit_mod_of_lt hi, Nat.testBit_and, testBit_complement hb hi]
  case not =>
    intro i hi
    rw [testBit_mod_of_lt hi, testBit_complement ha hi]
  case shl => exact Nat.mod_eq_of_lt (shiftLeft_lt _ _ _)
  case shr => exact Nat.mod_eq_of_lt (shiftRight_lt _ ha)
  case sar =>
    intro i hi
    rw [testBit_mod_of_lt hi, testBit_shiftArith b ha hi]
  case rot =>
    intro i hi
    rw [testBit_mod_of_lt (Nat.mod_lt _ (Nat.zero_lt_of_lt hi)), testBit_rotateLeft b ha hi]
  case fshr =>
    intro i hi
    rw [testBit_mod_of_lt hi, testBit_funnelRight c hb hi]
  case popc => exact mod_of_le_width (onesOf_le _ a)
  case clz =>
    split
    · next h0 => rw [h0, leadingZeros_zero, mod_of_le_width (Nat.le_refl _)]
    · next h0 =>
      obtain ⟨hlt, hspec⟩ := leadingZeros_spec ha h0
      rwa [mod_of_le_width (Nat.le_of_lt hlt)]
  case ctz =>
    split
    · next h0 => rw [h0, trailingZeros_zero, mod_of_le_width (Nat.le_refl _)]
    · next h0 =>
      obtain ⟨hlt, hspec⟩ := trailingZeros_spec ha h0
      rwa [mod_of_le_width (Nat.le_of_lt hlt)]
  case brev =>
    intro i hi
    rw [testBit_mod_of_lt (by omega), testBit_reverseBits a hi]
  case bfx =>
    intro i hi
    rw [testBit_mod_of_lt hi, testBit_fieldExtract f a i hi, fieldLen_eq, fieldPos_eq]
  case bfi =>
    intro i hi
    rw [testBit_mod_of_lt hi, testBit_fieldInsert, fieldLen_eq, fieldPos_eq]

end Sys2Proof.Machine
end

section
/-! Laws of the convergence registers, and of convergent instructions that issue for their set (R149, R175, R22). -/

namespace Sys2Proof.Machine

/-! ### Writes of a convergence register -/

section
variable (s : State) (t n : Nat) (c : Conv)

theorem State.team_setConv (x : Nat) :
    (s.setConv t n c).team x =
      if x = t ∧ (Map.find s.teams x).isSome then { s.team x with conv := Map.put (s.team x).conv n c } else s.team x :=
  s.team_changeTeam t _ x

theorem State.team_setConv_eq (x : Nat) :
    (s.setConv t n c).team x = { s.team x with conv := ((s.setConv t n c).team x).conv } := by
  rw [State.team_setConv]
  split <;> rfl

theorem State.conv_setConv (x k : Nat) :
    (s.setConv t n c).conv x k = if (x = t ∧ (Map.find s.teams x).isSome) ∧ k = n then c else s.conv x k := by
  rw [State.conv, State.team_setConv]
  by_cases hx : x = t ∧ (Map.find s.teams x).isSome = true
  · simp only [if_pos hx, Map.at_put, and_iff_right hx]
    rfl
  · rw [if_neg hx, if_neg fun h => hx h.1]
    rfl

theorem State.conv_setConv_self (ht : (Map.find s.teams t).isSome) : (s.setConv t n c).conv t n = c := by
  rw [State.conv_setConv, if_pos ⟨⟨rfl, ht⟩, rfl⟩]

theorem State.conv_setConv_other {x k : Nat} (h : x ≠ t ∨ k ≠ n) : (s.setConv t n c).conv x k = s.conv x k := by
  rw [State.conv_setConv, if_neg]
  rintro ⟨⟨hx, -⟩, hk⟩
  exact h.elim (· hx) (· hk)

theorem State.find_teams_setConv (x : Nat) :
    (Map.find (s.setConv t n c).teams x).isSome = (Map.find s.teams x).isSome := by
  rw [State.setConv_teams, Map.find_change, Option.isSome_map]

theorem State.core_team_setConv (x : Nat) : ((s.setConv t n c).team x).core = (s.team x).core := by
  rw [State.team_setConv_eq]

theorem State.site_setConv (x : Nat) : (s.setConv t n c).site x = s.site x := by
  unfold State.site
  rw [State.team_setConv_eq]
  rfl

theorem State.trimMonitors_setConv (k : Nat) : (s.setConv t n c).trimMonitors k = (s.trimMonitors k).setConv t n c := by
  simp only [State.trimMonitors, State.core_team_setConv]
  rfl

/-- Threads are taken from where they stand whatever the convergence registers hold. -/
theorem State.unplace_setConv (u : Nat) (m : Mask) : (s.setConv t n c).unplace u m = (s.unplace u m).setConv t n c := by
  have hcore : (((s.setConv t n c).ungroup u m).team (teamOfWeave u)).core = ((s.ungroup u m).team (teamOfWeave u)).core :=
    s.core_team_setConv t n c _
  unfold State.unplace
  dsimp only
  rw [hcore, ← State.trimMonitors_setConv]
  rfl

/-- An instruction ends alike whatever the convergence registers hold. -/
theorem State.retire_setConv (g : Group) (f : Fields) : (s.setConv t n c).retire g f = (s.retire g f).setConv t n c := by
  unfold State.retire
  rw [State.site_setConv]
  rfl

theorem State.markDead_setConv (g : Group) (op : Nat) (f : Fields) :
    (s.setConv t n c).markDead g op f = (s.markDead g op f).setConv t n c := rfl

theorem State.eachWeave_setConv (g : Group) (h : Nat → Mask → Weave → Weave) :
    (s.setConv t n c).eachWeave g h = (s.eachWeave g h).setConv t n c := rfl

theorem State.finish_signed (next : List Group) :
    ((s.setConv t n c).clearSigned t n).finish next = ((s.finish next).setConv t n c).clearSigned t n := rfl

theorem State.retire_signed (g : Group) (f : Fields) :
    ((s.setConv t n c).clearSigned t n).retire g f = ((s.retire g f).setConv t n c).clearSigned t n := by
  rw [State.clearSigned, State.retire_setConv, State.retire_setConv]
  rfl

end

/-! ### The last signature of a set -/

/-- The convergence register of a set with the signatures of a group added (R149). -/
def State.signedConv (s : State) (g : Group) (n : Nat) : Conv :=
  { s.conv g.team n with signed := g.members.foldl (fun m e => m ||| e.2) (s.conv g.team n).signed, slot := g.pc }

/-- What it takes for a group to complete its set, named. -/
structure State.Completes (s : State) (i : Instr) (f : Fields) (g : Group) (n : Nat) : Prop where
  issuing : s.issuing = some g
  fits : s.reportsFit = true
  team : (Map.find s.teams g.team).isSome
  fields : i.fields = some f
  named : convNamed f.c = some n
  admitted : s.mayNotSign g n = []
  weaves : ∀ u ∈ (s.wholeSet f g).weaves, (Map.find s.weaves u).isSome
  signs : s.sign g n = .issue (s.setConv g.team n (s.signedConv g n)) (s.wholeSet f g)
  clears : (s.setConv g.team n (s.signedConv g n)).clears i (s.wholeSet f g) = true

theorem State.completesSet_completes {s : State} {i : Instr} {f : Fields} {g : Group} (h : s.completesSet i f g = true) :
    s.Completes i f g ((convNamed f.c).getD 0) := by
  simp only [State.completesSet, Bool.and_eq_true, beq_iff_eq, decide_eq_true_eq] at h
  obtain ⟨⟨⟨⟨hmay, hfields⟩, hweave⟩, hunplace⟩, hsign⟩ := h
  simp only [State.maySign, hfields, State.holdsGroup, Bool.and_eq_true, beq_iff_eq] at hmay
  obtain ⟨⟨⟨⟨⟨⟨hissuing, -⟩, -⟩, -⟩, hfits⟩, hteam⟩, hnot⟩ := hmay
  cases hc : convNamed f.c with
  | none => simp [hc] at hnot
  | some n =>
    simp only [hc, Option.getD_some, List.isEmpty_iff] at hnot hweave hunplace hsign ⊢
    have hs : s.sign g n = .issue (s.setConv g.team n (s.signedConv g n)) (s.wholeSet f g) := by
      unfold State.sign at hsign ⊢
      dsimp only at hsign ⊢
      split at hsign
      · rename_i t whole heq
        split at heq
        · rename_i hall
          rw [if_pos hall, State.unplace_setConv, hunplace]
          simp only [State.wholeSet, hc, Option.getD_some]
          rfl
        · cases heq
      · cases hsign
    rw [hs] at hsign
    refine ⟨hissuing, hfits, hteam, hfields, hc, hnot, fun u hu => ?_, hs, hsign⟩
    simp only [State.wholeSet, hc, Group.weaves, List.map_cons, List.map_nil, List.mem_singleton, Option.getD_some] at hu
    rw [hu]
    exact hweave

theorem teamOfWeave_weaveUid (t : Nat) {weaveId : Nat} (h : weaveId < 64) (shadow : Bool) :
    teamOfWeave (weaveUid t weaveId shadow) = t := by
  unfold teamOfWeave weaveUid
  split <;> omega

/-- The set that a team's threads complete belongs to their team. -/
theorem State.team_wholeSet (s : State) (f : Fields) (g : Group) : (s.wholeSet f g).team = g.team :=
  teamOfWeave_weaveUid g.team (s.conv g.team ((convNamed f.c).getD 0)).hweave.isLt false

/-! ### A convergent instruction that issues -/

/-- The state after a convergent instruction that changed the weaves of its set: that of a register instruction, with the
signatures of the set given and then cleared (R22). -/
def State.convergentNext (s : State) (g : Group) (n : Nat) (whole : Group) (op : Nat) (f : Fields)
    (h : Nat → Mask → Weave → Weave) : State :=
  ((s.registerNext whole op f f h whole.next s.freeCtr).setConv g.team n (s.signedConv g n)).clearSigned g.team n

/-- The body of a convergent instruction that is done decides the next state, in the clock of the last signature. -/
theorem run_of_completes {s : State} {i : Instr} {fm : Format} {f : Fields} {g : Group} {n : Nat} {body : Body}
    {h : Nat → Mask → Weave → Weave} (hi : i.format = some fm) (hc : convergent fm.opcode = true) (hs : s.Completes i f g n)
    (hb : ∀ t whole, body t whole = .done (t.eachWeave whole h) whole.next) :
    run i f body s = .next (s.convergentNext g n (s.wholeSet f g) fm.opcode f h) := by
  have hfit : ∀ t : State, t.dies = s.dies → t.roomFor = true := fun t ht => by
    have := hs.fits
    simpa [State.roomFor, State.reportsFit, ht] using this
  have hsome : s.signSome g n = .issue (s.setConv g.team n (s.signedConv g n)) (s.wholeSet f g) := by
    rw [State.signSome, hs.admitted, ← hs.signs]
  have hframes : s.framesFree (s.signingTraps g n) = true := by
    simp [State.signingTraps, hs.admitted, State.framesFree]
  rw [run, hs.issuing, hi]
  simp only [hc, hs.named]
  rw [runConvergent, State.signThen, hframes, hsome]
  simp only [Bool.not_true, Bool.false_eq_true, if_false]
  rw [if_pos (hfit (s.setConv _ _ _) rfl), beforeBody_of_clears _ fm.opcode f hi hs.fields hs.clears, hb, State.team_wholeSet,
    State.markDead_setConv, State.eachWeave_setConv, Res.cleared, Res.end_,
    if_pos (by exact hfit _ (by simp [State.clearSigned])), State.retire_signed, State.finish_signed]
  rfl

section
variable (s : State) (g : Group) (n : Nat) (whole : Group) (op : Nat) (f : Fields) (h : Nat → Mask → Weave → Weave)

theorem State.registerNext_teams : (s.registerNext whole op f f h whole.next s.freeCtr).teams = s.teams := by
  rw [State.registerNext_eq]

theorem State.registerNext_team (x : Nat) : (s.registerNext whole op f f h whole.next s.freeCtr).team x = s.team x := by
  rw [State.team, State.registerNext_teams, State.team]

theorem State.registerNext_completed : Completed s (s.registerNext whole op f f h whole.next s.freeCtr) whole.next :=
  State.completed_finish s ((s.markDead whole op f).eachWeave whole h) whole f whole.next rfl rfl

theorem State.convergentNext_eq :
    s.convergentNext g n whole op f h =
      { s.registerNext whole op f f h whole.next s.freeCtr with teams := (s.convergentNext g n whole op f h).teams } := by
  unfold State.convergentNext
  generalize s.registerNext whole op f f h whole.next s.freeCtr = r
  rfl

theorem State.convergentNext_weave (u : Nat) :
    (s.convergentNext g n whole op f h).weave u = (s.registerNext whole op f f h whole.next s.freeCtr).weave u := by
  rw [State.convergentNext_eq]
  rfl

theorem State.convergentNext_conv (ht : (Map.find s.teams g.team).isSome) :
    (s.convergentNext g n whole op f h).conv g.team n =
      { s.signedConv g n with signed := 0, gen := (s.conv g.team n).gen + 1 } := by
  have hfind : (Map.find (s.registerNext whole op f f h whole.next s.freeCtr).teams g.team).isSome := by
    rwa [State.registerNext_teams]
  unfold State.convergentNext
  generalize s.registerNext whole op f f h whole.next s.freeCtr = r at hfind ⊢
  rw [State.clearSigned, State.conv_setConv_self _ _ _ _ (by rwa [State.find_teams_setConv]),
    State.conv_setConv_self _ _ _ _ hfind]
  rfl

theorem State.convergentNext_keepsTeams : KeepsTeams s (s.convergentNext g n whole op f h) g.team n := by
  intro x
  have hr := s.registerNext_team whole op f h x
  unfold State.convergentNext
  generalize s.registerNext whole op f f h whole.next s.freeCtr = r at hr ⊢
  refine ⟨?_, fun k hk => ?_⟩
  · rw [State.clearSigned, State.team_setConv_eq, State.team_setConv_eq, hr]
  · rw [State.clearSigned, State.conv_setConv_other _ _ _ _ hk, State.conv_setConv_other _ _ _ _ hk, State.conv, hr]
    rfl

/-- The frame of a convergent instruction is that of a register instruction, but for the convergence register. -/
theorem State.convergentNext_frame {dests : List Operand} (hg : whole.team = g.team)
    (hw : ∀ u ∈ whole.weaves, (Map.find s.weaves u).isSome)
    (hk : ∀ (u : Nat) (m : Mask) (w : Weave), w.keeps (h u m w) ∧ w.keepsRegisters (h u m w) dests) :
    ConvergentFrame s (s.convergentNext g n whole op f h) whole n dests := by
  obtain ⟨hmem, ⟨hmodule, hgang⟩, hregs⟩ := s.registerNext_frame whole op f f h whole.next s.freeCtr dests hw hk
  have hteams := s.convergentNext_keepsTeams g n whole op f h
  have he := s.convergentNext_eq g n whole op f h
  generalize s.convergentNext g n whole op f h = t at hteams he ⊢
  generalize s.registerNext whole op f f h whole.next s.freeCtr = r at hmem hmodule hgang hregs he
  generalize ht : t.teams = teams at he
  subst he
  exact ⟨hmem, ⟨congrArg (fun r : State => { r with teams }) hmodule, hgang⟩, hg ▸ hteams, hregs⟩

end

/-- The registers of a weave read like those of another. -/
def Weave.ReadsAs (x y : Weave) : Prop :=
  (∀ n l, x.vread n l = y.vread n l) ∧ (∀ n, x.sread n = y.sread n) ∧ ∀ n l, x.pread n l = y.pread n l

/-- A convergent instruction whose body is done with the weaves of the set changed. -/
theorem convergentEffect_of_done {i : Instr} {fm : Format} {f : Fields} {body : Body} {h : Nat → Mask → Weave → Weave}
    {dests : List Operand} {result : State → Group → Prop} (s : State) (g : Group) (hx : exec i s = run i f body s)
    (hi : i.format = some fm) (hc : convergent fm.opcode = true)
    (hb : ∀ t whole, body t whole = .done (t.eachWeave whole h) whole.next)
    (hk : ∀ u m (w : Weave), w.keeps (h u m w) ∧ w.keepsRegisters (h u m w) dests)
    (hr : ∀ t : State, (∀ u ∈ (s.wholeSet f g).weaves, ∃ d,
      (t.weave u).ReadsAs (h u ((s.wholeSet f g).lanes u) ((s.weave u).withDead d))) → result t (s.wholeSet f g)) :
    ConvergentEffect i f s g dests result := by
  intro hset
  have hs := State.completesSet_completes hset
  have hconv := s.convergentNext_conv g ((convNamed f.c).getD 0) (s.wholeSet f g) fm.opcode f h hs.team
  refine ⟨_, hx.trans (run_of_completes hi hc hs hb), ?_,
    s.convergentNext_frame g _ _ fm.opcode f h (s.team_wholeSet f g) hs.weaves hk,
    by rw [hconv], by rw [hconv], by rw [hconv]; rfl, by rw [hconv]; rfl, hr _ fun u hu => ?_⟩
  · have hdone := s.registerNext_completed (s.wholeSet f g) fm.opcode f h
    rw [State.convergentNext_eq]
    generalize s.registerNext (s.wholeSet f g) fm.opcode f f h _ _ = r at hdone ⊢
    exact hdone
  · obtain ⟨m, d, y, k, hm, hw⟩ :=
      s.registerNext_weave (s.wholeSet f g) fm.opcode f f h (s.wholeSet f g).next s.freeCtr u hu (hs.weaves u hu)
    refine ⟨d, ?_⟩
    rw [State.convergentNext_weave, hw, Group.lanes, Map.at, hm]
    exact ⟨fun _ _ => rfl, fun _ => rfl, fun _ _ => rfl⟩

/-- A convergent instruction's word may be taken to pass the checks of R80 (R151). -/
theorem convergentEffect_of_check {i : Instr} {fm : Format} {f : Fields} {s : State} {g : Group} {dests : List Operand}
    {result : State → Group → Prop} (hi : i.format = some fm)
    (h : ∀ env, fm.check env f = none → ConvergentEffect i f s g dests result) : ConvergentEffect i f s g dests result := by
  intro hset
  have hs := State.completesSet_completes hset
  have hclears := hs.clears
  simp only [State.clears, hi, hs.fields, Bool.and_eq_true, beq_iff_eq] at hclears
  obtain ⟨⟨⟨hcheck, -⟩, -⟩, -⟩ := hclears
  exact h _ hcheck hset

end Sys2Proof.Machine
end

section
/-! The cross-lane instructions (R149 to R161). -/

namespace Sys2Proof.Machine

/-! ### Results of the active lanes: VOTE, MATCH, REDUCE and SCAN -/

/-- The active lanes of a weave of a group, whatever registers are marked dead. -/
theorem State.active_withDead (s : State) (g : Group) (f : Fields) (u : Nat) (d : List Nat) :
    ((s.weave u).withDead d).active f (g.lanes u) = s.active g f u := rfl

/-- An instruction whose body is `acrossBody`. -/
theorem acrossBody_effect {i : Instr} {fm : Format} {f : Fields} {val : Weave → Mask → Nat → Word64}
    {rule : Weave → Mask → Nat → Word64 → Prop} (s : State) (g : Group) (hx : exec i s = run i f (acrossBody f val) s)
    (hi : i.format = some fm) (hc : convergent fm.opcode = true)
    (hv : ∀ (w : Weave) d act l, rule w act l (val (w.withDead d) act l)) :
    ConvergentEffect i f s g [f.d] fun t whole =>
      ∀ u ∈ whole.weaves,
        (s.weave u).gives (t.weave u) (s.active whole f u) f.d (rule (s.weave u) (s.active whole f u)) := by
  refine convergentEffect_of_done
    (h := fun _ m x => x.dest f.d (x.active f m) (val x (x.active f m)) (val x (x.active f m) 0)) s g hx hi hc
    (fun _ _ => rfl) (fun _ _ w => ⟨w.keeps_dest _ _ _ _, w.keepsRegisters_dest _ _ _ _⟩) fun t ht u hu => ?_
  obtain ⟨d, h1, h2, h3⟩ := ht u hu
  exact Weave.gives_dest ((s.weave u).withDead d) _ _ _ f.d _ _ _ rfl h1 h2 h3 (s.active_live _ f u) (fun l => hv _ d _ l)
    (hv _ d _ 0)

/-! ### The tree of R66 -/

/-- The nodes of the full binary tree, by depth and place: each joins the two below it. -/
theorem treeOf_node (op : Nat → Nat → Nat) (val : Nat → Nat) (d i : Nat) :
    treeOf op val (d + 1) (i * 2 ^ (d + 1)) =
      op (treeOf op val d (2 * i * 2 ^ d)) (treeOf op val d ((2 * i + 1) * 2 ^ d)) := by
  have hlow : i * 2 ^ (d + 1) = 2 * i * 2 ^ d := by ring
  have hhigh : i * 2 ^ (d + 1) + 2 ^ d = (2 * i + 1) * 2 ^ d := by ring
  rw [treeOf, hhigh, hlow]

/-- The result of REDUCE or SCAN over the positions below `n`: an integer sum is exact and fitted once (R159); anything else is
the root of a tree which the positions from `n` on enter as the identity (R66, R67). -/
def Combines (f : Fields) (val : Nat → Nat) (n x : Nat) : Prop :=
  if f.t.toNat ≤ 1 then
    x = fit f.width.bits (f.t.toNat == 1) f.sat
      (((List.range n).map fun i => number (f.t.toNat == 1) f.width.bits (val i)).sum)
  else
    ∃ tree : Nat → Nat → Nat, (∀ i, tree 0 i = if i < n then val i else identityOf f) ∧
      (∀ d i, tree (d + 1) i = combineCodes f (tree d (2 * i)) (tree d (2 * i + 1))) ∧
      x = tree (5 + Nat.log2 f.width.count) 0

theorem unsignedT_eq_toNat (f : Fields) : (f.t == 1) = (f.t.toNat == 1) := by
  rw [Bool.eq_iff_iff, beq_iff_eq, beq_iff_eq, BitVec.toNat_eq]
  rfl

theorem combines_combined (f : Fields) (val : Nat → Nat) (n : Nat) : Combines f val n (combined f val n) := by
  by_cases hT : f.t.toNat ≤ 1
  · rw [Combines, if_pos hT, combined, if_pos hT, sumCodes, unsignedT_eq_toNat]
    rfl
  · rw [Combines, if_neg hT, combined, if_neg hT]
    refine ⟨fun d i => treeOf (combineCodes f) (fun i => if i < n then val i else identityOf f) d (i * 2 ^ d),
      fun i => ?_, fun d i => treeOf_node _ _ d i, ?_⟩
    · simp only [treeOf, pow_zero, mul_one]
    · simp only [zero_mul]

/-- A lane of packed results: each sub-element is the low bits of a result over its positions. -/
theorem elem_pack_combined (f : Fields) (val : Nat → Nat) (taken : Nat → Nat) {k : Nat} (hk : k < f.width.count) :
    ∃ x, Combines f val (taken k) x ∧
      elem (packElems f.width.bits (fun k => combined f val (taken k)) f.width.count) f.width.bits k = x % 2 ^ f.width.bits :=
  ⟨_, combines_combined f val (taken k), elem_packElems _ _ _ _ (Nat.le_of_eq (count_mul_bits f.width)) hk⟩

/-! ### Moves: PERM, BCAST and SHFL -/

/-- The vacancy predicate that T names (R154). -/
def vacancyOf (f : Fields) : List Operand := if f.t = 0 then [] else [.p (BitVec.ofNat 3 (f.t.toNat - 1))]

/-- A source lane gives its value: it is a member and not vacant (R150). -/
def Supplied (x : Weave) (m : Mask) (sl : Int) : Prop := 0 ≤ sl ∧ (m &&& x.live).getLsbD sl.toNat = true

/-- Each sub-element of a lane is its source's, where that lane gives its value, else the fill value (R154). -/
def MovedElements (f : Fields) (source : Weave → Nat → Nat → Int × Nat) (x : Weave) (m : Mask) (l : Nat) (y : Word64) : Prop :=
  ∀ k < f.width.count,
    let from_ := source x l k
    (Supplied x m from_.1 → elem y f.width.bits k = elem (x.opnd f f.a from_.1.toNat) f.width.bits from_.2) ∧
    (¬Supplied x m from_.1 → elem y f.width.bits k = fillOf f)

/-- The vacancy predicate of a lane: a sub-element has taken the fill (R154). -/
def MovedVacancy (f : Fields) (source : Weave → Nat → Nat → Int × Nat) (x : Weave) (m : Mask) (l : Nat) (y : Word64) : Prop :=
  y.getLsbD 0 = true ↔ ∃ k < f.width.count, ¬Supplied x m (source x l k).1

/-- What PERM, BCAST and SHFL give to the set `whole` by their source function (R154). -/
def MovesLanes (f : Fields) (source : Weave → Nat → Nat → Int × Nat) (s t : State) (whole : Group) : Prop :=
  ∀ u ∈ whole.weaves,
    let gives := (s.weave u).gives (t.weave u) (s.active whole f u)
    (∀ n, f.d = .v n → gives f.d (MovedElements f source (s.weave u) (whole.lanes u))) ∧
    (f.t ≠ 0 → gives (.p (BitVec.ofNat 3 (f.t.toNat - 1))) (MovedVacancy f source (s.weave u) (whole.lanes u)))

theorem supplies_iff (x : Weave) (m : Mask) (sl : Int) :
    supplies x m sl = true ↔ Supplied x m sl := by
  rw [supplies, Bool.and_eq_true, decide_eq_true_iff, Supplied]

theorem fillOf_lt (f : Fields) : fillOf f < 2 ^ f.width.bits := by
  unfold fillOf
  split
  · exact Nat.mod_lt _ (Nat.two_pow_pos _)
  · exact Nat.two_pow_pos _

section
variable (f : Fields) (src : Fields → Weave → Nat → Nat → Int × Nat) (x : Weave) (m : Mask)

/-- A sub-element that is moved is its source's, or the fill value. -/
theorem elem_movedLane (l : Nat) {k : Nat} (hk : k < f.width.count) :
    elem (movedLane f src x m l).1 f.width.bits k =
      if supplies x m (src f x l k).1 then elem (x.opnd f f.a (src f x l k).1.toNat) f.width.bits (src f x l k).2
      else fillOf f := by
  refine (elem_packElems _ _ _ _ (Nat.le_of_eq (count_mul_bits f.width)) hk).trans (Nat.mod_eq_of_lt ?_)
  dsimp only
  split
  · exact elem_lt _ _ _
  · exact fillOf_lt f

theorem movedLane_vacant_iff (l : Nat) :
    (movedLane f src x m l).2 = true ↔ ∃ k < f.width.count, ¬supplies x m (src f x l k).1 = true := by
  simp [movedLane]

section
variable {f src} {source : Weave → Nat → Nat → Int × Nat} {d : List Nat}
variable (hsrc : ∀ l k, src f (x.withDead d) l k = source x l k)
include hsrc

theorem movedElements_movedLane (l : Nat) : MovedElements f source x m l (movedLane f src (x.withDead d) m l).1 := by
  intro k hk
  dsimp only
  rw [elem_movedLane f src _ m l hk, hsrc]
  have hiff := supplies_iff (x.withDead d) m (source x l k).1
  exact ⟨fun h => if_pos (hiff.mpr h), fun h => if_neg fun e => h (hiff.mp e)⟩

theorem movedVacancy_movedLane (l : Nat) :
    MovedVacancy f source x m l (if (movedLane f src (x.withDead d) m l).2 then 1 else 0) := by
  rw [MovedVacancy, getLsbD_zero_bit, movedLane_vacant_iff]
  simp only [hsrc, supplies_iff]
  rfl

end

/-- What PERM, BCAST and SHFL make of one weave: the change that `moveBody` carries out. -/
def Weave.moveLanes : Weave :=
  let act := x.active f m
  let y := x.dest f.d act (fun l => (movedLane f src x m l).1) 0
  if f.t = 0 then y else y.pwrite (f.t.toNat - 1) act fun l => (movedLane f src x m l).2

variable {f}

/-- Only an s register is written once for the weave. -/
theorem Weave.dest_once {o : Operand} (ho : (∃ n, o = .v n) ∨ o = .zero) (act : Mask) (val : Nat → Word64) (a b : Word64) :
    x.dest o act val a = x.dest o act val b := by
  obtain ⟨n, rfl⟩ | rfl := ho <;> rfl

theorem Weave.moveLanes_of_none (ho : (∃ n, f.d = .v n) ∨ f.d = .zero) (ht : f.t = 0) :
    x.moveLanes f src m =
      x.dest f.d (x.active f m) (fun l => (movedLane f src x m l).1) (movedLane f src x m 0).1 :=
  (if_pos ht).trans (x.dest_once ho _ _ _ _)

/-- The vacancy predicate that T names is written as a destination of the p class. -/
theorem Weave.moveLanes_of_vacancy (ho : (∃ n, f.d = .v n) ∨ f.d = .zero) (ht : f.t ≠ 0) (h7 : f.t.toNat ≤ 7) :
    x.moveLanes f src m =
      (x.dest f.d (x.active f m) (fun l => (movedLane f src x m l).1) (movedLane f src x m 0).1).dest
        (.p (BitVec.ofNat 3 (f.t.toNat - 1))) (x.active f m) (fun l => if (movedLane f src x m l).2 then 1 else 0) 0 := by
  have hn : (BitVec.ofNat 3 (f.t.toNat - 1)).toNat = f.t.toNat - 1 := by
    rw [BitVec.toNat_ofNat]
    omega
  rw [x.dest_once ho _ _ _ 0, Weave.moveLanes]
  simp only [if_neg ht, Weave.dest, hn, getLsbD_zero_bit]

theorem Weave.keeps_moveLanes (ho : (∃ n, f.d = .v n) ∨ f.d = .zero) (h7 : f.t.toNat ≤ 7) :
    x.keeps (x.moveLanes f src m) ∧ x.keepsRegisters (x.moveLanes f src m) (f.d :: vacancyOf f) := by
  by_cases ht : f.t = 0
  · rw [x.moveLanes_of_none src m ho ht, vacancyOf, if_pos ht]
    exact ⟨x.keeps_dest _ _ _ _, x.keepsRegisters_dest _ _ _ _⟩
  · rw [x.moveLanes_of_vacancy src m ho ht h7, vacancyOf, if_neg ht]
    exact ⟨Weave.keeps_trans (x.keeps_dest _ _ _ _) (Weave.keeps_dest _ _ _ _ _),
      Weave.keepsRegisters_trans (x.keepsRegisters_dest _ _ _ _) (Weave.keepsRegisters_dest _ _ _ _ _) (by simp) (by simp)⟩

/-- The moves give D, and the vacancy predicate if T names one, what their rules say. -/
theorem Weave.gives_moveLanes {w y : Weave} {act : Mask} {rule ruleP : Nat → Word64 → Prop}
    (ho : (∃ n, f.d = .v n) ∨ f.d = .zero) (h7 : f.t.toNat ≤ 7) (ha : w.active f m = act)
    (hy : y.ReadsAs (w.moveLanes f src m)) (hact : ∀ l, (act &&& w.live).getLsbD l = act.getLsbD l)
    (hv : ∀ l, rule l (movedLane f src w m l).1) (hp : ∀ l, ruleP l (if (movedLane f src w m l).2 then 1 else 0)) :
    w.gives y act f.d rule ∧ (f.t ≠ 0 → w.gives y act (.p (BitVec.ofNat 3 (f.t.toNat - 1))) ruleP) := by
  subst ha
  obtain ⟨h1, h2, h3⟩ := hy
  by_cases ht : f.t = 0
  · exact ⟨Weave.gives_dest w y _ _ f.d _ _ rule (w.moveLanes_of_none src m ho ht) h1 h2 h3 hact hv (hv 0),
      fun h => (h ht).elim⟩
  · obtain ⟨hd, hvac⟩ := Weave.gives_pair ho (w.moveLanes_of_vacancy src m ho ht h7) h1 h3 hact hv hp
    exact ⟨hd, fun _ => hvac⟩

end

/-- A word that passes check 3 of R80 has the modifier values that its format lists. -/
theorem Format.check_modOk {fm : Format} {env : Env} {f : Fields} (h : fm.check env f = none) : fm.modOk f = true := by
  simp only [Format.check, some_ite_eq_none] at h
  obtain ⟨-, -, hmod, -⟩ := h
  simp only [Bool.or_eq_true, not_or, Bool.not_eq_true', Bool.not_eq_false] at hmod
  exact hmod.1

/-- What the checks of R80 ask of a move: D is a v register or ZERO, and T names at most p6. -/
theorem fmtMove6_check {op : Nat} {b : List Cls} {rmMax : Nat} {env : Env} {f : Fields}
    (h : (fmtMove6 op b rmMax).check env f = none) : ((∃ n, f.d = .v n) ∨ f.d = .zero) ∧ f.t.toNat ≤ 7 := by
  have hcls : f.d.cls ∈ vz := (Format.check_classes h).1
  have hmod : modBox anyW 7 rmMax false true f = true := Format.check_modOk h
  simp only [modBox, Bool.and_eq_true, decide_eq_true_eq] at hmod
  obtain ⟨⟨⟨⟨-, hT⟩, -⟩, -⟩, -⟩ := hmod
  refine ⟨?_, hT⟩
  cases ho : f.d <;> simp [ho, vz, Operand.cls] at hcls ⊢

/-- An instruction whose body is `moveBody`. -/
theorem moveBody_effect {i : Instr} {op rmMax : Nat} {b : List Cls} {f : Fields}
    {src : Fields → Weave → Nat → Nat → Int × Nat} {source : Weave → Nat → Nat → Int × Nat} (s : State) (g : Group)
    (hx : exec i s = run i f (moveBody f src) s) (hi : i.format = some (fmtMove6 op b rmMax)) (hc : convergent op = true)
    (hsrc : ∀ (w : Weave) d l k, src f (w.withDead d) l k = source w l k) :
    ConvergentEffect i f s g (f.d :: vacancyOf f) (MovesLanes f source s) := by
  refine convergentEffect_of_check hi fun env hcheck => ?_
  obtain ⟨ho, h7⟩ := fmtMove6_check hcheck
  refine convergentEffect_of_done (h := fun _ m x => x.moveLanes f src m) s g hx hi hc (fun _ _ => rfl)
    (fun _ m w => w.keeps_moveLanes src m ho h7) fun t ht u hu => ?_
  obtain ⟨d, hy⟩ := ht u hu
  obtain ⟨hd, hvac⟩ := Weave.gives_moveLanes src _ ho h7 (s.active_withDead _ f u d) hy (s.active_live _ f u)
    (movedElements_movedLane (s.weave u) _ (hsrc _ d)) (movedVacancy_movedLane (s.weave u) _ (hsrc _ d))
  exact ⟨fun _ _ => hd, hvac⟩

end Sys2Proof.Machine
end

section
/-! What the manual says of each cross-lane instruction, and the obligation on them. -/

namespace Sys2Proof.Machine

theorem boolWord_beq (a b : Mask) : boolWord (a == b) = if a = b then 1 else 0 := by
  simp only [boolWord, beq_iff_eq]

/-- The source lane of SHFL by its RM field (R155). -/
def shiftedLane (rm l d : Nat) : Int :=
  match rm with
  | 0 => ((l + d : Nat) : Int)
  | 1 => (l : Int) - d
  | 2 => ((l ^^^ d : Nat) : Int)
  | _ => (((l + d) % 32 : Nat) : Int)

theorem shflSource_eq (f : Fields) (x : Weave) (l k : Nat) :
    shflSource f x l k = (shiftedLane f.rm.toNat l ((x.opnd f f.b l).toNat % 32), k) := by
  have h0 : f.rm = 0 ↔ f.rm.toNat = 0 := BitVec.toNat_eq
  have h1 : f.rm = 1 ↔ f.rm.toNat = 1 := BitVec.toNat_eq
  have h2 : f.rm = 2 ↔ f.rm.toNat = 2 := BitVec.toNat_eq
  simp only [shflSource, h0, h1, h2]
  rcases f.rm.toNat with _ | _ | _ | n <;> simp [shiftedLane]

/-- The result of VOTE by its T field, from the ballot of the active lanes (R156). -/
def voteOf (T : Nat) (b act : Mask) : Word64 :=
  match T with
  | 0 => b.setWidth 64
  | 1 => if b = act then 1 else 0
  | 2 => if b = 0 then 0 else 1
  | _ => if b = 0 ∨ b = act then 1 else 0

theorem voteValue_eq (f : Fields) (x : Weave) (act : Mask) : voteValue f x act = voteOf f.t.toNat (ballot f x act) act := by
  have h0 : f.t = 0 ↔ f.t.toNat = 0 := BitVec.toNat_eq
  have h1 : f.t = 1 ↔ f.t.toNat = 1 := BitVec.toNat_eq
  have h2 : f.t = 2 ↔ f.t.toNat = 2 := BitVec.toNat_eq
  simp only [voteValue, h0, h1, h2]
  rcases f.t.toNat with _ | _ | _ | n <;> simp [voteOf, boolWord]

/-- The active lanes whose key is that of a lane (R157). -/
def sameKey (f : Fields) (x : Weave) (act : Mask) (l : Nat) : Mask :=
  maskOf ((lanesOf act).filter fun j => matchKey f x j == matchKey f x l)

/-- The result of MATCH from the lanes with a lane's key (R157). -/
def matchOf (f : Fields) (same act : Mask) : Word64 :=
  if f.t = 0 then same.setWidth 64 else if same = act then 1 else 0

theorem matchValue_eq (f : Fields) (x : Weave) (act : Mask) (l : Nat) :
    matchValue f x act l = matchOf f (sameKey f x act l) act := by
  rw [matchOf, ← boolWord_beq]
  rfl

/-- Each sub-element of a lane is the result over the positions that `taken` says (R161). -/
def CombinedElements (f : Fields) (taken : Nat → Nat → Nat) (x : Weave) (act : Mask) (l : Nat) (y : Word64) : Prop :=
  ∀ k < f.width.count, ∃ r, Combines f (positionValue f x act) (taken l k) r ∧ elem y f.width.bits k = r % 2 ^ f.width.bits

theorem reduceValue_combined (f : Fields) (x : Weave) (act : Mask) (l : Nat) :
    CombinedElements f (fun _ _ => 32 * f.width.count) x act l (reduceValue f x act) :=
  fun _ hk => elem_pack_combined f (positionValue f x act) (fun _ => 32 * f.width.count) hk

/-- The positions that a SCAN takes for a position: those up to it, with .excl those before it (R67). -/
def scanned (f : Fields) (l k : Nat) : Nat := l * f.width.count + k + if f.x then 0 else 1

theorem scanValue_combined (f : Fields) (x : Weave) (act : Mask) (l : Nat) :
    CombinedElements f (scanned f) x act l (scanValue f x act l) := by
  have hvalue : scanValue f x act l =
      packElems f.width.bits (fun k => combined f (positionValue f x act) (scanned f l k)) f.width.count := by
    simp only [scanValue, scanned]
    congr 1
    funext k
    split <;> rfl
  intro k hk
  rw [hvalue]
  exact elem_pack_combined f (positionValue f x act) (scanned f l) hk

/-- Settles O9: each body is `moveBody` or `acrossBody`, and the source lanes, ballots, keys and trees are those of the
manual. -/
theorem crossLaneResults : Obligations.CrossLaneResults := by
  unfold Obligations.CrossLaneResults
  intro f s g
  refine ⟨?perm, ?bcast, ?shfl, ?vote, ?matchOp, ?reduce, ?scan⟩
  case perm => exact moveBody_effect (source := permSource f) s g rfl rfl rfl fun w d l k => rfl
  case bcast => exact moveBody_effect (source := bcastSource f) s g rfl rfl rfl fun w d l k => rfl
  case shfl =>
    exact moveBody_effect (source := fun w l k => (shiftedLane f.rm.toNat l ((w.opnd f f.b l).toNat % 32), k)) s g rfl rfl rfl
      fun w d => shflSource_eq f (w.withDead d)
  case vote =>
    exact acrossBody_effect (rule := fun w act _ y => y = voteOf f.t.toNat (ballot f w act) act) s g rfl rfl rfl
      fun w d act _ => voteValue_eq f (w.withDead d) act
  case matchOp =>
    exact acrossBody_effect (rule := fun w act l y => y = matchOf f (sameKey f w act l) act) s g rfl rfl rfl
      fun w d => matchValue_eq f (w.withDead d)
  case reduce =>
    exact acrossBody_effect (rule := CombinedElements f fun _ _ => 32 * f.width.count) s g rfl rfl rfl
      fun w d => reduceValue_combined f (w.withDead d)
  case scan =>
    exact acrossBody_effect (rule := CombinedElements f (scanned f)) s g rfl rfl rfl fun w d => scanValue_combined f (w.withDead d)

end Sys2Proof.Machine
end
